-- ==== Sys2Proof/Word.lean ====
section
/-! DEFINITION. The words of the KX-8: register words, instruction words, nest records, bytes, and
the sparse map in which State holds every numbered store. Only the types and their plainest
operations stand here; bit fields and conversions are in `Sys2Proof.Machine.Bits`. -/

namespace Sys2Proof

/-- A control-core register word (R68). -/
abbrev Word := BitVec 64
/-- A control-core instruction word (R45). -/
abbrev IWord := BitVec 32
/-- A vector or accumulator element (R128, R148). -/
abbrev Elem := BitVec 32
/-- A nest record, a segment header or a stream register: 512 bits (R57, R31, R112). -/
abbrev Line := BitVec 512
/-- One byte. -/
abbrev Byte := BitVec 8

/-- A store indexed by numbers, as the list of its entries that differ from the store's default. -/
abbrev KMap (α : Type) := List (Nat × α)

end Sys2Proof
end

