-- ==== Sys2Proof/Machine/Bits.lean ====
section
/-! DEFINITION. Bit fields, sign extension and byte order (R4, R7), used everywhere below. -/

namespace Sys2Proof

/-- Bits `lo + w - 1` down to `lo` of `x`, as a number (R7: `x[h:l]`). -/
def bitsAt {n : Nat} (x : BitVec n) (lo w : Nat) : Nat := (x.extractLsb' lo w).toNat

/-- Bit `i` of `x`. -/
def bitAt {n : Nat} (x : BitVec n) (i : Nat) : Bool := x.getLsbD i

/-- The field of `w` bits at `lo` as a signed number (R7: `sext`). -/
def sbitsAt {n : Nat} (x : BitVec n) (lo w : Nat) : Int := (x.extractLsb' lo w).toInt

/-- `x` with the field of `w` bits at `lo` replaced by `v`. -/
def putBits {n : Nat} (x : BitVec n) (lo w : Nat) (v : Nat) : BitVec n :=
  let m : BitVec n := BitVec.ofNat n ((2 ^ w - 1) * 2 ^ lo)
  (x &&& ~~~m) ||| BitVec.ofNat n (v % 2 ^ w * 2 ^ lo)

/-- The `n` bytes of `v`, least significant first (R4). -/
def leBytes : Nat → Nat → List Byte
  | 0, _ => []
  | n + 1, v => BitVec.ofNat 8 v :: leBytes n (v / 256)

/-- The value of bytes given least significant first (R4). -/
def ofLeBytes : List Byte → Nat
  | [] => 0
  | b :: r => b.toNat + 256 * ofLeBytes r

/-- Sign-extend a field to a register word (R49). -/
def sextW {n : Nat} (x : BitVec n) : Word := x.signExtend 64

/-- The value of a Boolean as a word: 1 or 0. -/
def b2w (b : Bool) : Word := if b then 1 else 0

/-- Least multiple count: `ceil (a / b)` (R7). -/
def ceilDiv (a b : Nat) : Nat := if b = 0 then 0 else (a + b - 1) / b

/-- Number of leading zeros of a word of `n` bits (R74, R157). -/
def clzNat (n v : Nat) : Nat := if v = 0 then n else n - 1 - Nat.log2 v

/-- Number of ones among the low `n` bits. -/
def popNat : Nat → Nat → Nat
  | 0, _ => 0
  | n + 1, v => v % 2 + popNat n (v / 2)

/-- Exclusive or of a list of numbers. -/
def xorAll (l : List Nat) : Nat := l.foldl Nat.xor 0

/-- Cut a list into pieces of `k`. -/
def chunks {α : Type} (k : Nat) : Nat → List α → List (List α)
  | 0, _ => []
  | n + 1, l => l.take k :: chunks k n (l.drop k)

/-- Element `i` of a list, with a default. -/
def nth {α : Type} (d : α) (l : List α) (i : Nat) : α := l.getD i d

/-- The numbers R55 lists. -/
def specialListed (n : Nat) : Bool :=
  decide (n ≤ 2) || (decide (8 ≤ n) && decide (n ≤ 0x11)) || (decide (0x18 ≤ n) && decide (n ≤ 0x1B))
    || (decide (0x20 ≤ n) && decide (n ≤ 0x22)) || (decide (0x28 ≤ n) && decide (n ≤ 0x2A))
    || (decide (0x30 ≤ n) && decide (n ≤ 0x38)) || n == 0x40 || n == 0x41

/-- Trip count of level `k` of a record (R57: 0 means 65,536). -/
def tripOf (r : Line) (k : Nat) : Nat :=
  let t := bitsAt r (96 + 16 * k) 16
  if t = 0 then 65536 else t

/-- Column and operation number of a record (R57). -/
def colOf (r : Line) : Nat := bitsAt r 21 4
def opOf (r : Line) : Nat := bitsAt r 9 12

end Sys2Proof
end

