-- ==== Sys2Proof/Machine/Digest.lean ====
section
/-! DEFINITION. CRC-32C with the parameters of R40, and SHA3-512 with the sponge it is made of (R373, R389, R390; the
manual names the standard function, FIPS 202: PRESUMED, log entry 21). -/

namespace Sys2Proof.Machine

/-! ## CRC-32C (R40) -/

/-- The initial value. -/
def crcInit : BitVec 32 := 0xFFFFFFFF

/-- One bit of the reflected polynomial 0x82F63B78. -/
def crcBit (c : BitVec 32) : BitVec 32 := if c.getLsbD 0 then (c >>> 1) ^^^ 0x82F63B78 else c >>> 1

/-- One byte. -/
def crcByte (c : BitVec 32) (b : Byte) : BitVec 32 :=
  crcBit (crcBit (crcBit (crcBit (crcBit (crcBit (crcBit (crcBit (c ^^^ b.setWidth 32))))))))

def crcBytes (c : BitVec 32) (bs : List Byte) : BitVec 32 := bs.foldl crcByte c

/-- The final xor. -/
def crcFinal (c : BitVec 32) : BitVec 32 := c ^^^ 0xFFFFFFFF

/-- A control-core word, little-endian. -/
def crcWord (c : BitVec 32) (w : IWord) : BitVec 32 := crcBytes c (leBytes 4 w.toNat)

/-- A record, as its 64 bytes. -/
def crcLine (c : BitVec 32) (r : Line) : BitVec 32 := crcBytes c (leBytes 64 r.toNat)

/-! ## The sponge of FIPS 202, and SHA3-512 -/

/-- Lane (x, y) of the state of 25 lanes, at 5y + x. -/
def lane (a : List Word) (x y : Nat) : Word := a.getD (5 * (y % 5) + x % 5) 0

/-- A state by its lanes. -/
def lanesBy (f : Nat → Nat → Word) : List Word := (List.range 25).map fun i => f (i % 5) (i / 5)

def rotl (w : Word) (n : Nat) : Word := w.rotateLeft n

/-- Rotation of lane (x, y), at 5y + x. -/
def keccakRot : List Nat :=
  [0, 1, 62, 28, 27, 36, 44, 6, 55, 20, 3, 10, 43, 25, 39, 41, 45, 15, 21, 8, 18, 2, 61, 56, 14]

def keccakTheta (a : List Word) : List Word :=
  let c (x : Nat) : Word := lane a x 0 ^^^ lane a x 1 ^^^ lane a x 2 ^^^ lane a x 3 ^^^ lane a x 4
  lanesBy fun x y => lane a x y ^^^ c (x + 4) ^^^ rotl (c (x + 1)) 1

/-- The rotations, then the move of lane (x, y) to (y, 2x + 3y). -/
def keccakRhoPi (a : List Word) : List Word :=
  lanesBy fun x y =>
    let sx := (x + 3 * y) % 5
    rotl (lane a sx x) (keccakRot.getD (5 * x + sx) 0)

def keccakChi (a : List Word) : List Word :=
  lanesBy fun x y => lane a x y ^^^ (~~~(lane a (x + 1) y) &&& lane a (x + 2) y)

/-- The round constants. -/
def keccakConst : List Word :=
  [0x0000000000000001, 0x0000000000008082, 0x800000000000808A, 0x8000000080008000, 0x000000000000808B,
    0x0000000080000001, 0x8000000080008081, 0x8000000000008009]
  ++ [0x000000000000008A, 0x0000000000000088, 0x0000000080008009, 0x000000008000000A, 0x000000008000808B,
    0x800000000000008B, 0x8000000000008089, 0x8000000000008003]
  ++ [0x8000000000008002, 0x8000000000000080, 0x000000000000800A, 0x800000008000000A, 0x8000000080008081,
    0x8000000000008080, 0x0000000080000001, 0x8000000080008008]

def keccakRound (a : List Word) (k : Word) : List Word :=
  match keccakChi (keccakRhoPi (keccakTheta a)) with
  | v :: r => (v ^^^ k) :: r
  | [] => []

def keccakF (a : List Word) : List Word := keccakConst.foldl keccakRound a

/-- Absorb one block of `rate` bytes. -/
def absorb (rate : Nat) (a : List Word) (block : List Byte) : List Word :=
  keccakF (a.zipIdx.map fun e =>
    if e.2 < rate / 8 then e.1 ^^^ BitVec.ofNat 64 (ofLeBytes ((block.drop (8 * e.2)).take 8)) else e.1)

/-- The padding of a message of `n` bytes to blocks of `rate`: the bits that separate the functions of the standard,
zeros, and 0x80. -/
def spongePad (rate : Nat) (dom : Byte) (n : Nat) : List Byte :=
  let k := rate - n % rate
  if k = 1 then [dom ||| 0x80] else [dom] ++ List.replicate (k - 2) 0 ++ [0x80]

/-- The sponge's state once it has absorbed a message. -/
def sponge (rate : Nat) (dom : Byte) (bs : List Byte) : List Word :=
  let m := bs ++ spongePad rate dom bs.length
  (chunks rate (m.length / rate) m).foldl (absorb rate) (List.replicate 25 0)

/-- The bytes of the next block that a sponge gives. -/
def blockOf (rate : Nat) (a : List Word) : List Byte := (a.take (rate / 8)).flatMap fun w => leBytes 8 w.toNat

/-- The first `n` blocks that a sponge gives. -/
def squeeze (rate : Nat) : Nat → List Word → List Byte
  | 0, _ => []
  | n + 1, a => blockOf rate a ++ squeeze rate n (keccakF a)

/-- The SHA3-512 digest of bytes: 64 bytes. -/
def sha3 (bs : List Byte) : List Byte := (blockOf 72 (sponge 72 0x06 bs)).take 64

/-- A SHA3-512 digest as a number. -/
def digestOf (b : List Byte) : BitVec 512 := BitVec.ofNat 512 (ofLeBytes (sha3 b))

end Sys2Proof.Machine
end

