-- ==== Sys2Proof/Config.lean ====
section
/-! DEFINITION. The free values of the model: constants with no body, one for each value that the
manual leaves open. Nothing in Lean can evaluate them, so what is proved holds for every value. -/

namespace Sys2Proof.Config

/-- DESIGN CHOICE (log entry 3). Which of the results that R174's bound admits a special function
gives for an input: operation number, input bits, and a number that picks among the admitted ones.
R175 makes the result a fixed function of the input bits, so nothing else is an argument. -/
opaque sfChoice : Nat → BitVec 32 → Int

/-- DESIGN CHOICE (log entry 4). The amplitude of the reference beam as a four-step shot scales by it, in units of
2^−16, numbered by the free-value counter of State: no field of a calibration image holds it (R301, R306). -/
opaque referenceAmplitude : Nat → Int

/-- DESIGN CHOICE (log entry 5). A raw detector code (R307, R310): a function of the drives of the window's pixels,
none in a dark or reference frame, and of the free-value counter, since two shots of one window may differ (R303). -/
opaque opticalFrame : List Int → Nat → BitVec 12

/-- DESIGN CHOICE (log entry 5). A byte of the firmware's calibration image of an aperture (R306, R309): aperture,
which of the firmware's measurements of it, and offset. -/
opaque firmwareCal : Nat → Nat → Nat → BitVec 8

/-- DESIGN CHOICE (log entry 6). An accumulator element that a window replay leaves unpredictable
(R144). -/
opaque accAfterReplay : Nat → BitVec 32

/-- DESIGN CHOICE (log entry 7). Whether a sector that may be old or new is new: interrupted copies (R207,
R365) and scoring reads that race with a write (R322). -/
opaque sectorIsNew : Nat → Bool

/-- DESIGN CHOICE (log entry 9). The bytes in which the values that a measurement covers are hashed, and those of an
image's header: measurement, values (R389, R390). -/
opaque hashLayout : Nat → List Nat → List (BitVec 8)

/-- DESIGN CHOICE (log entry 9). The attestation key of a fused secret and measurement 2, and a signature with it
(R390). -/
opaque deriveKey : Nat → BitVec 512 → BitVec 512
opaque sign : BitVec 512 → BitVec 512 → List (BitVec 8)

/-- DESIGN CHOICE (log entry 11). The public key whose digest the hub holds fused, and the signature of the image that
flash holds first (R389). -/
opaque bootKey : List (BitVec 8)
opaque bootSignature : List (BitVec 8)

/-- DESIGN CHOICE (log entry 17). Which rounding a stream with a reserved RND code 5 to 7 gives (R106):
the code, and a number taken modulo 4 as codes 0 to 3. -/
opaque reservedRounding : Nat → Nat

/-- DESIGN CHOICE (log entry 20). Whether a block score that is the greatest of +0 and −0 is written as −0: the
manual calls the two equal (R320). -/
opaque zeroScoreNeg : Bool

end Sys2Proof.Config
end

