-- ==== Sys2Proof/Machine/KMap.lean ====
section
/-! DEFINITION. The operations of the sparse map: lookup with a default, and an update that keeps
the one canonical form (keys strictly rising, no entry equal to the default). -/

namespace Sys2Proof

/-- The value at `k`; the default `d` where nothing is listed. -/
def KMap.get {α : Type} (d : α) : KMap α → Nat → α
  | [], _ => d
  | (k', v) :: r, k => if k' = k then v else KMap.get d r k

/-- The map with no entry at `k`. -/
def KMap.erase {α : Type} (m : KMap α) (k : Nat) : KMap α := m.filter fun e => e.1 ≠ k

/-- The map with the entry `(k, v)` in its place by key. -/
def KMap.insert {α : Type} : KMap α → Nat → α → KMap α
  | [], k, v => [(k, v)]
  | (k', v') :: r, k, v =>
    if k < k' then (k, v) :: (k', v') :: r
    else if k = k' then (k, v) :: r
    else (k', v') :: KMap.insert r k v

/-- Write `v` at `k`; writing the default removes the entry. -/
def KMap.set {α : Type} [DecidableEq α] (d : α) (m : KMap α) (k : Nat) (v : α) : KMap α :=
  if v = d then KMap.erase m k else KMap.insert m k v

/-- Keys strictly rise. -/
def KMap.sorted {α : Type} : KMap α → Bool
  | [] => true
  | [_] => true
  | (k, _) :: (k', v') :: r => decide (k < k') && KMap.sorted ((k', v') :: r)

/-- The canonical form: keys strictly rising and no entry equal to the default. -/
def KMap.wf {α : Type} [DecidableEq α] (d : α) (m : KMap α) : Bool :=
  KMap.sorted m && m.all fun e => decide (e.2 ≠ d)

/-- Write the values of a list at successive keys from `k`. -/
def KMap.setList {α : Type} [DecidableEq α] (d : α) (m : KMap α) (k : Nat) : List α → KMap α
  | [] => m
  | v :: r => KMap.setList d (KMap.set d m k v) (k + 1) r

/-- The `n` values from `k` upward. -/
def KMap.getList {α : Type} (d : α) (m : KMap α) (k n : Nat) : List α :=
  (List.range n).map fun i => KMap.get d m (k + i)

/-- Apply `f` to the value at `k`. -/
def KMap.update {α : Type} [DecidableEq α] (d : α) (m : KMap α) (k : Nat) (f : α → α) : KMap α :=
  KMap.set d m k (f (KMap.get d m k))

/-- The map without the keys in `lo` to `hi - 1`. -/
def KMap.clearRange {α : Type} (m : KMap α) (lo hi : Nat) : KMap α :=
  m.filter fun e => decide (e.1 < lo) || decide (hi ≤ e.1)

end Sys2Proof
end

