-- ==== Sys2Proof/Syntax.lean ====
section
/-! DEFINITION. The steps of the KX-8, one constructor for each row of the opcode table: the
control-core instructions with their operand fields, the record operations (one step is one issue
of the operation, R36), and the device's own events with what each carries. -/

namespace Sys2Proof

/-- One issue of a record operation: the record as substituted (R60), its operands' substituted
offsets, the snapshots of the streams it names (R116), and its nest position (R36). -/
structure Issue where
  /-- Column number (R62). -/
  col : Nat
  /-- The record after substitution (R57, R60). -/
  raw : Line
  /-- Substituted offsets of D, A and B (R60). -/
  offD : Int
  offA : Int
  offB : Int
  /-- Snapshots of the stream registers named by D, A and B (R116); zero where none is named. -/
  sD : Line
  sA : Line
  sB : Line
  /-- Nest position (i0, i1, i2, i3). -/
  i0 : Nat
  i1 : Nat
  i2 : Nat
  i3 : Nat
  /-- Order of the record's forward in its context. -/
  seq : Nat
  /-- First issue of its record. -/
  first : Bool
  /-- Last issue of its record. -/
  last : Bool
  /-- Nullified (R38): keeps its cycle and performs nothing. -/
  nul : Bool
  deriving DecidableEq, Repr

/-- The empty issue. -/
def Issue.zero : Issue := ⟨0, 0, 0, 0, 0, 0, 0, 0, 0, 0, 0, 0, 0, false, false, false⟩

/-- What a counting stream gains when a write performs (R116): stream number, out-of-range elements
(R107) and empty blocks (R110). -/
structure Count where
  stream : Nat
  sat : Nat
  empty : Nat
  deriving DecidableEq, Repr

/-- The paths of a copy command (R195). -/
inductive Path where
  | ss | ls | dram | remote | remoteSp | package | host
  deriving DecidableEq, Repr

/-- Where one destination byte run of a copy goes. -/
inductive Dest where
  /-- Core scratchpad of the given package core, byte offset. -/
  | sp (core : Nat) (off : Nat)
  /-- LS space of the issuing context's group, byte offset. -/
  | ls (off : Nat)
  /-- Virtual address in the context's address space. -/
  | va (a : Nat)
  deriving DecidableEq, Repr

/-- A started copy command in flight (R191, R199): its path, the bytes it read at its start and
where they go, its tag, and its class. -/
structure Copy where
  path : Path
  /-- Destination runs: start, and the bytes. -/
  runs : List (Dest × List Byte)
  /-- By run: whether its bytes came from a poisoned sector (R360); for a pull of the memory form, whether
  they have not arrived yet (R405). -/
  poison : List Bool
  tag : BitVec 7
  cls : BitVec 4
  /-- True when the destination is this core's scratchpad, so that arrival tags are written. -/
  tagged : Bool
  /-- Peer package, peer VA side and direction of a loose memory-form CPY.X (R204). -/
  peer : Nat
  pull : Bool
  cmdid : Nat
  /-- Data go to DRAM as well as to the home slice (NB.PUT, R324). -/
  through : Bool
  deriving DecidableEq, Repr

/-- What lands or performs at a cycle fixed at issue. -/
inductive FKind where
  /-- A vector or SF result: register and its 1,024 elements (R150, R173). -/
  | vec (reg : Nat) (vals : List Elem) (cnt : Count)
  /-- One row of a vector register (MREP, NB.STAT). -/
  | vecRow (reg row : Nat) (vals : List Elem)
  /-- An MX operation in its landing stage, with the values read at issue (R128). -/
  | mx (x : Issue) (vals : List Elem)
  /-- A drain-queue push: 1,024 words of row images (R137). -/
  | push (vals : List Elem) (cnt : Count)
  /-- Scratchpad bytes of an engine write: MSTORE, VST, VSCAT, OREF (R139, R170, R184, R310). -/
  | sp (bytes : List (Nat × Byte)) (cnt : Count)
  /-- The bytes of an STS of a segment, which performs in the cycle after its issue (R83). -/
  | sts (off : Nat) (bytes : List Byte)
  /-- A copy landing (R199). -/
  | copy (c : Copy)
  /-- CPY.D dropping its sectors (R206). -/
  | drop (spans : List (Nat × Nat)) (cls : BitVec 4)
  /-- The read of a CPY.X pull of the scratchpad form, by the source's package core (R204). -/
  | pull (x : Issue) (core : Nat)
  /-- CPY.W writing back its sectors (R206). -/
  | clean (spans : List (Nat × Nat)) (cls : BitVec 4)
  /-- OWIN's entry taking its value (R298): package aperture, entry, the 18 bits A, B, Y0, X0. -/
  | win (apt entry : Nat) (v : BitVec 18)
  /-- Optical output (R300): scratchpad bytes and the clamps counted. -/
  | optical (bytes : List (Nat × Byte)) (cnt : Count)
  /-- An NB.SCORE in progress (R320 to R322): the query's codes, and the key rows as DRAM held them at the
  start, by address. -/
  | nbList (x : Issue) (query : List Nat) (rows : List (Nat × List Byte))
  /-- A scalar load landing in its register (R82): register, load id, value. -/
  | load (reg id : Nat) (v : Word)
  /-- A VAMO in space 0: performs as one step (R187). -/
  | vamoSp (x : Issue) (vals idx : List Elem)
  /-- The lanes of a VAMO in space 1 or 2 still to perform (R187, R188). -/
  | vamo (x : Issue) (vals idx : List Elem)
  deriving DecidableEq, Repr

/-- A result in flight: when it lands in core time, the column that issued it, its issue cycle, and
its order among the flights of the core. -/
structure Flight where
  due : Nat
  col : Nat
  issued : Nat
  seq : Nat
  kind : FKind
  deriving DecidableEq, Repr

/-- The kinds of a control-core access to memory. -/
inductive AccKind where
  | load
  | store
  /-- AMO with its operation code (R52). -/
  | amo (op : Nat)
  | cas
  /-- The three range words that act on lines: FLUSH, INVAL, DISCARD (R228). -/
  | flush
  | inval
  | discard
  /-- The 64-byte descriptor load of SDEF (R118). -/
  | sdef (stream : Nat)
  /-- A wake store (R377). -/
  | wake
  deriving DecidableEq, Repr

/-- A control-core access that has issued and not yet performed (R258 to R261). -/
structure Access where
  id : Nat
  kind : AccKind
  va : Nat
  /-- Bytes. -/
  size : Nat
  /-- Store data, AMO operand, CAS new value, or range length. -/
  data : Word
  /-- CAS expected value. -/
  exp : Word
  /-- Destination register. -/
  reg : Nat
  cls : BitVec 4
  scope : BitVec 2
  /-- Accesses that must perform first (R260, R263). -/
  waits : List Nat
  /-- Earliest perform cycle, in core time. -/
  due : Nat
  /-- Issued inside a segment: the result lands 200 cycles after issue (R82). -/
  seg : Bool
  /-- Issued by the shadow context, a separate agent (R276). -/
  shadow : Bool
  /-- The line is backed by host memory. -/
  host : Bool
  deriving DecidableEq, Repr

/-- A barrier arrival on its way (R282, R284): target task and spatial index, barrier, the sender's PHASE. It
leaves the sending core once the accesses it waits for have performed, and reaches the copy `lat` cycles on. -/
structure Arrival where
  /-- When it reaches the copy, once it has left. -/
  due : Nat
  task : Nat
  spidx : Nat
  bar : Nat
  phase : BitVec 16
  /-- The sending core, and its writes that have not performed yet. -/
  src : Nat
  waits : List Nat
  /-- Cycles on the way (R288). -/
  lat : Nat
  deriving DecidableEq, Repr

/-- A transport frame (R404) with the operation it carries (R405). -/
structure Frame where
  ver : Nat
  type : Nat
  domain : Nat
  srcPkg : Nat
  dstPkg : Nat
  port : Nat
  psn : Nat
  ackPsn : Nat
  nakPsn : Nat
  len : Nat
  /-- CHK, and the reserved bytes 9 to 11 and 26 to 27 of the transport header (R404), 30 to 31 of the operation
  header (R405). -/
  chk : BitVec 32
  rsvA : Nat
  rsvB : Nat
  rsvOp : Nat
  /-- Destination and source addresses of the Ethernet header, and the port of this package that the frame passes
  (R407). -/
  dst : BitVec 48
  src : BitVec 48
  via : Nat
  op : Nat
  cls : Nat
  srcCore : Nat
  cmdId : Nat
  va : Nat
  rowPitch : Nat
  rowBytes : Nat
  nRows : Nat
  firstRow : Nat
  totalRows : Nat
  asid : Nat
  data : List Byte
  deriving DecidableEq, Repr

/-- What the memory manager decides for an ALLOC (R399): the address where the request leaves it
open, the stack offset of each page, and the stack offsets of the tables it may need. -/
structure AllocChoice where
  va : Nat
  pages : List Nat
  tables : List Nat
  tableDie : Nat
  deriving DecidableEq, Repr

/-- A firmware image (R389): the header's fields, and the body. -/
structure Image where
  magic : Nat
  version : Nat
  svn : Nat
  bodyLength : Nat
  bodyDigest : BitVec 512
  signature : List Byte
  /-- Oldest handover version it accepts (R391). -/
  oldest : Nat
  body : List Byte
  deriving DecidableEq, Repr

/-- The steps of the machine: one constructor for each row of the opcode table. -/
inductive Instr where
  -- Major 0x01: integer and bit group (R51, R74, R75)
  | add (d a b : BitVec 5)
  | sub (d a b : BitVec 5)
  | mul (d a b : BitVec 5)
  | mulh (d a b : BitVec 5)
  | mulhu (d a b : BitVec 5)
  | div (d a b : BitVec 5)
  | divu (d a b : BitVec 5)
  | rem (d a b : BitVec 5)
  | remu (d a b : BitVec 5)
  | and (d a b : BitVec 5)
  | or (d a b : BitVec 5)
  | xor (d a b : BitVec 5)
  | shl (d a b : BitVec 5)
  | shr (d a b : BitVec 5)
  | sar (d a b : BitVec 5)
  | min (d a b : BitVec 5)
  | max (d a b : BitVec 5)
  | minu (d a b : BitVec 5)
  | maxu (d a b : BitVec 5)
  | slt (d a b : BitVec 5)
  | sltu (d a b : BitVec 5)
  | seq (d a b : BitVec 5)
  | clz (d a : BitVec 5)
  | popc (d a : BitVec 5)
  | mov (d a : BitVec 5)
  -- Major 0x02 to 0x0E (R76 to R79)
  | lea (d a b : BitVec 5) (s : BitVec 2)
  | madd (d a b : BitVec 5)
  | sel (d a b : BitVec 5)
  | fsh (d a b : BitVec 5) (n : BitVec 6)
  | bfx (d a : BitVec 5) (len1 pos : BitVec 6)
  | bfi (d a : BitVec 5) (len1 pos : BitVec 6)
  | addi (d a : BitVec 5) (imm : BitVec 15)
  | andi (d a : BitVec 5) (imm : BitVec 15)
  | ori (d a : BitVec 5) (imm : BitVec 15)
  | xori (d a : BitVec 5) (imm : BitVec 15)
  | shli (d a : BitVec 5) (n : BitVec 6)
  | shri (d a : BitVec 5) (n : BitVec 6)
  | sari (d a : BitVec 5) (n : BitVec 6)
  -- Form L (R80)
  | liw (d : BitVec 5) (lit : BitVec 32)
  | lih (d : BitVec 5) (lit : BitVec 32)
  -- Scalar memory (R81, R83)
  | ldB (d a : BitVec 5) (off : BitVec 11) (cls : BitVec 4)
  | ldH (d a : BitVec 5) (off : BitVec 11) (cls : BitVec 4)
  | ldW (d a : BitVec 5) (off : BitVec 11) (cls : BitVec 4)
  | ldD (d a : BitVec 5) (off : BitVec 11) (cls : BitVec 4)
  | stB (s a : BitVec 5) (off : BitVec 11) (cls : BitVec 4)
  | stH (s a : BitVec 5) (off : BitVec 11) (cls : BitVec 4)
  | stW (s a : BitVec 5) (off : BitVec 11) (cls : BitVec 4)
  | stD (s a : BitVec 5) (off : BitVec 11) (cls : BitVec 4)
  | ldsB (d a : BitVec 5) (off : BitVec 11) (cls : BitVec 4)
  | ldsH (d a : BitVec 5) (off : BitVec 11) (cls : BitVec 4)
  | ldsW (d a : BitVec 5) (off : BitVec 11) (cls : BitVec 4)
  | ldsD (d a : BitVec 5) (off : BitVec 11) (cls : BitVec 4)
  | stsB (s a : BitVec 5) (off : BitVec 11) (cls : BitVec 4)
  | stsH (s a : BitVec 5) (off : BitVec 11) (cls : BitVec 4)
  | stsW (s a : BitVec 5) (off : BitVec 11) (cls : BitVec 4)
  | stsD (s a : BitVec 5) (off : BitVec 11) (cls : BitVec 4)
  -- Atomics (R52, R84)
  | amoAdd (d a b : BitVec 5) (scope : BitVec 2) (dbl : BitVec 1) (cls : BitVec 4)
  | amoAnd (d a b : BitVec 5) (scope : BitVec 2) (dbl : BitVec 1) (cls : BitVec 4)
  | amoOr (d a b : BitVec 5) (scope : BitVec 2) (dbl : BitVec 1) (cls : BitVec 4)
  | amoXor (d a b : BitVec 5) (scope : BitVec 2) (dbl : BitVec 1) (cls : BitVec 4)
  | amoMin (d a b : BitVec 5) (scope : BitVec 2) (dbl : BitVec 1) (cls : BitVec 4)
  | amoMax (d a b : BitVec 5) (scope : BitVec 2) (dbl : BitVec 1) (cls : BitVec 4)
  | amoSwap (d a b : BitVec 5) (scope : BitVec 2) (dbl : BitVec 1) (cls : BitVec 4)
  | cas (d a b : BitVec 5) (scope : BitVec 2) (dbl : BitVec 1) (cls : BitVec 4)
  -- Branches, loops, segments (R86 to R96)
  | ptb (t : BitVec 3) (off : BitVec 22)
  | bEq (t : BitVec 3) (a b : BitVec 5) (h : BitVec 1)
  | bNe (t : BitVec 3) (a b : BitVec 5) (h : BitVec 1)
  | bLt (t : BitVec 3) (a b : BitVec 5) (h : BitVec 1)
  | bGe (t : BitVec 3) (a b : BitVec 5) (h : BitVec 1)
  | bLtu (t : BitVec 3) (a b : BitVec 5) (h : BitVec 1)
  | bGeu (t : BitVec 3) (a b : BitVec 5) (h : BitVec 1)
  | jmp (t : BitVec 3) (h : BitVec 1)
  | bPnz (t : BitVec 3) (h : BitVec 1)
  | bPz (t : BitVec 3) (h : BitVec 1)
  | call (t : BitVec 3) (a : BitVec 5)
  | ret (a : BitVec 5)
  | loopw (t : BitVec 3) (a : BitVec 5)
  | segb (off : BitVec 22)
  | align (a : BitVec 5)
  | waitc (d a b : BitVec 5) (cls : BitVec 4)
  | gets (d : BitVec 5) (n : BitVec 15)
  | sets (a : BitVec 5) (n : BitVec 15)
  | trap (n : BitVec 15)
  | fenceFull (scope : BitVec 2) (mask : BitVec 16)
  | fenceAcq (scope : BitVec 2) (mask : BitVec 16)
  | fenceRel (scope : BitVec 2) (mask : BitVec 16)
  -- The tape (R337)
  | tapePlay (d : BitVec 5)
  | tapePatch (k a : BitVec 5)
  | tapeGuard (i a : BitVec 5)
  -- Barriers (R283 to R286)
  | barInit (a : BitVec 5) (n : BitVec 10)
  | barArrive (n : BitVec 10)
  | barWait (d : BitVec 5) (n : BitVec 10)
  | barTest (d : BitVec 5) (n : BitVec 10)
  -- SRAM (R221, R228)
  | ways (a : BitVec 5)
  | flush (a b : BitVec 5) (cls : BitVec 4)
  | inval (a b : BitVec 5) (cls : BitVec 4)
  | discard (a b : BitVec 5) (cls : BitVec 4)
  | pref (a b : BitVec 5) (cls : BitVec 4)
  -- Stream registers (R118 to R120)
  | sdef (a : BitVec 5) (s : BitVec 6)
  | sset (a : BitVec 5) (w : BitVec 3) (s : BitVec 6)
  | sget (d : BitVec 5) (w : BitVec 3) (s : BitVec 6)
  | sadv (a : BitVec 5) (s : BitVec 6)
  -- Hints (R56)
  | hintRegion (w : IWord)
  -- Records (R47, R65): the forward, then one issue of each operation
  | recordForward (raw : Line)
  | mark (x : Issue)
  | mma (x : Issue)
  | mpass (x : Issue)
  | mzero (x : Issue)
  | mload (x : Issue)
  | mdrain (x : Issue)
  | mstore (x : Issue)
  | mrep (x : Issue)
  | mchain (x : Issue)
  | vadd (x : Issue)
  | vsub (x : Issue)
  | vmul (x : Issue)
  | vfma (x : Issue)
  | vmin (x : Issue)
  | vmax (x : Issue)
  | vabs (x : Issue)
  | vneg (x : Issue)
  | vmulh (x : Issue)
  | vand (x : Issue)
  | vor (x : Issue)
  | vxor (x : Issue)
  | vnot (x : Issue)
  | vshl (x : Issue)
  | vshr (x : Issue)
  | vsar (x : Issue)
  | vbfx (x : Issue)
  | vfsh (x : Issue)
  | vpopc (x : Issue)
  | vclz (x : Issue)
  | vcmp (x : Issue)
  | vsel (x : Issue)
  | vmov (x : Issue)
  | vspl (x : Issue)
  | viota (x : Issue)
  | vcvt (x : Issue)
  | vqnt (x : Issue)
  | vdq (x : Issue)
  | vrotr (x : Issue)
  | vrotc (x : Issue)
  | vbcr (x : Issue)
  | vbcc (x : Issue)
  | vredr (x : Issue)
  | vredc (x : Issue)
  | vscanr (x : Issue)
  | vscanc (x : Issue)
  | vtrb (x : Issue)
  | vld (x : Issue)
  | vst (x : Issue)
  | vpop (x : Issue)
  | vgath (x : Issue)
  | vscat (x : Issue)
  | vlut (x : Issue)
  | vpart (x : Issue)
  | vcnt (x : Issue)
  | vamo (x : Issue)
  | frcp (x : Issue)
  | frsq (x : Issue)
  | fsqrt (x : Issue)
  | fexp2 (x : Issue)
  | flog2 (x : Issue)
  | fsin (x : Issue)
  | fcos (x : Issue)
  | ftanh (x : Issue)
  | fsig (x : Issue)
  | cpy (x : Issue)
  | cpyL (x : Issue)
  | cpyG (x : Issue)
  | cpyS (x : Issue)
  | cpyXMemory (x : Issue)
  | cpyXScratchpad (x : Issue)
  | cpyZ (x : Issue)
  | cpyD (x : Issue)
  | cpyW (x : Issue)
  | oxf (x : Issue)
  | oxc (x : Issue)
  | omask (x : Issue)
  | ocal (x : Issue)
  | owin (x : Issue)
  | oref (x : Issue)
  | nbScore (x : Issue)
  | nbSel (x : Issue)
  | nbPut (x : Issue)
  | nbStat (x : Issue)
  -- Events of a core
  | copyLanding (f : Flight)
  | scalarLoadLanding (f : Flight)
  | landingStage (f : Flight)
  | drainPush (f : Flight)
  | vectorLanding (f : Flight)
  | opticalOutputLanding (f : Flight)
  | nbScoreLanding (f : Flight)
  | vamoAcknowledgement (f : Flight)
  | barrierArrival (m : Arrival)
  -- Scheduling
  | resumption (task spidx core : Nat)
  | launch (ring : Nat) (packet : Line)
  | abortRequest (ring : Nat) (packet : Line)
  | ringScan (ring : Nat)
  | launchReady (task : Nat)
  | launchPlacement (task spidx core : Nat)
  | launchCompletion (task : Nat)
  | hostWake (w : Word)
  | resolve (core : Nat) (choice : AllocChoice)
  -- Host requests (R398): the slot whose number the driver stores to the doorbell, and its 64 bytes
  | negotiate (slot : Nat) (req : Line)
  | config (slot : Nat) (req : Line)
  | ringreg (slot : Nat) (req : Line)
  | ringdel (slot : Nat) (req : Line)
  | alloc (slot : Nat) (req : Line) (choice : AllocChoice)
  | free (slot : Nat) (req : Line)
  | peerbind (slot : Nat) (req : Line)
  | reprd (v : Word)
  | hostMemoryRead (offset size : Nat)
  | hostMemoryWrite (offset : Nat) (bytes : List Byte)
  | spdmRequest (index : Nat)
  -- Firmware and board
  | lockstepMismatch (fn : Nat)
  | liveUpdate (image : Image)
  | firmwareRecalibration (aperture : Nat)
  | refreshBurst (die bank : Nat)
  | temperatureCrossing (die : Nat) (celsius : Int)
  | powerCapExceeded (milliwatts : Nat)
  | foldMapChange (core : Nat) (cls : BitVec 8)
  -- Scale-out transport (R404 to R407)
  | write (f : Frame)
  | readreq (f : Frame)
  | readresp (f : Frame)
  | wake (f : Frame)
  | done (f : Frame)
  | ack (f : Frame)
  | nak (f : Frame)
  | probe (f : Frame)
  | probeack (f : Frame)
  | stripeTimeout (pkg port : Nat)
  | portLinkLoss (port : Nat)
  -- The rest of the table
  | accessPerforms (a : Access)
  | hostLinkCompletion (a : Access)
  | engineAccessPerform (f : Flight)
  | effectivePriorityPromotion (task : Nat)
  | tapeAffinityWaitExpiry (task : Nat)
  | pageEviction (asid va : Nat) (hostPage : Nat)
  | logicPlyJunctionLimit (die ply : Nat)
  | recordHintRegionIssue (x : Issue)
  -- Rows without operands: words, then events of the core in focus, its die or the package
  | leave
  | sege
  | eret
  | endCtx
  | yield
  | tapeRec
  | tapeEnd
  | tapeDrop
  | nop
  | segmentRelease
  | gangStartMissed
  | segeCompletion
  | walkCompletion
  | gangReRelease
  | replayResume
  | refreshDeadline
  | looseCodeWatchdog
  | looseCopyOverrun
  | barWaitCompletion
  | waitcSatisfied
  | waysChange
  | waysRetire
  | preemption
  | periodicReadinessTest
  | abandon
  | heartbeat
  | heartbeatMissed
  | postponedBurstsIssued
  | thermalTrip
  | packageReset
  | probePeriod
  | playedForward
  | ackInterval
  | gapNak
  | retransmitTimeout
  | coreClockCycle
  | machineCheck
  deriving DecidableEq, Repr

end Sys2Proof
end

