-- ==== Sys2Proof/Machine/Signature.lean ====
section
/-! DEFINITION. The verification of an ML-DSA-87 signature (R389; the manual names the standard algorithm, FIPS 204:
PRESUMED, log entry 9). Polynomials are lists of 256 coefficients modulo q, lowest first. -/

namespace Sys2Proof.Machine

/-! ## Numbers modulo q -/

/-- The modulus, and the parameters of ML-DSA-87: rows and columns of the matrix, ones in the challenge, bounds of the
masks and of the low bits, the bound of the products, and the most hints. -/
def dsaQ : Nat := 8380417
def dsaK : Nat := 8
def dsaL : Nat := 7
def dsaTau : Nat := 60
def dsaGamma1 : Nat := 524288
def dsaGamma2 : Nat := 261888
def dsaBeta : Nat := 120
def dsaOmega : Nat := 75

/-- The powers of the root of unity 1753, of order 512. -/
def rootPowers : Array Nat := ((List.range 512).map fun n => 1753 ^ n % dsaQ).toArray

/-- A power of the root, by its exponent modulo 512. -/
def rootPower (n : Nat) : Nat := rootPowers.getD (n % 512) 0

/-- The bits of a number below 256, reversed. -/
def rev8 (i : Nat) : Nat := (List.range 8).foldl (fun r k => 2 * r + i / 2 ^ k % 2) 0

/-- The exponent of the root at which place `i` of a transform evaluates. -/
def rootAt (i : Nat) : Nat := 2 * rev8 i + 1

/-- The value of a polynomial at a number. -/
def evalPoly (p : List Nat) (x : Nat) : Nat := p.foldr (fun a r => (a + r * x) % dsaQ) 0

/-- The number-theoretic transform: the polynomial's values at the odd powers of the root. -/
def ntt (p : List Nat) : List Nat := (List.range 256).map fun i => evalPoly p (rootPower (rootAt i))

/-- The polynomial with the given values. -/
def nttInverse (v : List Nat) : List Nat :=
  (List.range 256).map fun j =>
    8347681 * (v.zipIdx.foldl (fun r e => (r + e.1 * rootPower ((512 - rootAt e.2) * j)) % dsaQ) 0) % dsaQ

def addPoly (a b : List Nat) : List Nat := (a.zip b).map fun e => (e.1 + e.2) % dsaQ
def subPoly (a b : List Nat) : List Nat := (a.zip b).map fun e => (e.1 + dsaQ - e.2 % dsaQ) % dsaQ
def mulValues (a b : List Nat) : List Nat := (a.zip b).map fun e => e.1 * e.2 % dsaQ

/-! ## Bytes -/

/-- SHAKE256: the first `n` bytes. -/
def shake256 (n : Nat) (bs : List Byte) : List Byte := (squeeze 136 (ceilDiv n 136) (sponge 136 0x1F bs)).take n

/-- Fields of `w` bits each, `n` of them, from the lowest of the first byte up. -/
def unpackBits (w n : Nat) (bs : List Byte) : List Nat :=
  let v := ofLeBytes bs
  (List.range n).map fun i => v / 2 ^ (w * i) % 2 ^ w

/-- The bytes of 4-bit fields. -/
def packNibbles (l : List Nat) : List Byte := (chunks 2 (l.length / 2) l).map fun p => BitVec.ofNat 8 (p.getD 0 0 + 16 * p.getD 1 0)

/-- Piece `i` of bytes in pieces of `n`. -/
def pieceOf (n i : Nat) (bs : List Byte) : List Byte := (bs.drop (n * i)).take n

/-! ## Sampling -/

/-- The numbers below q that three bytes each give, of which the first 256 count. -/
def belowQ : List Byte → List Nat
  | a :: b :: c :: r =>
    let z := a.toNat + 256 * b.toNat + 65536 * (c.toNat % 128)
    if z < dsaQ then z :: belowQ r else belowQ r
  | _ => []

/-- Blocks of SHAKE128 until they give 256 numbers (at most `fuel` of them). -/
def sampleValues : Nat → List Word → List Nat → List Nat
  | 0, _, l => l.take 256
  | fuel + 1, a, l => if 256 ≤ l.length then l.take 256 else sampleValues fuel (keccakF a) (l ++ belowQ (blockOf 168 a))

/-- The matrix's element in a row and a column, as values. -/
def matrixAt (rho : List Byte) (row col : Nat) : List Nat :=
  sampleValues 64 (sponge 168 0x1F (rho ++ [BitVec.ofNat 8 col, BitVec.ofNat 8 row])) []

/-- The places of the challenge's ones: of the bytes given, each place takes the next that is not above it. -/
def ballPlaces : List Nat → List Byte → List (Nat × Nat)
  | _, [] => []
  | [], _ => []
  | i :: is, b :: bs => if b.toNat ≤ i then (i, b.toNat) :: ballPlaces is bs else ballPlaces (i :: is) bs

/-- The challenge polynomial of a seed: 60 coefficients are 1 or −1. -/
def sampleBall (seed : List Byte) : List Nat :=
  let bs := squeeze 136 8 (sponge 136 0x1F seed)
  let signs := ofLeBytes (bs.take 8)
  let places := ballPlaces ((List.range dsaTau).map fun i => 256 - dsaTau + i) (bs.drop 8)
  places.zipIdx.foldl (fun c e =>
    let (i, j) := e.1
    (c.set i (c.getD j 0)).set j (if signs / 2 ^ e.2 % 2 = 1 then dsaQ - 1 else 1)) (List.replicate 256 0)

/-! ## Hints -/

/-- The places that one polynomial's hints name are strictly rising. -/
def rising : List Nat → Bool
  | a :: b :: r => decide (a < b) && rising (b :: r)
  | _ => true

/-- The hints of a signature: for each polynomial the places it names; none where they are not well formed. -/
def unpackHints (bs : List Byte) : Option (List (List Nat)) :=
  let y := bs.map BitVec.toNat
  let bound (i : Nat) : Nat := if i = 0 then 0 else y.getD (dsaOmega + i - 1) 0
  let places := (List.range dsaK).map fun i => (y.drop (bound i)).take (bound (i + 1) - bound i)
  if (List.range dsaK).all (fun i => decide (bound i ≤ bound (i + 1)) && decide (bound (i + 1) ≤ dsaOmega))
      && places.all rising && ((y.take dsaOmega).drop (bound dsaK)).all (· == 0) then some places
  else none

/-- The high bits of a coefficient, moved by one where a hint says so. -/
def useHint (hint : Bool) (r : Nat) : Nat :=
  let a := 2 * dsaGamma2
  let m := r % a
  let low : Int := if dsaGamma2 < m then (m : Int) - a else m
  let top := (r : Int) - low == (dsaQ : Int) - 1
  let high := if top then 0 else ((r : Int) - low).toNat / a
  let low := if top then low - 1 else low
  if !hint then high else if 0 < low then (high + 1) % 16 else (high + 15) % 16

/-! ## Verification -/

/-- The message as it is signed: with an empty context. -/
def signedMessage (key msg : List Byte) : List Byte := shake256 64 (shake256 64 key ++ [0, 0] ++ msg)

/-- ML-DSA-87: whether a signature of a message verifies under a public key. -/
def mldsaVerify (key msg sig : List Byte) : Bool :=
  let rho := key.take 32
  let t1 := (List.range dsaK).map fun i => unpackBits 10 256 (pieceOf 320 i (key.drop 32))
  let seed := sig.take 64
  let masks := (List.range dsaL).map fun i => unpackBits 20 256 (pieceOf 640 i (sig.drop 64))
  match unpackHints (sig.drop (64 + 640 * dsaL)) with
  | none => false
  | some hints =>
    let z := masks.map fun p => ntt (p.map fun v => (dsaGamma1 + dsaQ - v) % dsaQ)
    let c := ntt (sampleBall seed)
    let row (i : Nat) : List Nat :=
      let az := (z.zipIdx).foldl (fun r e => addPoly r (mulValues (matrixAt rho i e.2) e.1)) (List.replicate 256 0)
      let ct := mulValues c (ntt ((t1.getD i []).map fun v => v * 8192 % dsaQ))
      (nttInverse (subPoly az ct)).zipIdx.map fun e => useHint ((hints.getD i []).contains e.2) e.1
    let w := (List.range dsaK).flatMap fun i => packNibbles (row i)
    key.length == 2592 && sig.length == 4627
      && (masks.all fun p => p.all fun v => decide (((dsaGamma1 : Int) - v).natAbs < dsaGamma1 - dsaBeta))
      && shake256 64 (signedMessage key msg ++ w) == seed

/-! ## Images in flash -/

/-- The header's fields but the signature, as numbers (R389), and the oldest handover version (R391). -/
def headerNumbers (i : Image) : List Nat := [i.magic, i.version, i.svn, i.bodyLength, i.bodyDigest.toNat, i.oldest]

/-- Those fields as bytes: what the signature is over. Their layout is open (DESIGN CHOICE, log entry 9). -/
def headerBytes (i : Image) : List Byte := Config.hashLayout 2 (headerNumbers i)

/-- The bytes of an image as flash holds it: the header with its signature, and the body. -/
def flashBytes (i : Image) : List Byte := headerBytes i ++ i.signature ++ i.body

end Sys2Proof.Machine
end

