-- ==== Sys2Proof/Machine/State.lean ====
section
/-! DEFINITION. The state of the package: every register, store and queue the manual names, as plain
data, and its value right after reset. Numbered stores are sparse maps (`KMap`) whose default is the
value the manual gives at launch or reset. Times are cycle numbers: core time on a core, tempo
elsewhere. The rule that names each field is cited beside it. -/

namespace Sys2Proof.Machine

/-! ## The control core and the context -/

/-- One register set of a control core, the task's or the shadow context's (R68, R355). -/
structure Regs where
  /-- g1 to g31 (g0 reads zero and discards writes, R49). -/
  g : KMap Word
  /-- bt0 to bt7. -/
  bt : KMap Word
  /-- The predicate window P. -/
  p : BitVec 16
  /-- Address of the word or record line being executed (R41, first level). -/
  pc : Word
  deriving DecidableEq, Repr

/-- The state of one accumulator beside its elements (R128). -/
structure AccState where
  passes : BitVec 32
  cls : BitVec 8
  reord : Bool
  mixed : Bool
  deriving DecidableEq, Repr

/-- A chain on an accumulator (R142, R143): open, and, while the last pass has no pair yet, its sums and the
elements it was added to. -/
structure Chain where
  isOpen : Bool
  waiting : List Elem
  before : List Elem
  deriving DecidableEq, Repr

/-- The wait a control core may stand in (R94, R285, R221). -/
inductive Wait where
  | none
  /-- WAITC: destination, address, threshold, class. -/
  | waitc (d : Nat) (va : Nat) (thr : Word) (cls : BitVec 4)
  /-- BAR.WAIT: destination, barrier. -/
  | bar (d : Nat) (n : Nat)
  /-- WAYS before the change: the value given, and the first tempo at which the change may come. -/
  | ways (w : Nat) (from_ : Nat)
  /-- WAYS after the change: the cycle it retires in (tempo). -/
  | waysDone (until_ : Nat)
  deriving DecidableEq, Repr

/-- Where a context stands in a segment's life. -/
inductive Phase where
  /-- Loose code. -/
  | loose
  /-- After ALIGN, forwarding the pre-release run (R92). -/
  | pre
  /-- Pre-release run forwarded, waiting for the release conditions (R32). -/
  | waiting
  /-- Released. -/
  | running
  /-- SEGE has issued, closure outstanding (R39). -/
  | closing
  /-- Aborted: what is in flight still lands (R358 step 2). -/
  | aborting
  deriving DecidableEq, Repr

/-- An event that needs handling at the end of its cycle (R366). -/
structure Event where
  code : Nat
  col : Nat
  info : Word
  /-- Address of the word or record line (R249). -/
  pc : Word
  deriving DecidableEq, Repr

/-- An access to perform again after a hold (R24). -/
inductive Retry where
  /-- A scalar access, with the address of its word (R249). -/
  | access (a : Access) (pc : Word)
  /-- An issue, with its cycle, the address of its record line (R249), and the scratchpad it reads: as it stood in that
  cycle (R24, R83). -/
  | issue (x : Issue) (cyc : Nat) (pc : Word) (sp : KMap Byte)
  deriving DecidableEq, Repr

/-- Why the core's time stands still (R24, R248, R362). -/
inductive Hold where
  | none
  /-- A handler runs in the shadow context. -/
  | handler
  /-- A page walk that will succeed, until the given tempo. -/
  | walk (until_ : Nat)
  /-- A window replay, until the given tempo. -/
  | replay (until_ : Nat)
  deriving DecidableEq, Repr

/-- The values a segment returns to when it aborts or re-releases (R35, R358, R385). -/
structure Snapshot where
  regs : Regs
  lpass : BitVec 32
  hz : Option (BitVec 32)
  streams : KMap Line
  tm : KMap Word
  xt : KMap (BitVec 7)
  notify : BitVec 8
  deriving DecidableEq, Repr

/-- What a window replay returns to its value at the marker (R116, R144, R325, R362). -/
structure Marker where
  /-- Core time of the opening. -/
  m : Nat
  /-- SATCNT and EMPTYCNT of each stream, as words 6. -/
  counts : KMap Word
  accSt : KMap AccState
  foldrep : Word
  blks : BitVec 32
  nanb : BitVec 32
  scores : BitVec 32
  /-- The drain queue and the open chains, which the window's own records fill and open again (DEDUCED, log
  entry 22). -/
  drain : List (List Elem)
  chains : KMap Chain
  deriving DecidableEq, Repr

/-- The segment in force. -/
structure Seg where
  phase : Phase
  /-- The 64-byte header (R31). -/
  hdr : Line
  /-- Address of the ALIGN word (R353). -/
  alignPc : Word
  /-- Address of the first line after the ALIGN line. -/
  bodyPc : Word
  /-- Core time of the release, S (R33). -/
  start : Nat
  /-- Tempo given to ALIGN by a gang member, T (R33). -/
  gangT : Nat
  /-- First core time at which the pre-release run allows the release (R92). -/
  lastFwd : Nat
  /-- A gang member that executed ALIGN later than T − 64 (R34). -/
  late : Bool
  /-- Running CRC of the signature, before the final xor (R40). -/
  crc : BitVec 32
  /-- Offset of SEGE's scheduled cycle, once issued (R93). -/
  segeAt : Option Nat
  snap : Snapshot
  /-- Accumulators named as D by a record of the segment (R358). -/
  accs : BitVec 4
  chains : KMap Chain
  /-- Pending arrivals of a solo segment (R284). -/
  arrivals : List Nat
  /-- The deferred TRAP: offset and number (R356). -/
  trap : Option (Nat × BitVec 15)
  /-- Notifications held until SEGE completes (R385). -/
  notes : Nat
  /-- The engine command window in force and the issues since its opening, each with its cycle and the address of its
  record line (R249, R361, R362). -/
  mark : Marker
  hist : List (Nat × Issue × Word)
  /-- The window in force at SEGE's scheduled cycle, with its issues; none before SEGE (R363). -/
  atEnd : Option (Marker × List (Nat × Issue × Word))
  /-- The window has replayed once for consumed poison; the last window has replayed for a
  mismatch (R363). -/
  replayed : Bool
  endReplayed : Bool
  /-- The replay in progress: the window's issues, the cycle performed again next, and the last one (R362). -/
  replayIssues : List (Nat × Issue × Word)
  replayAt : Nat
  replayEnd : Nat
  /-- A gang execution that has already been re-released; for a translation fault (R35), for consumed poison or a
  mismatch (R364). -/
  reReleased : Bool
  transAborted : Bool
  errorAborted : Bool
  /-- The event being handled, for the handler's entry after an abort. -/
  ev : Event
  evOffset : Nat
  deriving DecidableEq, Repr

/-- A context: everything its image holds (R369), and the properties of its task that its core
reads (R372). -/
structure Ctx where
  main : Regs
  shadow : Regs
  /-- The shadow context runs (R355). -/
  inShadow : Bool
  lpass : BitVec 32
  /-- Kill horizon, when one is in force (R90). -/
  hz : Option (BitVec 32)
  /-- Stream registers s0 to s63 (R112). -/
  streams : KMap Line
  /-- Tail masks (R203) and expected tags (R208). -/
  tm : KMap Word
  xt : KMap (BitVec 7)
  /-- Vector elements: register × 1024 + lane (R148, R177). -/
  vregs : KMap Elem
  /-- Accumulator elements: accumulator × 4096 + 64m + n (R128). -/
  acc : KMap Elem
  accSt : KMap AccState
  foldrep : Word
  widen : Word
  /-- REFMODE.LATCHED (R253). -/
  latched : BitVec 8
  trapCause : Word
  trapPc : Word
  trapInfo : Word
  /-- Tape state of the context (R328). -/
  h : KMap Word
  hv : BitVec 16
  bind : KMap (BitVec 5)
  playAt : Word
  rec_ : Bool
  reason : BitVec 8
  guardIdx : BitVec 3
  left : Bool
  /-- Registers written since TAPE.REC (R331): bits 1 to 31 for g, 32 to 39 for bt. -/
  wmask : BitVec 40
  /-- Barrier state words (R281). -/
  bars : KMap Word
  /-- Notify flags (R385). -/
  notify : BitVec 8
  blks : BitVec 32
  nanb : BitVec 32
  scores : BitVec 32
  /-- Task and place: identity, spatial index (R29), loop coordinates (R30), scratch-group member
  and size minus one (R218), cache ways (R218), priorities (R384). -/
  task : Nat
  spidx : Nat
  loopc : KMap (BitVec 16)
  member : BitVec 4
  gm1 : BitVec 4
  w : BitVec 5
  prio : BitVec 2
  prioEff : BitVec 2
  /-- Address space (R241), code object base and the header fields read at run time (R372). -/
  asid : Nat
  codeBase : Nat
  codeSize : Nat
  handler : Nat
  atrap : Bool
  gangs : Bool
  barriers : Nat
  q : Nat
  m : Nat
  notifyMask : BitVec 8
  codeHash : Word
  /-- Header address named by SEGB since the last SEGE (R91). -/
  segb : Option Word
  wait : Wait
  seg : Seg
  deriving DecidableEq, Repr

/-! ## A core -/

/-- One entry of the tape buffer (R329), and whether it holds an uncorrectable error. -/
structure TapeEntry where
  payload : Line
  annex : Word
  bad : Bool
  deriving DecidableEq, Repr

/-- The tape buffer with its header (R329, R333). -/
structure Tape where
  codeHash : Word
  feat0 : Word
  feat1 : Word
  widen : Word
  region : Word
  endPc : Word
  foldClass : BitVec 8
  refCur : BitVec 8
  spidx : Nat
  /-- 0 empty, 1 recording, 2 ready, 3 overflowed, 4 unusable. -/
  state : Nat
  gmask : BitVec 8
  pmask : BitVec 16
  gval : KMap Word
  greg : KMap (BitVec 5)
  pbind : KMap (BitVec 5)
  entries : List TapeEntry
  plays : Nat
  deriving DecidableEq, Repr

/-- A tape being played: the next entry to feed, the first part of the preceding checkpoint, and a
leave that a WIDEN bit or a pre-emption asks for at the following checkpoint (R342, R343). -/
structure Play where
  on : Bool
  next : Nat
  ckpt : Nat
  /-- Reason under which the tape is left at the next checkpoint; none to go on. -/
  leaveAt : Option (BitVec 8)
  deriving DecidableEq, Repr

/-- A record in a column queue (R37): its next issue, the number of issues, and the core time of its
first issue. -/
structure QRec where
  x : Issue
  start : Nat
  ii : Nat
  total : Nat
  next : Nat
  pc : Word
  deriving DecidableEq, Repr

/-- A fence still in force on later accesses (R263): its own number, the accesses to wait for, what it blocks. -/
structure FenceRec where
  id : Nat
  ids : List Nat
  reads : Bool
  writes : Bool
  shadow : Bool
  /-- The fence is a release: stores that its context has observed join `ids`. -/
  rel : Bool
  scope : Nat
  mask : BitVec 16
  /-- The reads that its acquire still waits for. -/
  loads : List Nat
  deriving DecidableEq, Repr

/-- A store of another core that a read returned before it had performed, from the copy it updated in this die's
remote-data cache (R226): the store's number and the read's class; once an acquire has followed the read, the
widest scope of one (R263). -/
structure Observed where
  id : Nat
  cls : BitVec 4
  shadow : Bool
  scope : Option Nat
  deriving DecidableEq, Repr

/-- An early-read watch (R210): the command's flight number and the range it writes. -/
structure Watch where
  flight : Nat
  lo : Nat
  hi : Nat
  deriving DecidableEq, Repr

/-- What one core holds for the context that runs on it, and its own clocks and buffers. -/
structure Core where
  /-- CTIME (R23). -/
  ctime : Word
  /-- Fold class in force (R125). -/
  fold : BitVec 8
  /-- The core is in service (R125, R366). -/
  inService : Bool
  resident : Bool
  ctx : Ctx
  /-- Instruction store: bytes of the code object by offset (R45, R372). -/
  istore : List Host.Cell
  /-- Core scratchpad (R13, R208), its arrival tags by sector, poisoned sectors (R360). -/
  sp : List Host.Cell
  tags : KMap (BitVec 7)
  spBad : List Nat
  /-- Poisoned vector elements, accumulator elements and stream registers (R360). -/
  vBad : List Nat
  accBad : List Nat
  streamBad : List Nat
  tape : Tape
  play : Play
  /-- Drain queue: entries of 1,024 words, head first (R137, R138). -/
  drain : List (List Elem)
  /-- Column queues and the time-sorted copy buffer, in forward order (R37, R191). -/
  queue : List QRec
  flights : List Flight
  /-- Control-core accesses not yet performed, oldest first, and fences in force (R260, R263). -/
  pend : List Access
  fences : List FenceRec
  observed : List Observed
  /-- First core time at which the control core may issue again (R70, R71). -/
  ready : Nat
  /-- First tempo at which the shadow context may issue again: its words run on while CTIME stands
  still (R24, R355). -/
  shReady : Nat
  /-- Time at which a register's value may be read (R70): n for gn, 32 + n for btn in core time, and
  64 more for the shadow context's, in tempo. -/
  busy : KMap Nat
  /-- Load that will write a register (R70, R82). -/
  loading : KMap Nat
  /-- Next number of an access, a flight or a forward. -/
  nextId : Nat
  /-- Events of this cycle (R366). -/
  events : List Event
  /-- Lower events of the cycle before a hold, raised again once it is over where their condition still holds
  (R366). -/
  later : List Event
  hold : Hold
  retry : List Retry
  /-- Path ports busy until this core time (R197): 0 SS, 1 LS, 2 DRAM, 3 remote die. -/
  ports : KMap Nat
  /-- Column spacing (R127, R149, R173, R188): last issue cycle + 1 by column, multiply lanes and
  atomic ports of VA and VB, SF lanes, MX, the scoring port (R321). -/
  lastIssue : KMap Nat
  mulUntil : KMap Nat
  atomUntil : KMap Nat
  scoreUntil : Nat
  watches : List Watch
  /-- By barrier, the writes that the context's last arrival is a release of, by number (R284, R287). -/
  barOwed : KMap (List Nat)
  /-- Core-time cycles outside segments (R43), and the core time until which a recalibration holds the context
  at its pre-emption point, uncounted (R309). -/
  watchdog : Nat
  recalUntil : Nat
  /-- A pre-emption request is pending (R367); a YIELD has retired with it, after which the context is saved before
  any word (R95). -/
  preempt : Bool
  yielding : Bool
  /-- Command numbers of memory-form copies (R405). -/
  cmdid : Nat
  /-- Plies to be counted as throttled at the next task boundary (R411). -/
  hotPlies : BitVec 4
  deriving DecidableEq, Repr

/-! ## A die -/

/-- A line of an L2 slice (R212). `phys` is the line's physical address divided by 256. -/
structure L2Line where
  phys : Nat
  asid : Nat
  va : Nat
  slice : Nat
  set : Nat
  way : Nat
  valid : BitVec 4
  dirty : BitVec 4
  /-- Poisoned sectors of the line (R360). -/
  bad : BitVec 4
  data : KMap Byte
  lru : Nat
  deriving DecidableEq, Repr

/-- A line of a remote-data cache (R225). -/
structure RdcLine where
  asid : Nat
  va : Nat
  phys : Nat
  set : Nat
  valid : BitVec 4
  /-- Poisoned sectors of the copy (R360). -/
  bad : BitVec 4
  data : KMap Byte
  lru : Nat
  deriving DecidableEq, Repr

/-- A translation-cache entry (R245). -/
structure TlbEntry where
  asid : Nat
  /-- Page base and size. -/
  page : Nat
  size : Nat
  pte : Word
  locked : Nat
  deriving DecidableEq, Repr

/-- An optical aperture (R295, R302, R305, R309). Its times count its own clock, which stops while
the granted core of a solo segment is held. -/
structure Aperture where
  clk : Nat
  /-- Window table: A, B, Y0, X0 of each entry (R298). -/
  wins : KMap (BitVec 18)
  /-- Mask banks: bank × 4096 + pixel, amplitude and phase codes (R304). -/
  amp : KMap Byte
  phase : KMap Byte
  /-- Calibration loaded by the context; none when the firmware's is in force (R309). -/
  cal : Option (KMap Byte)
  /-- The firmware's own calibration of this aperture: which of its measurements. -/
  own : Nat
  /-- A firmware calibration in force in place of that one, which a resumption brought (R295): the aperture it was
  measured on, which of its measurements, and its TREF. -/
  lent : Option (Nat × Nat × BitVec 16)
  /-- Temperature now, at the firmware's last calibration (its TREF) and latched at the last release, °C × 64
  (R306, R309); changes of the calibration in force. -/
  temp : BitVec 16
  tref : BitVec 16
  tlatch : BitVec 16
  epoch : BitVec 32
  /-- The context it is granted to: task and spatial index. -/
  owner : Option (Nat × Nat)
  /-- Tempo cycles granted since the last recalibration. -/
  granted : Nat
  /-- A recalibration waits for the holder's next pre-emption point (R309). -/
  recal : Bool
  shotUntil : Nat
  maskUntil : Nat
  /-- Settling end of each bank, and the end of the last use of each bank by OXC (R305). -/
  settle : KMap Nat
  used : KMap Nat
  /-- The last shot-path and mask-port issues: clock plus one, and core (R302). -/
  lastShot : Nat × Nat
  lastMask : Nat × Nat
  deriving DecidableEq, Repr

/-- What a die holds (R10, R17). -/
structure Die where
  plymask : BitVec 4
  l2 : List L2Line
  /-- LS bytes by slice × 65,536 + way × 4,096 + set × 256 + byte (R219). -/
  ls : KMap Byte
  /-- Poisoned LS sectors, by that index divided by 64 (R360). -/
  lsBad : List Nat
  rdc : List RdcLine
  /-- Tempo until which an acquire invalidates the remote-data cache: till then it serves no load and takes no
  copy (R227). -/
  rdcUntil : Nat
  tlb : List TlbEntry
  /-- Use counter for least-recently-used replacement. -/
  lru : Nat
  ap0 : Aperture
  ap1 : Aperture
  /-- Temperature of the stack, its current mode (R253) and the cadence it follows (R254). -/
  celsius : Int
  hot : Bool
  doubled : Bool
  /-- Next burst slot (tempo) and the next bank in it; postponed bursts per bank (R252, R254). -/
  burstAt : Nat
  burstBank : Nat
  postponed : KMap Nat
  /-- A bank would take a ninth postponed burst: the deadline falls in this cycle (R254). -/
  deadline : Bool
  deriving DecidableEq, Repr

/-! ## Tasks, rings, the host and the peers -/

/-- Where a context of a task stands (R29, R367, R386). -/
inductive Place where
  | unplaced
  | resident (core : Nat)
  | saved
  | ended
  deriving DecidableEq, Repr

/-- Poison marks that stay with a saved context (R360): of its scratchpad, vectors, accumulators, streams and share
of LS space. -/
structure Marks where
  sp : List Nat
  vec : List Nat
  acc : List Nat
  stream : List Nat
  ls : List Nat
  deriving DecidableEq, Repr

/-- A saved context (R369, R370): the context, its die, its fold class and feature bits at save, the scratchpad
where the task asks for it, its apertures, its share of LS space, and what its core's control held. -/
structure Saved where
  ctx : Ctx
  die : Nat
  fold : BitVec 8
  /-- FEAT0 and FEAT1 of the save. -/
  feat0 : Word
  feat1 : Word
  sp : Option (List Host.Cell × KMap (BitVec 7))
  /-- Apertures with their physical numbers, in logical order. -/
  aps : List (Nat × Aperture)
  ls : KMap Byte
  bad : Marks
  /-- Releases that wait for other cores' stores, and stores observed: the context is one agent for life (R275). -/
  fences : List FenceRec
  observed : List Observed
  /-- Tempo at which the save has ended (R368). -/
  ready : Nat
  deriving DecidableEq, Repr

/-- The life of a launch (R381 to R386). -/
inductive Life where
  | queued
  | ready
  | completed
  | aborted
  deriving DecidableEq, Repr

/-- A submission ring (R374). -/
structure Ring where
  live : Bool
  asid : Nat
  base : Nat
  log2n : Nat
  ctl : Nat
  ctab : Nat
  owner : Nat
  vector : Nat
  /-- The wake bit (R378), and the parser's refusal of the ring after an overrun (R376). -/
  woken : Bool
  overrun : Bool
  deriving DecidableEq, Repr

/-- A launch and its task (R372, R379). -/
structure Task where
  ring : Nat
  /-- The ring's descriptor as the launch was parsed; live until RINGDEL, after which the launch runs on (R399). -/
  desc : Ring
  asid : Nat
  launchId : Nat
  codeVa : Nat
  args : Word
  incidx : Nat
  notidx : Nat
  prio : BitVec 2
  aff : Nat
  pdie : Nat
  waits : List (Nat × Nat)
  /-- Code-object header fields (R372). -/
  flags : Nat
  codeSize : Nat
  barriers : Nat
  dshare : Nat
  mshare : Nat
  oapt : Nat
  notifyMask : BitVec 8
  entry : Nat
  handler : Nat
  loopTab : List (BitVec 32)
  code : List Host.Cell
  codeHash : Word
  life : Life
  /-- Tempo since which it waits, and effective priority (R383). -/
  since : Nat
  eff : BitVec 2
  /-- Die of its contexts when it has no spatial-die level (R29). -/
  die : Option Nat
  places : KMap Place
  saved : List (Nat × Saved)
  /-- Barrier words of contexts not yet placed: spidx × 1024 + barrier (R289). -/
  bars : KMap Word
  widenOr : Word
  /-- Notifications raised by each context, and taken for the launch (R385). -/
  raised : KMap Nat
  taken : Nat
  /-- Translations it holds locked: die and page base (R245). -/
  locks : List (Nat × Nat)
  /-- A context has released a gang segment (R367). -/
  ganged : Bool
  /-- Waits for the core that holds its tape until this tempo (R379). -/
  affUntil : Nat
  /-- The scheduler is to test whether the launch is ready (R381). -/
  test : Bool
  deriving DecidableEq, Repr

/-- A page whose mapping is going (R247): its leaf, the host page that its data moves to (none where it is freed), and
the accesses and flights that translated through the old entry, by number, and by core and number. -/
structure Leaving where
  pte : Word
  page : Nat
  size : Nat
  host : Option Nat
  accesses : List Nat
  flights : List (Nat × Nat)
  deriving DecidableEq, Repr

/-- An allocation (R236, R399). -/
structure Alloc where
  va : Nat
  length : Nat
  flags : Word
  /-- A FREE is pending on it (R399). -/
  freeing : Option Nat
  /-- Host page that holds an evicted page: page base, host address (R236). -/
  evicted : List (Nat × Nat)
  leaving : List Leaving
  deriving DecidableEq, Repr

/-- An address space (R241). -/
structure Space where
  root : Nat
  allocs : List Alloc
  /-- Page tables: device address and size. -/
  tables : List (Nat × Nat)
  deriving DecidableEq, Repr

/-- A connection to a peer package (R403, R406, R407). -/
structure Conn where
  txNext : Nat
  unacked : List Frame
  lastAdvance : Nat
  rxNext : Nat
  ahead : List Frame
  sinceAck : Nat
  lastAck : Nat
  gapSince : Option Nat
  stripe : List Nat
  heard : KMap Nat
  turn : Nat
  /-- The peer's commands, by core and CMDID, of which a row has not performed (R405). -/
  lost : List (Nat × Nat)
  deriving DecidableEq, Repr

/-! ## What the machine meets beside its instructions -/

/-- A stored unit that can hold an uncorrectable error (R360): a DRAM, L2, LS or remote-data cache sector, a
scratchpad sector, a vector-register, accumulator or stream-register element, a tape entry (R344); by the numbers
that the poison marks go by. -/
inductive StoredUnit where
  | dram (sector : Nat)
  | l2 (die sector : Nat)
  | ls (die sector : Nat)
  | rdc (die asid va : Nat)
  | sp (core sector : Nat)
  | vec (core i : Nat)
  | acc (core i : Nat)
  | stream (core n : Nat)
  | tape (core entry : Nat)
  deriving DecidableEq, Repr

/-- What a core of a firmware pair puts out: a store, or a message to a function (R387). -/
inductive Output where
  | store (address value : Word)
  | message (target : Nat) (bytes : BitVec 512)
  deriving DecidableEq, Repr

/-- What happens to the package beside the rows of the opcode table: an uncorrectable error is found in a unit
(R360), an aperture's temperature changes (R309), the host stores into its own memory (R395), a core of a firmware
pair puts something out, a function takes the oldest message of its mailbox (R387). -/
inductive Stimulus where
  | poison (u : StoredUnit)
  | warm (aperture : Nat) (temp : BitVec 16)
  | hostStore (address : Nat) (bytes : List Byte)
  | output (fn : Nat) (second : Bool) (o : Output)
  | receive (fn : Nat)
  deriving DecidableEq, Repr

/-- Notifications that a context has raised and the scheduler has not taken: the writes they wait for (R385). -/
structure Note where
  task : Nat
  spidx : Nat
  count : Nat
  waits : List Nat
  deriving DecidableEq, Repr

/-- A report to the host (R400). -/
structure Report where
  kind : Nat
  ring : Nat
  code : Nat
  launchId : Nat
  offset : Nat
  col : Nat
  spidx : Nat
  taskId : Nat
  deriving DecidableEq, Repr

/-- A firmware function (R387): its inbound messages with their senders, oldest first; the messages whose senders
wait for room in it; and what the first core of its pair has put out and the second has not yet. -/
structure FwFunction where
  inbox : List (Nat × BitVec 512)
  waiting : List (Nat × BitVec 512)
  ahead : List Output
  deriving DecidableEq, Repr

/-- Where the firmware complex stands (R388, R391). -/
inductive Complex where
  | running
  /-- Frozen by a mismatch of the given function: until the given tempo and until every context stands, but no longer
  than to the limit. -/
  | frozen (until_ limit fn : Nat)
  /-- Frozen for a live update to the given image, which is checked once every context stands, or at the limit. -/
  | checking (image : Image) (limit : Nat)
  /-- Frozen until the host resets the package. -/
  | locked
  /-- A new image has been started and must raise its heartbeat by the given tempo. -/
  | updating (image : Image) (until_ : Nat)
  deriving DecidableEq, Repr

/-- Steps of the bring-up (R412) still to come. -/
inductive BringUp where
  | negotiate
  | config
  | ready
  deriving DecidableEq, Repr

/-- The state that the old image hands to the new one, under its version number (R391): what the functions keep, and
what is not rebuilt from hardware. (DESIGN CHOICE, log entry 91.) -/
structure Handover where
  version : Nat
  fns : KMap FwFunction
  cap : Nat
  limits : KMap Nat
  nextTask : Nat
  nextTest : Nat
  turn : Nat
  deriving DecidableEq, Repr

/-- The firmware's and the hub's state (R387 to R391, R410). -/
structure Firmware where
  complex : Complex
  lastRestart : Option Nat
  /-- Active slot (false A, true B) and the images of both. -/
  slotB : Bool
  imageA : Image
  imageB : Image
  minSvn : Nat
  bringUp : BringUp
  /-- Power cap in watts; milliseconds the average has stood above it (R410). -/
  cap : Nat
  overMs : Nat
  /-- Watchdog limit of each priority in cycles (R43, R384). -/
  limits : KMap Nat
  /-- Telemetry (R378, R387, R404): wakes, frames dropped, replays and deadlines reported. -/
  wakesDropped : Nat
  framesDropped : Nat
  replays : Nat
  deadlines : Nat
  /-- The eight functions (R387). -/
  fns : KMap FwFunction
  /-- What the hub holds fused: the secret (R390), and the digest of the public key (R389); its boot code, and the
  public key that stands beside it. -/
  secret : Nat
  keyDigest : BitVec 512
  bootCode : List Byte
  key : List Byte
  /-- The device's attestation key, derived at boot (R390). -/
  attKey : BitVec 512
  /-- The handover structure of a live update that runs (R391). -/
  handover : Option Handover
  /-- Reports that wait until dispatch resumes (R388). -/
  held : List Report
  /-- Next task identity, and the tempo of the next periodic readiness test (R381). -/
  nextTask : Nat
  nextTest : Nat
  /-- The ring served last in placement: rings are served in turn (R383). -/
  turn : Nat
  deriving DecidableEq, Repr

/-- The host link as programs and the driver see it (R392 to R400). -/
structure HostLink where
  /-- Request slots, BAR0 bytes 0x0000 to 0x0FFF. -/
  slots : KMap Byte
  repWr : Word
  repRd : Word
  repLost : Word
  /-- Report entries, BAR0 bytes from 0x2000. -/
  reports : KMap Byte
  /-- MSI-X vectors raised, oldest first. -/
  raised : List Nat
  /-- Bytes returned to host reads and SPDM requests, oldest first. -/
  reads : List (List Byte)
  /-- Answers to SPDM requests: measurement, digest, signature. -/
  spdm : List (Nat × BitVec 512 × List Byte)
  up : Bool
  deriving DecidableEq, Repr

/-- The package. -/
structure State where
  /-- TEMPO (R22). -/
  tempo : Word
  /-- The core in focus: control-core instructions and core events act on it. The model's own. -/
  cur : Nat
  cores : KMap Core
  dies : KMap Die
  /-- DRAM bytes by physical address bits 38:0 (R234), host memory by host bus address. -/
  dram : List Host.Cell
  hostMem : List Host.Cell
  /-- Poisoned DRAM sectors, by physical address divided by 64 (R360); a cached copy carries its own mark. -/
  memBad : List Nat
  spaces : KMap Space
  tasks : KMap Task
  rings : KMap Ring
  /-- PKGID (R18), FEAT0 and FEAT1 (R402). -/
  pkg : BitVec 16
  domain : BitVec 16
  feat0 : Word
  feat1 : Word
  fw : Firmware
  host : HostLink
  /-- Bindings of peer address spaces: asid × 65,536 + package (R408). -/
  peers : KMap (Option Nat)
  conns : KMap Conn
  /-- Frames handed to the ports, oldest first; links up (R403). -/
  sent : List Frame
  links : BitVec 4
  /-- Next probe period (R407). -/
  nextProbe : Nat
  /-- Barrier arrivals on their way (R284). -/
  arrivals : List Arrival
  /-- Notifications not yet taken by the scheduler (R385). -/
  notes : List Note
  /-- Packets the parser has copied and not yet treated (R376). -/
  packets : List (Nat × Line)
  /-- Resolve and abandon requests sent through mailboxes: package core number (R250). -/
  mailbox : List Nat
  /-- The package has power (R411). -/
  powered : Bool
  /-- The model's own: outside events with the tempo they arrive at, the choices that the order of
  loose accesses and the walks take, and the free-value counter. -/
  inputs : List (Nat × Instr)
  stimuli : List (Nat × Stimulus)
  oracle : List Nat
  free : Nat
  deriving DecidableEq, Repr

/-! ## Values at launch and at reset -/

def Regs.zero : Regs := ⟨[], [], 0, 0⟩

def AccState.zero : AccState := ⟨0, 0, false, false⟩

def Chain.closed : Chain := ⟨false, [], []⟩

def Event.none : Event := ⟨0, 0, 0, 0⟩

def Snapshot.zero : Snapshot := ⟨Regs.zero, 0, none, [], [], [], 0⟩

def Marker.zero : Marker := ⟨0, [], [], 0, 0, 0, 0, [], []⟩

/-- No segment: loose code. -/
def Seg.loose : Seg :=
  { phase := .loose, hdr := 0, alignPc := 0, bodyPc := 0, start := 0, gangT := 0, lastFwd := 0, late := false, crc := 0
    segeAt := none, snap := Snapshot.zero, accs := 0, chains := [], arrivals := [], trap := none, notes := 0
    mark := Marker.zero, hist := [], atEnd := none, replayed := false, endReplayed := false, replayIssues := []
    replayAt := 0, replayEnd := 0, reReleased := false, transAborted := false, errorAborted := false
    ev := Event.none, evOffset := 0 }

/-- A context at launch (R68, R112, R128, R148, R203, R208, R281, R325, R328, R352 to R354, R385):
everything zero but P = 1 and W = 16. -/
def Ctx.launch : Ctx :=
  { main := { Regs.zero with p := 1 }, shadow := Regs.zero, inShadow := false, lpass := 0, hz := none
    streams := [], tm := [], xt := [], vregs := [], acc := [], accSt := [], foldrep := 0, widen := 0
    latched := 0, trapCause := 0, trapPc := 0, trapInfo := 0, h := [], hv := 0, bind := [], playAt := 0
    rec_ := false, reason := 0, guardIdx := 0, left := false, wmask := 0, bars := [], notify := 0
    blks := 0, nanb := 0, scores := 0, task := 0, spidx := 0, loopc := [], member := 0, gm1 := 0, w := 16
    prio := 0, prioEff := 0, asid := 0, codeBase := 0, codeSize := 0, handler := 0, atrap := false
    gangs := false, barriers := 0, q := 0, m := 0, notifyMask := 0, codeHash := 0, segb := none
    wait := .none, seg := Seg.loose }

/-- An empty tape buffer (R347). -/
def Tape.empty : Tape :=
  { codeHash := 0, feat0 := 0, feat1 := 0, widen := 0, region := 0, endPc := 0, foldClass := 0, refCur := 0
    spidx := 0, state := 0, gmask := 0, pmask := 0, gval := [], greg := [], pbind := [], entries := []
    plays := 0 }

def Play.off : Play := ⟨false, 0, 0, none⟩

/-- A core at package reset: CTIME 0 (R23), full fold (DESIGN CHOICE, log entry 11), nothing resident. -/
def Core.reset : Core :=
  { ctime := 0, fold := 0x0F, inService := true, resident := false, ctx := Ctx.launch, istore := []
    sp := [], tags := [], spBad := [], vBad := [], accBad := [], streamBad := [], tape := Tape.empty
    play := Play.off, drain := [], queue := [], flights := [], pend := [], fences := [], observed := [], ready := 0, shReady := 0
    busy := [], loading := [], nextId := 1, events := [], later := [], hold := .none, retry := [], ports := []
    lastIssue := [], mulUntil := [], atomUntil := [], scoreUntil := 0, watches := [], barOwed := [], watchdog := 0, recalUntil := 0
    preempt := false, yielding := false, cmdid := 0, hotPlies := 0 }

/-- A window-table entry at launch: A = B = 6, Y0 = X0 = 0 (R295). -/
def winReset : BitVec 18 := 0x0036#18

/-- An aperture at launch (R295): the firmware's calibration, M = 1 at every pixel; at 25 °C (DESIGN CHOICE, log
entry 11). -/
def Aperture.reset : Aperture :=
  { clk := 0, wins := [], amp := [], phase := [], cal := none, own := 0, lent := none, temp := 1600, tref := 1600, tlatch := 0, epoch := 1
    owner := none, granted := 0, recal := false, shotUntil := 0, maskUntil := 0, settle := [], used := []
    lastShot := (0, 0), lastMask := (0, 0) }

/-- A die at package reset; every ply has passed its test (DESIGN CHOICE, log entry 11). -/
def Die.reset : Die :=
  { plymask := 0xF, l2 := [], ls := [], lsBad := [], rdc := [], rdcUntil := 0, tlb := [], lru := 0, ap0 := Aperture.reset
    ap1 := Aperture.reset, celsius := 25, hot := false, doubled := false, burstAt := 131072, burstBank := 0
    postponed := [], deadline := false }

def Space.empty : Space := ⟨0, [], []⟩

def Ring.none : Ring := ⟨false, 0, 0, 0, 0, 0, 0, 0, false, false⟩

def Task.none : Task :=
  { ring := 0, desc := Ring.none, asid := 0, launchId := 0, codeVa := 0, args := 0, incidx := 0xFFFF, notidx := 0xFFFF, prio := 0
    aff := 0, pdie := 0, waits := [], flags := 0, codeSize := 0, barriers := 0, dshare := 0, mshare := 0
    oapt := 0, notifyMask := 0, entry := 0, handler := 0, loopTab := [], code := [], codeHash := 0
    life := .completed, since := 0, eff := 0, die := Option.none, places := [], saved := [], bars := []
    widenOr := 0, raised := [], taken := 0, locks := [], ganged := false, affUntil := 0, test := false }

def Conn.new : Conn := ⟨0, [], 0, 0, [], 0, 0, none, [], [], 0, []⟩

/-- Flash as the model starts with it: an image of no bytes, whose digest is that of no bytes; its signature is open
(DESIGN CHOICE, log entry 11). -/
def Image.first : Image :=
  { magic := 0, version := 0, svn := 0, bodyLength := 0
    bodyDigest := 0x26cd1d2886857501e3d3b6959d1900f558c53a2c40e9e3114cf9f5f13a12b215a6805c47c1dcd1e05958e24f1682c9976e755a18dc67b5c8c59a3aa2cc739fa6#512
    signature := Config.bootSignature, oldest := 0, body := [] }

def FwFunction.none : FwFunction := ⟨[], [], []⟩

/-- The firmware after its image has been verified and the board tested (R412 steps 1 to 3), the
default power cap (R410) and watchdog limits (R43, R384: 100 ms). -/
def Firmware.reset : Firmware :=
  { complex := .running, lastRestart := none, slotB := false, imageA := Image.first, imageB := Image.first
    minSvn := 0, bringUp := .negotiate, cap := 2400, overMs := 0, limits := [], wakesDropped := 0
    framesDropped := 0, replays := 0, deadlines := 0, fns := [], secret := 0, keyDigest := digestOf Config.bootKey
    bootCode := [], key := Config.bootKey, attKey := Config.deriveKey 0 (digestOf (flashBytes Image.first))
    handover := none, held := [], nextTask := 1, nextTest := 15000, turn := 0 }

def HostLink.reset : HostLink := ⟨[], 0, 0, 0, [], [], [], [], true⟩

/-- The machine right after package reset (R412): TEMPO and CTIME zero, PKGID.PKG 0xFFFF and DOMAIN 0
(R18), nothing resident, nothing registered, memory with nothing listed. -/
def State.reset : State :=
  { tempo := 0, cur := 0, cores := [], dies := [], dram := [], hostMem := [], memBad := [], spaces := []
    tasks := [], rings := [], pkg := 0xFFFF, domain := 0, feat0 := 0, feat1 := 0, fw := Firmware.reset
    host := HostLink.reset, peers := [], conns := [], sent := [], links := 0xF, nextProbe := 1500000
    arrivals := [], notes := [], packets := [], mailbox := [], powered := true, inputs := [], stimuli := [], oracle := [], free := 0 }

/-! ## Why a step stops -/

/-- Faults: the machine stops. -/
inductive Fault where
  /-- Raised by every step of a package without power (R411: the hub has removed package power and
  all device state is lost) until a package reset arrives. Safe: the machine does nothing more. -/
  | poweredOff
  deriving DecidableEq, Repr

/-- Refusals: no meaning for the instruction. -/
inductive Refusal where
  /-- Raised by an arm of `exec` whose instruction has no meaning yet. Safe: nothing is claimed. -/
  | notModelled (mnemonic : String)
  deriving DecidableEq, Repr

end Sys2Proof.Machine
end

