-- ==== Sys2Proof/Machine/Access.lean ====
section
/-! DEFINITION. The homes of state and the accessors every other operation goes through: cores, dies,
the context in focus, and the registers of the set that runs (R49, R68, R355). -/

namespace Sys2Proof.Machine

/-- What `exec` answers. -/
abbrev Out := Host.Outcome State Fault Refusal

/-! ## Cores and dies -/

def getCore (s : State) (k : Nat) : Core := KMap.get Core.reset s.cores k
def setCore (s : State) (k : Nat) (c : Core) : State := { s with cores := KMap.set Core.reset s.cores k c }
def updCoreAt (k : Nat) (f : Core → Core) (s : State) : State := setCore s k (f (getCore s k))

def getDie (s : State) (d : Nat) : Die := KMap.get Die.reset s.dies d
def setDie (s : State) (d : Nat) (x : Die) : State := { s with dies := KMap.set Die.reset s.dies d x }
def updDie (d : Nat) (f : Die → Die) (s : State) : State := setDie s d (f (getDie s d))

/-- Number of cores and of dies (R10). -/
def nCores : Nat := 128
def nDies : Nat := 8

/-- The die of a package core number (R10: 16 cores a die). -/
def dieOf (k : Nat) : Nat := k / 16

/-- The core in focus, its context, its die. -/
def curCore (s : State) : Core := getCore s s.cur
def curCtx (s : State) : Ctx := (curCore s).ctx
def curDie (s : State) : Nat := dieOf s.cur
def updCore (f : Core → Core) (s : State) : State := setCore s s.cur (f (curCore s))
def updCtx (f : Ctx → Ctx) (s : State) : State := updCore (fun c => { c with ctx := f c.ctx }) s
def updSeg (f : Seg → Seg) (s : State) : State := updCtx (fun c => { c with seg := f c.seg }) s

/-- Bring a core into focus. -/
def focus (k : Nat) (s : State) : State := { s with cur := k }

/-- Apply an operation with core `k` in focus, and return the focus. -/
def onCore (k : Nat) (f : State → State) (s : State) : State := focus s.cur (f (focus k s))

def getTask (s : State) (t : Nat) : Task := KMap.get Task.none s.tasks t
def setTask (s : State) (t : Nat) (x : Task) : State := { s with tasks := KMap.set Task.none s.tasks t x }
def updTask (t : Nat) (f : Task → Task) (s : State) : State := setTask s t (f (getTask s t))
def getRing (s : State) (r : Nat) : Ring := KMap.get Ring.none s.rings r
def updRing (r : Nat) (f : Ring → Ring) (s : State) : State :=
  { s with rings := KMap.set Ring.none s.rings r (f (getRing s r)) }
def getSpace (s : State) (a : Nat) : Space := KMap.get Space.empty s.spaces a
def updSpace (a : Nat) (f : Space → Space) (s : State) : State :=
  { s with spaces := KMap.set Space.empty s.spaces a (f (getSpace s a)) }

/-- Apply an operation to every core number in turn. -/
def forCores (f : Nat → State → State) (s : State) : State := (List.range nCores).foldl (fun s k => f k s) s

/-! ## Time -/

/-- Core time of the core in focus, and tempo, as numbers (R22, R23). -/
def now (s : State) : Nat := (curCore s).ctime.toNat
def tempoNow (s : State) : Nat := s.tempo.toNat

/-- The time that paces the control core: core time, and tempo for the shadow context, which runs while
CTIME stands still (R24, R355). -/
def clk (s : State) : Nat := if (curCtx s).inShadow then tempoNow s else now s

/-- Whether the context in focus is inside a segment: from its release to SEGE's issue (R71). -/
def inSegment (s : State) : Bool := decide ((curCtx s).seg.phase = .running) && !(curCtx s).inShadow

/-- Whether the segment named by the header in force is a gang segment (R31). -/
def segGang (s : State) : Bool := bitAt (curCtx s).seg.hdr 136

/-- The column's and the header's offset of the present cycle (R352: core time, or tempo for a gang). -/
def segOffset (s : State) : Nat :=
  if segGang s then tempoNow s - (curCtx s).seg.gangT else now s - (curCtx s).seg.start

/-! ## Registers -/

/-- The register set that runs: the shadow context's own while a handler runs (R355). -/
def regs (c : Ctx) : Regs := if c.inShadow then c.shadow else c.main
def updRegs (f : Regs → Regs) (c : Ctx) : Ctx :=
  if c.inShadow then { c with shadow := f c.shadow } else { c with main := f c.main }

/-- g0 reads zero (R49). -/
def Regs.read (r : Regs) (n : Nat) : Word := if n = 0 then 0 else KMap.get 0 r.g n
/-- A write to g0 is discarded (R49). -/
def Regs.write (n : Nat) (v : Word) (r : Regs) : Regs := if n = 0 then r else { r with g := KMap.set 0 r.g n v }

def readG (s : State) (n : BitVec 5) : Word := (regs (curCtx s)).read n.toNat
def readBt (s : State) (t : BitVec 3) : Word := KMap.get 0 (regs (curCtx s)).bt t.toNat
def readP (s : State) : BitVec 16 := (regs (curCtx s)).p
def pcOf (s : State) : Word := (regs (curCtx s)).pc

/-- The main registers written since TAPE.REC (R331): bit n for gn, bit 32 + n for btn. -/
def noteMain (bit : Nat) (c : Ctx) : Ctx :=
  if c.rec_ then { c with wmask := c.wmask ||| BitVec.ofNat 40 (2 ^ bit) } else c

/-- A write of the set that runs. -/
def noteWrite (bit : Nat) (c : Ctx) : Ctx := if c.inShadow then c else noteMain bit c

/-- Number of a register in the core's tables of pending results: the shadow context has its own. -/
def regKey (c : Ctx) (k : Nat) : Nat := if c.inShadow then 64 + k else k

/-- Write a general register: a result of the word being executed, which takes the place of any load
still on its way to that register (R70). -/
def writeG (n : BitVec 5) (v : Word) (s : State) : State :=
  if n = 0 then s
  else updCore (fun c =>
    { c with
      loading := KMap.set 0 c.loading (regKey c.ctx n.toNat) 0
      ctx := noteWrite n.toNat (updRegs (Regs.write n.toNat v) c.ctx) }) s

def writeBt (t : BitVec 3) (v : Word) (s : State) : State :=
  updCtx (fun c => noteWrite (32 + t.toNat) (updRegs (fun r => { r with bt := KMap.set 0 r.bt t.toNat v }) c)) s

def writeP (p : BitVec 16) (s : State) : State := updCtx (updRegs fun r => { r with p := p }) s
def setPc (pc : Word) (s : State) : State := updCtx (updRegs fun r => { r with pc := pc }) s

/-- The register's value may be read from cycle `now + lat` on (R70, R71). `k` is n for gn and
32 + n for btn; g0 has no producer (R49). -/
def setBusy (k lat : Nat) (s : State) : State :=
  if k = 0 then s else updCore (fun c => { c with busy := KMap.set 0 c.busy (regKey c.ctx k) (clk s + lat) }) s

/-- The control core issues no earlier than `cyc` cycles from now. -/
def setReady (cyc : Nat) (s : State) : State :=
  updCore (fun c =>
    if c.ctx.inShadow then { c with shReady := clk s + cyc } else { c with ready := clk s + cyc }) s

/-- The word has issued: the next word stands `size` bytes on, and issues no earlier than `cyc` cycles
from now (R70, R71). -/
def retire (size cyc : Nat) (s : State) : State :=
  setReady cyc (updCtx (updRegs fun r => { r with pc := r.pc + BitVec.ofNat 64 size }) s)

/-- A free number: the next value of the model's own counter. (DESIGN CHOICE, log entry 27.) -/
def drawFree (s : State) : Nat × State := (s.free, { s with free := s.free + 1 })

/-- Whether the firmware complex dispatches (R388, R391). -/
def complexRuns (s : State) : Bool :=
  match s.fw.complex with
  | .running => true
  | _ => false

/-- The next choice of the oracle; 0 where it is empty. (DESIGN CHOICE, log entry 23.) -/
def drawOracle (s : State) : Nat × State :=
  match s.oracle with
  | [] => (0, s)
  | n :: r => (n, { s with oracle := r })

/-- A number for a flight or a forward. -/
def newId (s : State) : Nat × State := ((curCore s).nextId, updCore (fun c => { c with nextId := c.nextId + 1 }) s)

/-- A number for a control-core access: it names the core as well, so that one core can wait for another's. -/
def newAccess (s : State) : Nat × State := ((newId s).1 * nCores + s.cur, (newId s).2)

/-- Whether the access of a number is still pending, on whichever core issued it. -/
def accessPending (s : State) (id : Nat) : Bool := (getCore s (id % nCores)).pend.any fun a => a.id == id

end Sys2Proof.Machine
end

