-- ==== Sys2Proof/Machine/Memory.lean ====
section
/-! DEFINITION. Memory: physical bytes and poison (R234, R360), the page walk and the translation
cache (R241 to R245), the L2 slices (R212 to R216, R246, R415), the remote-data cache (R225 to R227),
LS space (R219) and core scratchpad (R83, R208). -/

namespace Sys2Proof.Machine

/-- The one canonical form of a memory: addresses strictly rising, and no byte listed that reads as an unlisted
one does, which is zero (log entry 2). -/
def Memory.wf (m : List Host.Cell) : Bool := KMap.wf 0 m

/-! ## Physical memory -/

/-- A place a translation gives: a byte of device memory or a host bus address (R234). -/
structure Phys where
  host : Bool
  pa : Nat
  deriving DecidableEq, Repr

/-- Whether a device address is populated (R234). -/
def populated (pa : Nat) : Bool := decide (pa < 2 ^ 39) && decide (pa % 2 ^ 36 < 64 * 10 ^ 9)

/-- The stack that holds a device address (R234). -/
def homeDie (pa : Nat) : Nat := pa / 2 ^ 36 % 8

/-- The L2 line that holds a physical line, whatever its tag (the remap filter, R246). -/
def findLine (d : Die) (line : Nat) : Option L2Line := d.l2.find? fun l => l.phys == line

/-- A byte of device memory as its home slice gives it. -/
def homeByte (s : State) (pa : Nat) : Byte :=
  match findLine (getDie s (homeDie pa)) (pa / 256) with
  | some l => if bitAt l.valid (pa / 64 % 4) then KMap.get 0 l.data (pa % 256) else KMap.get 0 s.dram pa
  | none => KMap.get 0 s.dram pa

def physByte (s : State) (p : Phys) : Byte := if p.host then KMap.get 0 s.hostMem p.pa else homeByte s p.pa

def physBytes (s : State) (p : Phys) (n : Nat) : List Byte :=
  (List.range n).map fun i => physByte s ⟨p.host, p.pa + i⟩

/-- Whether the sector a read is served from is poisoned: the home slice's copy where there is one, else DRAM;
host memory is never marked (R360). -/
def sectorBad (s : State) (p : Phys) : Bool :=
  !p.host && (match findLine (getDie s (homeDie p.pa)) (p.pa / 256) with
    | some l => if bitAt l.valid (p.pa / 64 % 4) then bitAt l.bad (p.pa / 64 % 4) else s.memBad.contains (p.pa / 64)
    | none => s.memBad.contains (p.pa / 64))

def setBadMark (bad : Bool) (sec : Nat) (l : List Nat) : List Nat :=
  if bad then (if l.contains sec then l else sec :: l) else l.filter fun x => x != sec

/-! ## Slices -/

/-- The home slice and the set of a line (R213). -/
def sliceOf (va : Nat) : Nat := xorAll ((List.range 6).map fun i => va / 2 ^ (8 + 9 * i) % 512)
def setOf (va : Nat) : Nat := Nat.xor (va / 2 ^ 17) (va / 2 ^ 21) % 16

/-- Cache ways of a slice (R217): those of the context above which it lies. -/
def waysOf (s : State) (die slice : Nat) : Nat := (getCore s (16 * die + slice / 32)).ctx.w.toNat

/-- The key rows of a scoring read in flight; none for any other flight. -/
def scoreRows (f : Flight) : List (Nat × List Byte) :=
  match f.kind with
  | .nbList _ _ rows => rows
  | _ => []

/-- A scoring read sees a sector as DRAM now holds it. -/
def seeSector (dram : List Host.Cell) (sec : Nat) (f : Flight) : Flight :=
  match f.kind with
  | .nbList x q rows => { f with kind := .nbList x q (rows.map fun r => (r.1, r.2.zipIdx.map fun b =>
      if (r.1 + b.2) / 64 = sec then KMap.get 0 dram (r.1 + b.2) else b.1)) }
  | _ => f

/-- A DRAM update of a sector is seen or missed, whole, by each scoring read of the die that has started and not
landed: which is open (R322; DESIGN CHOICE, log entry 7). -/
def noteScoring (pa : Nat) (s : State) : State :=
  let touches (f : Flight) : Bool := (scoreRows f).any fun r => decide (r.1 / 64 ≤ pa / 64) && decide (pa / 64 * 64 < r.1 + r.2.length)
  ((List.range 16).map fun j => 16 * homeDie pa + j).foldl (fun s k =>
    if (getCore s k).flights.any touches then
      let (n, s) := drawFree s
      if Config.sectorIsNew n then
        updCoreAt k (fun c => { c with flights := c.flights.map fun f => if touches f then seeSector s.dram (pa / 64) f else f }) s
      else s
    else s) s

/-- Bytes inside one sector of DRAM take new values. -/
def dramWrite (pa : Nat) (bs : List Byte) (s : State) : State := noteScoring pa { s with dram := KMap.setList 0 s.dram pa bs }

/-- Write the dirty sectors of a line to DRAM (those of `mask`), each whole and with its poison mark (R360). -/
def writeBackSectors (l : L2Line) (mask : BitVec 4) (s : State) : State :=
  (List.range 4).foldl (fun s i =>
    if bitAt l.dirty i && bitAt mask i then
      dramWrite (l.phys * 256 + 64 * i) (KMap.getList 0 l.data (64 * i) 64)
        { s with memBad := setBadMark (bitAt l.bad i) (l.phys * 4 + i) s.memBad }
    else s) s

/-- A line's mark of one sector, set or cleared. -/
def markLine (bad : Bool) (sec : Nat) (m : BitVec 4) : BitVec 4 :=
  if bad then m ||| BitVec.ofNat 4 (2 ^ sec) else m &&& ~~~(BitVec.ofNat 4 (2 ^ sec))

/-- Replace the list entry of a physical line. -/
def putLine (l : L2Line) (d : Die) : Die :=
  { d with l2 := d.l2.map fun x => if x.phys = l.phys then l else x }

def dropLine (line : Nat) (d : Die) : Die := { d with l2 := d.l2.filter fun x => x.phys != line }

/-- Make the named sector of a line valid, filled from DRAM with its poison mark. -/
def fillSector (s : State) (l : L2Line) (sec : Nat) : L2Line :=
  if bitAt l.valid sec then l
  else { l with
    valid := l.valid ||| BitVec.ofNat 4 (2 ^ sec)
    bad := markLine (s.memBad.contains (l.phys * 4 + sec)) sec l.bad
    data := KMap.setList 0 l.data (64 * sec) (KMap.getList 0 s.dram (l.phys * 256 + 64 * sec) 64) }

/-- The way a fill takes in a slice of `w` cache ways: the lowest invalid one, or none (R415). -/
def freeWay (d : Die) (slice set w : Nat) : Option Nat :=
  (List.range w).find? fun k => !(d.l2.any fun l => l.slice == slice && l.set == set && l.way == k)

/-- The least recently used line of a set among its cache ways (R213). -/
def lruLine (d : Die) (slice set w : Nat) : Option L2Line :=
  (d.l2.filter fun l => l.slice == slice && l.set == set && decide (l.way < w)).foldl
    (fun b l => match b with
      | none => some l
      | some m => if l.lru < m.lru then some l else b) none

/-- Bring the sector of device address `pa` into its home slice, under the tag (asid, va) unless the
physical line is already cached (R212, R213, R246, R415). With no cache ways nothing is kept (R216). -/
def touchSector (asid va pa : Nat) (s : State) : State :=
  let die := homeDie pa
  let d := getDie s die
  let sec := pa / 64 % 4
  match findLine d (pa / 256) with
  | some l => setDie s die { putLine { fillSector s l sec with lru := d.lru + 1 } d with lru := d.lru + 1 }
  | none =>
    let slice := sliceOf va
    let set := setOf va
    let w := waysOf s die slice
    let new (way : Nat) : L2Line :=
      { phys := pa / 256, asid := asid, va := va / 256, slice := slice, set := set, way := way, valid := 0
        dirty := 0, bad := 0, data := [], lru := d.lru + 1 }
    match freeWay d slice set w with
    | some way => setDie s die { d with l2 := d.l2 ++ [fillSector s (new way) sec], lru := d.lru + 1 }
    | none =>
      match lruLine d slice set w with
      | none => s
      | some v =>
        let s := writeBackSectors v 0xF s
        let d := dropLine v.phys d
        setDie s die { d with l2 := d.l2 ++ [fillSector s (new v.way) sec], lru := d.lru + 1 }

/-- Whether the sector of a device address is valid in its home slice. -/
def sectorCached (s : State) (pa : Nat) : Bool :=
  match findLine (getDie s (homeDie pa)) (pa / 256) with
  | some l => bitAt l.valid (pa / 64 % 4)
  | none => false

/-- Write bytes inside one sector of device memory at its home slice; `bad` marks the sector
poisoned, and a write of the whole sector clears the mark (R258, R269, R360). Bytes past the sector, which no
caller has, are none of its own. -/
def homeWrite (asid va pa : Nat) (bytes : List Byte) (bad : Bool) (s : State) : State :=
  let bs := bytes.take (64 - pa % 64)
  let s := touchSector asid va pa s
  let sec := pa / 64 % 4
  let marks := bad || decide (bs.length = 64)
  match findLine (getDie s (homeDie pa)) (pa / 256) with
  | some l =>
    updDie (homeDie pa) (putLine { l with
      data := KMap.setList 0 l.data (pa % 256) bs
      bad := if marks then markLine bad sec l.bad else l.bad
      dirty := l.dirty ||| BitVec.ofNat 4 (2 ^ sec) }) s
  | none => dramWrite pa bs { s with memBad := if marks then setBadMark bad (pa / 64) s.memBad else s.memBad }

/-- Write bytes inside one sector, wherever the translation leads. -/
def physWrite (asid va : Nat) (p : Phys) (bs : List Byte) (bad : Bool) (s : State) : State :=
  if p.host then { s with hostMem := KMap.setList 0 s.hostMem p.pa bs } else homeWrite asid va p.pa bs bad s

/-- Write back the dirty sectors (of `mask`) of a physical line, which stays cached and clean. -/
def cleanLine (line : Nat) (mask : BitVec 4) (s : State) : State :=
  let die := homeDie (line * 256)
  match findLine (getDie s die) line with
  | none => s
  | some l => updDie die (putLine { l with dirty := l.dirty &&& ~~~mask }) (writeBackSectors l mask s)

/-- Write back and invalidate a physical line. -/
def evictLine (line : Nat) (s : State) : State :=
  updDie (homeDie (line * 256)) (dropLine line) (cleanLine line 0xF s)

/-- Drop the sector of a device address without write-back (R228, R230). -/
def discardSector (pa : Nat) (s : State) : State :=
  let die := homeDie pa
  match findLine (getDie s die) (pa / 256) with
  | none => s
  | some l =>
    let keep : BitVec 4 := ~~~(BitVec.ofNat 4 (2 ^ (pa / 64 % 4)))
    let l := { l with
      valid := l.valid &&& keep, dirty := l.dirty &&& keep, bad := l.bad &&& keep
      data := KMap.clearRange l.data (64 * (pa / 64 % 4)) (64 * (pa / 64 % 4) + 64) }
    updDie die (if l.valid = 0 then dropLine l.phys else putLine l) s

/-- Whether a sector is dirty at its home slice. -/
def sectorDirty (s : State) (pa : Nat) : Bool :=
  match findLine (getDie s (homeDie pa)) (pa / 256) with
  | some l => bitAt l.dirty (pa / 64 % 4)
  | none => false

/-! ## The page walk (R242 to R244) -/

/-- A leaf entry with the page it maps. -/
structure Leaf where
  pte : Word
  page : Nat
  size : Nat
  deriving DecidableEq, Repr

/-- What a walk ends with: a leaf, or a cause with the level it ended at. -/
inductive Walk where
  | leaf (l : Leaf)
  | fail (code level : Nat)
  deriving DecidableEq, Repr

/-- Why an access does not translate, or where it goes; whether the translation cache held it. -/
inductive Tr where
  | ok (p : Phys) (hit : Bool)
  | fault (code level : Nat)
  deriving DecidableEq, Repr

def pteAddr (e : Word) : Nat := bitsAt e 12 36 * 4096

/-- Table entry `i` of the table at a device address. -/
def readPte (s : State) (table i : Nat) : Word :=
  BitVec.ofNat 64 (ofLeBytes (physBytes s ⟨false, table + 8 * i⟩ 8))

/-- The table a non-leaf entry names (R244): the cause, or its address. -/
def nextTable (e : Word) (level align : Nat) : Except Nat Nat :=
  if !bitAt e 0 then .error 0x10
  else if bitsAt e 48 16 ≠ 0 ∨ bitsAt e 3 9 ≠ 0 ∨ (level < 2 ∧ bitAt e 1) then .error 0x13
  else if pteAddr e % align ≠ 0 ∨ !populated (pteAddr e) then .error 0x13
  else .ok (pteAddr e)

/-- A leaf entry for a page of `size` bytes (R243, R244). -/
def leafOf (e : Word) (level va size : Nat) : Walk :=
  let ilv := bitAt e 7
  if !bitAt e 0 then .fail 0x10 level
  else if bitsAt e 48 16 ≠ 0 ∨ bitsAt e 8 3 ≠ 0 ∨ bitAt e 4 ∨ (ilv ∧ bitAt e 11) then .fail 0x13 level
  else if pteAddr e % (if ilv then size / 8 else size) ≠ 0 then .fail 0x13 level
  else .leaf ⟨e, va / size * size, size⟩

/-- The walk of R242 from a root table. -/
def walk (s : State) (root va : Nat) : Walk :=
  match nextTable (readPte s root (va / 2 ^ 48 % 512)) 0 4096 with
  | .error c => .fail c 0
  | .ok t1 =>
    match nextTable (readPte s t1 (va / 2 ^ 39 % 512)) 1 4096 with
    | .error c => .fail c 1
    | .ok t2 =>
      let e := readPte s t2 (va / 2 ^ 30 % 512)
      if bitAt e 0 && bitAt e 1 then leafOf e 2 va (2 ^ 30)
      else
        let g3 := bitAt e 2
        match nextTable e 2 (if g3 then 4096 else 131072) with
        | .error c => .fail c 2
        | .ok t3 =>
          if g3 then leafOf (readPte s t3 (va / 2 ^ 21 % 512)) 3 va (2 ^ 21)
          else leafOf (readPte s t3 (va / 2 ^ 16 % 16384)) 3 va (2 ^ 16)

/-- Base of the mailbox windows (R250), and of the wake page (R377). -/
def mailboxBase : Nat := 0x01FFFFFF00000000
def wakePage : Nat := 0x01FFFFFFFFFFF000
def isWakePage (va : Nat) : Bool := va / 4096 == wakePage / 4096
def isMailbox (va : Nat) : Bool := decide (mailboxBase ≤ va) && decide (va < mailboxBase + 0x80000)

/-- Stack offset of a die's mailbox page (DESIGN CHOICE, log entry 12): the last whole 64 KiB page
of the stack. -/
def mailboxOffset : Nat := 976561 * 65536

/-- The leaf of a die's mailbox page, mapped in every address space (R250). -/
def mailboxLeaf (va : Nat) : Leaf :=
  let die := (va - mailboxBase) / 0x10000
  ⟨BitVec.ofNat 64 (die * 2 ^ 36 + mailboxOffset) ||| 0x69#64, va / 65536 * 65536, 65536⟩

/-- The leaf that maps an address in an address space (R241, R242). -/
def lookupLeaf (s : State) (asid va : Nat) : Walk :=
  if isMailbox va then .leaf (mailboxLeaf va)
  else if isWakePage va then .fail 0x10 3
  else walk s (getSpace s asid).root va

/-- The byte a leaf gives for an address (R234, R237). The stack offset of an interleaved page never reaches
into the die's bits: one of 2^36 or more names a place outside the populated addresses. -/
def leafPhys (l : Leaf) (va : Nat) : Phys :=
  let y := va % l.size
  if bitAt l.pte 11 then ⟨true, pteAddr l.pte + y⟩
  else if bitAt l.pte 7 then
    let off := pteAddr l.pte + y / 32768 * 4096 + y % 4096
    ⟨false, if off < 2 ^ 36 then Nat.xor (va / 4096 % 8) (va / 2 ^ 21 % 8) * 2 ^ 36 + off else 2 ^ 39 + off⟩
  else ⟨false, pteAddr l.pte + y⟩

/-- The checks a leaf makes of an access (R244). -/
def leafCheck (l : Leaf) (level va : Nat) (wr hit : Bool) : Tr :=
  if wr && !bitAt l.pte 3 then .fault 0x11 level
  else
    let p := leafPhys l va
    if !p.host && !populated p.pa then .fault 0x14 level else .ok p hit

/-- Level at which a page of a size has its leaf (R242). -/
def leafLevel (size : Nat) : Nat := if size = 2 ^ 30 then 2 else 3

def findTlb (s : State) (die asid va : Nat) : Option TlbEntry :=
  (getDie s die).tlb.find? fun t => t.asid == asid && t.page == va / t.size * t.size

/-- Translation, without its effect on the translation cache (R241, R244, R245). The mailbox pages take none of its entries
and always hit (R250; DESIGN CHOICE, log entry 104). -/
def translate (s : State) (die asid va : Nat) (wr : Bool) : Tr :=
  if 2 ^ 57 ≤ va then .fault 0x12 0
  else match findTlb s die asid va with
    | some t => leafCheck ⟨t.pte, t.page, t.size⟩ (leafLevel t.size) va wr true
    | none =>
      match lookupLeaf s asid va with
      | .fail c l => .fault c l
      | .leaf l => leafCheck l (leafLevel l.size) va wr (isMailbox va)

/-- The leaf of a page whose mapping is going, for the accesses that translated through it (R247). -/
def leavingLeaf (s : State) (asid va : Nat) : Option Leaf :=
  (getSpace s asid).allocs.findSome? fun a =>
    (a.leaving.find? fun p => decide (p.page ≤ va) && decide (va < p.page + p.size)).map fun p => ⟨p.pte, p.page, p.size⟩

/-- Where an access performs that has passed its translation: through the entry it translated by, though that may
have gone since (R247 step 3). -/
def heldTr (s : State) (die asid va : Nat) (wr : Bool) : Tr :=
  match translate s die asid va wr with
  | .ok p hit => .ok p hit
  | .fault c l => match leavingLeaf s asid va with
    | some e => .ok (leafPhys e va) true
    | none => .fault c l

/-- The translation cache of a die after a walk: 8,192 entries, locked ones never replaced; of the
others the oldest goes (R245; DESIGN CHOICE, log entry 13). -/
def insertTlb (tlb : List TlbEntry) (t : TlbEntry) : List TlbEntry :=
  if 8192 ≤ tlb.length then
    match tlb.find? fun x => x.locked == 0 with
    | some v => (tlb.erase v) ++ [t]
    | none => tlb
  else tlb ++ [t]

/-- The effect of a successful walk on the die's translation cache. -/
def noteWalk (die asid va : Nat) (s : State) : State :=
  if (findTlb s die asid va).isSome || isMailbox va then s
  else match lookupLeaf s asid va with
    | .leaf l => updDie die (fun d => { d with tlb := insertTlb d.tlb ⟨asid, l.page, l.size, l.pte, 0⟩ }) s
    | .fail _ _ => s

/-- Where a virtual range does not translate: address, cause and level of each page piece that does not. Ranges
are examined piece by piece (4 KiB, the least piece of R237). -/
def rangeFaults (s : State) (die asid : Nat) (wr : Bool) : Nat → Nat → Nat → List (Nat × Nat × Nat)
  | 0, _, _ => []
  | fuel + 1, va, n =>
    if n = 0 then []
    else
      let piece := min n (4096 - va % 4096)
      match translate s die asid va wr with
      | .fault c l => (va, c, l) :: rangeFaults s die asid wr fuel (va + piece) (n - piece)
      | .ok _ _ => rangeFaults s die asid wr fuel (va + piece) (n - piece)

/-- The fault of several that is raised: the lowest code (R366), and of those the first. -/
def lowestFault (l : List (Nat × Nat × Nat)) : Option (Nat × Nat × Nat) :=
  l.foldl (fun b f => match b with
    | none => some f
    | some g => if f.2.1 < g.2.1 then some f else b) none

/-- The fault of an access to a range; none where all of it translates. -/
def rangeFault (s : State) (die asid : Nat) (wr : Bool) (fuel va n : Nat) : Option (Nat × Nat × Nat) :=
  lowestFault (rangeFaults s die asid wr fuel va n)

/-- Pieces of a range that lie in one sector each. -/
def sectorPieces : Nat → Nat → Nat → List (Nat × Nat)
  | 0, _, _ => []
  | fuel + 1, va, n =>
    if n = 0 then []
    else
      let piece := min n (64 - va % 64)
      (va, piece) :: sectorPieces fuel (va + piece) (n - piece)

def piecesOf (va n : Nat) : List (Nat × Nat) := sectorPieces (n / 64 + 2) va n

/-- Bytes at a virtual range, as the home slices give them (R258), and whether any sector of it is
poisoned. Bytes that do not translate read as zero: every caller has checked the range. The slice and its
replacement order stay as they are (R213; DESIGN CHOICE, log entry 88). -/
def readVa (s : State) (die asid va n : Nat) : List Byte × Bool :=
  let ps := piecesOf va n
  (ps.flatMap fun p => match heldTr s die asid p.1 false with
    | .ok q _ => physBytes s q p.2
    | .fault _ _ => List.replicate p.2 0,
   ps.any fun p => match heldTr s die asid p.1 false with
    | .ok q _ => sectorBad s q
    | .fault _ _ => false)

/-- Write bytes to a virtual range at the home slices, sector by sector (R258, R269). -/
def writeVa (die asid va : Nat) (bs : List Byte) (bad : Bool) (s : State) : State :=
  (piecesOf va bs.length).foldl (fun s p =>
    match heldTr s die asid p.1 true with
    | .ok q _ => physWrite asid p.1 q ((bs.drop (p.1 - va)).take p.2) bad s
    | .fault _ _ => s) s

/-- Write one part of a sector, which has a number. `a` lists the sectors whose writes have drawn a free value, with the
first of them: a later part of the same sector draws it again. -/
def writePart {α : Type} (sector : α → Nat) (write : α → State → State) (a : State × List (Nat × Nat)) (p : α) :
    State × List (Nat × Nat) :=
  match a.2.find? fun m => m.1 == sector p with
  | some m =>
    let u := write p { a.1 with free := m.2 }
    ({ u with free := max a.1.free u.free }, a.2)
  | none =>
    let u := write p a.1
    (u, if u.free = a.1.free then a.2 else (sector p, a.1.free) :: a.2)

/-- Write parts of sectors, in order. The parts of one sector perform as one access (R269): one draw settles whether a
scoring read in flight sees them (R322). -/
def writeParts {α : Type} (sector : α → Nat) (write : α → State → State) (ps : List α) (s : State) : State :=
  (ps.foldl (writePart sector write) (s, [])).1

/-! ## The remote-data cache (R225 to R227) -/

def findRdc (s : State) (die asid va : Nat) : Option RdcLine :=
  (getDie s die).rdc.find? fun l => l.asid == asid && l.va == va / 256

def putRdc (l : RdcLine) (d : Die) : Die :=
  { d with rdc := d.rdc.map fun x => if x.asid = l.asid ∧ x.va = l.va then l else x }

/-- Fill a sector into a die's remote-data cache, replacing the least recently used line of its set
where the set is full; the copy takes the sector's poison mark (R360). -/
def fillRdc (die asid va : Nat) (pa : Nat) (bs : List Byte) (bad : Bool) (s : State) : State :=
  let d := getDie s die
  let sec := va / 64 % 4
  let fill (l : RdcLine) : RdcLine :=
    { l with
      valid := l.valid ||| BitVec.ofNat 4 (2 ^ sec)
      bad := markLine bad sec l.bad
      data := KMap.setList 0 l.data (64 * sec) bs, lru := d.lru + 1 }
  match findRdc s die asid va with
  | some l => setDie s die { putRdc (fill l) d with lru := d.lru + 1 }
  | none =>
    let set := va / 256 % 4096
    let new : RdcLine := fill ⟨asid, va / 256, pa / 256, set, 0, 0, [], 0⟩
    let inSet := d.rdc.filter fun l => l.set == set
    let rest := if inSet.length < 16 then d.rdc
      else match inSet.foldl (fun b l => match b with
          | none => some l
          | some (m : RdcLine) => if l.lru < m.lru then some l else b) none with
        | none => d.rdc
        | some v => d.rdc.filter fun l => !(l.asid == v.asid && l.va == v.va)
    setDie s die { d with rdc := rest ++ [new], lru := d.lru + 1 }

/-- A package-scope acquire drops every copy; in the 64 cycles this takes, the home slices serve the die's loads
and no copy is made (R227; DESIGN CHOICE, log entry 68). -/
def rdcDropAll (die : Nat) (s : State) : State :=
  updDie die (fun d => { d with rdc := [], rdcUntil := max d.rdcUntil (tempoNow s + 64) }) s

/-- Whether an acquire is invalidating the die's remote-data cache in this cycle. -/
def rdcShut (s : State) (die : Nat) : Bool := decide (tempoNow s < (getDie s die).rdcUntil)

/-- Drop the copies whose line satisfies a test. -/
def rdcDropIf (die : Nat) (p : RdcLine → Bool) (s : State) : State :=
  updDie die (fun d => { d with rdc := d.rdc.filter fun l => !p l }) s

/-- A scalar store updates this die's copy of the sector under the address it used (R226). -/
def rdcUpdate (die asid va : Nat) (bs : List Byte) (s : State) : State :=
  match findRdc s die asid va with
  | some l =>
    if bitAt l.valid (va / 64 % 4) then
      updDie die (putRdc { l with data := KMap.setList 0 l.data (va % 256) bs }) s
    else s
  | none => s

/-! ## Scalar access to memory -/

/-- What a scalar load reads and where from: value, unloaded latency (R231), poison. -/
structure Loaded where
  bytes : List Byte
  latency : Nat
  bad : Bool
  deriving DecidableEq, Repr

/-- Cycles a redirect adds in loose code: the line is cached under another tag than the access's (R246). -/
def redirectCycles (s : State) (asid va pa : Nat) : Nat :=
  match findLine (getDie s (homeDie pa)) (pa / 256) with
  | some l => if l.asid = asid ∧ l.va = va / 256 then 0 else 20
  | none => 0

/-- A scalar load by a core of `die` that its home slice serves: what it reads, with the latency of a hit and of a
miss (R231), and the sector's fill. -/
def homeLoad (asid va n : Nat) (p : Phys) (hit miss : Nat) (s : State) : Loaded × State :=
  let lat := (if sectorCached s p.pa then hit else miss) + redirectCycles s asid va p.pa
  let s := touchSector asid va p.pa s
  (⟨physBytes s p n, lat, sectorBad s p⟩, s)

/-- The copy a scalar load hits in its die's remote-data cache (R225). -/
def rdcHit (s : State) (die asid va : Nat) (p : Phys) : Option RdcLine :=
  if p.host || homeDie p.pa == die || rdcShut s die then none
  else (findRdc s die asid va).filter fun l => bitAt l.valid (va / 64 % 4)

/-- A scalar load by a core of `die`, inside one sector (R225, R231, R415). The host link's
completion takes `hostLatency`, which the caller draws. -/
def scalarLoad (die asid va n : Nat) (p : Phys) (hostLatency : Nat) (s : State) : Loaded × State :=
  if p.host then (⟨physBytes s p n, hostLatency, false⟩, s)
  else if homeDie p.pa = die then homeLoad asid va n p 40 140 s
  else match rdcHit s die asid va p with
    | some l =>
      (⟨KMap.getList 0 l.data (va % 256) n, 30, bitAt l.bad (va / 64 % 4)⟩,
        updDie die (fun d => { putRdc { l with lru := d.lru + 1 } d with lru := d.lru + 1 }) s)
    | none =>
      let (l, s) := homeLoad asid va n p 90 190 s
      let base : Phys := ⟨false, p.pa / 64 * 64⟩
      (l, if rdcShut s die then s else fillRdc die asid va p.pa (physBytes s base 64) (sectorBad s base) s)

/-- A scalar store performs, inside one sector (R226, R415). -/
def scalarStore (asid va : Nat) (p : Phys) (bs : List Byte) (s : State) : State := physWrite asid va p bs false s

/-! ## Accesses of the context in focus -/

/-- Level of the leaf that maps an address. -/
def pageLevel (s : State) (asid va : Nat) : Nat :=
  match findTlb s (curDie s) asid va with
  | some t => leafLevel t.size
  | none => match lookupLeaf s asid va with
    | .leaf l => leafLevel l.size
    | .fail _ l => l

/-- Whether an address lies in a LOCK page, of which the host is never granted a cached copy (R396). -/
def pageLocked (s : State) (asid va : Nat) : Bool :=
  match findTlb s (curDie s) asid va with
  | some t => bitAt t.pte 6
  | none => match lookupLeaf s asid va with
    | .leaf l => bitAt l.pte 6
    | .fail _ _ => false

/-- Whether an address lies in the context's own code object, which is read-only to it (R373). -/
def ownCode (c : Ctx) (va : Nat) : Bool := decide (c.codeBase ≤ va) && decide (va < c.codeBase + c.codeSize)

/-- Translation of an access by the context in focus. -/
def accessTr (s : State) (va : Nat) (wr : Bool) : Tr :=
  match translate s (curDie s) (curCtx s).asid va wr with
  | .ok p hit => if wr && ownCode (curCtx s) va then .fault 0x11 (pageLevel s (curCtx s).asid va) else .ok p hit
  | .fault c l => .fault c l

/-- Where the context in focus may not access a range: its own code object too is closed to writes (R373). -/
def accessFaults (s : State) (wr : Bool) (va n : Nat) : List (Nat × Nat × Nat) :=
  let asid := (curCtx s).asid
  let c := curCtx s
  let b := max va c.codeBase
  rangeFaults s (curDie s) asid wr (n / 4096 + 2) va n
    ++ (if wr && decide (b < va + n) && decide (b < c.codeBase + c.codeSize) then [(b, 0x11, pageLevel s asid b)] else [])

/-- The fault of an access to a range by the context in focus. -/
def accessFault (s : State) (wr : Bool) (va n : Nat) : Option (Nat × Nat × Nat) := lowestFault (accessFaults s wr va n)

/-! ## LS space (R217 to R220) -/

/-- Members of a context's scratch group, and its bytes of LS space (R217, R218). -/
def groupSize (c : Ctx) : Nat := c.gm1.toNat + 1
def lsSize (c : Ctx) : Nat := groupSize c * 32 * (16 - c.w.toNat) * 4096

/-- The core of a die on which member `m` of a task's group is resident. -/
def memberCore (s : State) (die task m : Nat) : Option Nat :=
  ((List.range 16).map fun c => 16 * die + c).find? fun k =>
    let c := getCore s k
    (c.resident || decide (c.ctx.w.toNat < 16)) && c.ctx.task == task && c.ctx.member.toNat == m

/-- The member that holds LS byte `x` of a group of `g`, and the byte's index within that member's
slices: slice j, way, set and byte (R219). -/
def lsPlace (g x : Nat) : Nat × Nat :=
  let l := x / 256
  let k := l / (32 * g)
  (l % g, l / g % 32 * 65536 + (15 - k / 16) * 4096 + k % 16 * 256 + x % 256)

/-- Index of LS byte `x` among its die's LS bytes. -/
def lsKey (s : State) (die : Nat) (c : Ctx) (x : Nat) : Nat :=
  let (m, i) := lsPlace (groupSize c) x
  match memberCore s die c.task m with
  | some k => k % 16 * 32 * 65536 + i
  | none => m * 32 * 65536 + i

/-- Poison marks of the LS sectors that bytes of a group lie in (R360). -/
def lsBadAt (s : State) (die : Nat) (c : Ctx) (x : Nat) : Bool := (getDie s die).lsBad.contains (lsKey s die c x / 64)

/-- A write to LS bytes inside one sector leaves its mark as this says: poisoned bytes mark it, a whole clean
sector clears it. -/
def lsMarkPiece (die : Nat) (c : Ctx) (bad : Bool) (p : Nat × Nat) (s : State) : State :=
  if bad || decide (p.2 = 64) then
    updDie die (fun d => { d with lsBad := setBadMark bad (lsKey s die c p.1 / 64) d.lsBad }) s
  else s

def lsRead (s : State) (die : Nat) (c : Ctx) (x n : Nat) : List Byte :=
  (List.range n).map fun i => KMap.get 0 (getDie s die).ls (lsKey s die c (x + i))

def lsWrite (die : Nat) (c : Ctx) (x : Nat) (bs : List Byte) (s : State) : State :=
  updDie die (fun d => { d with ls := (bs.zipIdx).foldl (fun m b => KMap.set 0 m (lsKey s die c (x + b.2)) b.1) d.ls }) s

/-! ## Core scratchpad (R13, R83, R208) -/

def spSize : Nat := 2097152

def spRead (c : Core) (off n : Nat) : List Byte := KMap.getList 0 c.sp off n

/-- Whether any sector of a scratchpad range is poisoned (R360). -/
def spBadIn (c : Core) (off n : Nat) : Bool := (piecesOf off n).any fun p => c.spBad.contains (p.1 / 64)

/-- Write scratchpad bytes; whole sectors lose their poison mark (R360). -/
def spWrite (off : Nat) (bs : List Byte) (c : Core) : Core :=
  { c with
    sp := KMap.setList 0 c.sp off bs
    spBad := (piecesOf off bs.length).foldl
      (fun l p => if p.2 = 64 then setBadMark false (p.1 / 64) l else l) c.spBad }

/-- Write listed scratchpad bytes, in order. -/
def spWriteBytes (l : List (Nat × Byte)) (c : Core) : Core :=
  { c with sp := l.foldl (fun m b => KMap.set 0 m b.1 b.2) c.sp }

end Sys2Proof.Machine
end

