-- ==== Sys2Proof/Machine/Ops.lean ====
section
/-! DEFINITION. The shared operations: taking an exception and returning from one (R350 to R357), the
task abort (R365), reports (R400), scalar accesses performing (R258 to R261), wakes (R377, R378), and
the destinations of copies (R199). -/

namespace Sys2Proof.Machine

/-! ## Reports to the host (R400) -/

/-- Write a report and raise MSI-X vector 0; a full ring loses the report and still raises. -/
def report (kind ring code launchId offset col spidx taskId : Nat) (s : State) : State :=
  let h := s.host
  let bytes := leBytes 2 kind ++ leBytes 2 ring ++ leBytes 4 code ++ leBytes 8 (launchId % 2 ^ 48)
    ++ leBytes 4 offset ++ leBytes 1 col ++ leBytes 1 0 ++ leBytes 2 spidx ++ leBytes 8 taskId
  if h.repWr - h.repRd = 256 then
    { s with host := { h with repLost := h.repLost + 1, raised := h.raised ++ [0] } }
  else
    { s with host := { h with
        reports := KMap.setList 0 h.reports (32 * (h.repWr.toNat % 256)) bytes
        repWr := h.repWr + 1, raised := h.raised ++ [0] } }

/-- Write a report as the error handler function does: a frozen complex keeps it until dispatch resumes (R365, R388). -/
def reportLater (r : Report) (s : State) : State :=
  if complexRuns s then report r.kind r.ring r.code r.launchId r.offset r.col r.spidx r.taskId s
  else { s with fw := { s.fw with held := s.fw.held ++ [r] } }

/-- Dispatch runs: the reports that were kept are written, in their order. -/
def deliverReports (s : State) : State :=
  if complexRuns s then
    s.fw.held.foldl (fun s r => reportLater r s) { s with fw := { s.fw with held := [] } }
  else s

/-! ## The launch shape (R27 to R30) -/

def levelKind (e : BitVec 32) : Nat := bitsAt e 0 2
def levelExtent (e : BitVec 32) : Nat := bitsAt e 8 16 + 1

/-- Product of the extents of the levels of a kind: 2 spatial-core, 3 spatial-die (R28). -/
def extentOf (kind : Nat) (tab : List (BitVec 32)) : Nat :=
  (tab.filter fun e => levelKind e == kind).foldl (fun n e => n * levelExtent e) 1

/-- Contexts of a task on one die, and in all (R29, R217). -/
def Task.group (t : Task) : Nat := extentOf 2 t.loopTab
def Task.dies (t : Task) : Nat := extentOf 3 t.loopTab
def Task.contexts (t : Task) : Nat := t.group * t.dies

/-- Whether the table has a spatial-die level. -/
def Task.hasDieLevel (t : Task) : Bool := t.loopTab.any fun e => levelKind e == 3

/-- The die of a context (R29, R333: spatial index = die index × G + member). -/
def Task.dieOfCtx (t : Task) (spidx : Nat) : Option Nat :=
  if t.hasDieLevel then some (spidx / t.group) else t.die

/-- The dies that run a context of a task. -/
def Task.runDies (t : Task) : List Nat :=
  if t.hasDieLevel then List.range t.dies else t.die.toList

/-! ## Destinations of copies -/

/-- Poison marks and arrival tags of the scratchpad sectors a copy writes (R208, R360). -/
def markSectors (off n : Nat) (bad : Bool) (tag : Option (BitVec 7)) (c : Core) : Core :=
  (piecesOf off n).foldl (fun c p =>
    { c with
      spBad := if bad then setBadMark true (p.1 / 64) c.spBad else c.spBad
      tags := match tag with
        | some t => KMap.set 0 c.tags (p.1 / 64) t
        | none => c.tags }) c

/-- Write one destination run of a copy of the context `c` of `die`. -/
def writeDest (die : Nat) (c : Ctx) (d : Dest) (bs : List Byte) (bad : Bool) (tag : Option (BitVec 7))
    (s : State) : State :=
  match d with
  | .sp core off => updCoreAt core (fun x => markSectors off bs.length bad tag (spWrite off bs x)) s
  | .ls off => (piecesOf off bs.length).foldl (fun s p => lsMarkPiece die c bad p s) (lsWrite die c off bs s)
  | .va a => writeVa die c.asid a bs bad s

/-- Offset or address of a destination. -/
def destBase : Dest → Nat
  | .sp _ off => off
  | .ls off => off
  | .va a => a

/-- The same place `n` bytes on. -/
def destShift (n : Nat) : Dest → Dest
  | .sp k off => .sp k (off + n)
  | .ls off => .ls (off + n)
  | .va a => .va (a + n)

/-- What a copy writes, cut at the sectors' bounds, each part with its poison mark. -/
def copyParts (cp : Copy) : List ((Dest × List Byte) × Bool) :=
  (cp.runs.zip cp.poison).flatMap fun r =>
    (piecesOf (destBase r.1.1) r.1.2.length).map fun p =>
      let k := p.1 - destBase r.1.1
      ((destShift k r.1.1, (r.1.2.drop k).take p.2), r.2)

/-- The destination sector that a part of a copy lies in. -/
def partSector (p : (Dest × List Byte) × Bool) : Nat := destBase p.1.1 / 64

/-- A copy writes its destination bytes and its arrival tags, of the parts that it still has (R199, R208, R269). -/
def writeCopy (die : Nat) (c : Ctx) (cp : Copy) (ps : List ((Dest × List Byte) × Bool)) (s : State) : State :=
  writeParts partSector (fun p => writeDest die c p.1.1 p.1.2 p.2 (if cp.tagged then some cp.tag else none)) ps s

/-- Which parts of a copy that is cut off are written: those of the sectors that take their new value, for each of which
one free value decides. A sector to which rows of a pull have yet to arrive keeps its old value. -/
def keptParts (cp : Copy) (free : Nat) : List ((Dest × List Byte) × Bool) :=
  let ps := copyParts cp
  let short := if cp.pull then (ps.filter Prod.snd).map partSector else []
  ps.filter fun p => Config.sectorIsNew (free + partSector p) && !short.contains (partSector p)

/-- A started copy that is cut off: each 64-byte sector it writes holds its old value or its new one,
whole, and a scratchpad sector that took the new value carries the tag (R207, R365). A sector's free value is drawn at
its number, and the counter passes them all. -/
def cutCopy (die : Nat) (c : Ctx) (cp : Copy) (s : State) : State :=
  writeCopy die c cp (keptParts cp s.free) { s with free := s.free + 2 ^ 57 }

/-! ## Wakes and the mailbox -/

/-- A wake word takes effect (R378). Peer wakes go to the transport as a queued frame, which the
caller supplies; a wake for no ring is dropped and counted. -/
def wakeLocal (ring : Nat) (s : State) : State :=
  let r := getRing s ring
  if !r.live then { s with fw := { s.fw with wakesDropped := s.fw.wakesDropped + 1 } }
  else if r.overrun then s
  else updRing ring (fun r => { r with woken := true }) s

/-- Whether a package number lies in this package's domain (R18, R378, R408), with scale-out accepted (R402). -/
def inDomain (s : State) (pkg : Nat) : Bool := bitAt s.feat0 1 && s.pkg != 0xFFFF#16 && decide (pkg < 0xFFFF)

def getConn (s : State) (pkg : Nat) : Conn := KMap.get Conn.new s.conns pkg
def updConn (pkg : Nat) (f : Conn → Conn) (s : State) : State :=
  { s with conns := KMap.set Conn.new s.conns pkg (f (getConn s pkg)) }

/-- The address of port `k` of package `p` in domain `d` (R407). -/
def macOf (d p k : Nat) : BitVec 48 := BitVec.ofNat 48 (0x0258 * 2 ^ 32 + d % 256 * 2 ^ 24 + p % 65536 * 2 ^ 8 + k)

/-- Bytes 0 to 27 of the transport header (R404). -/
def frameHeader (f : Frame) : List Byte :=
  leBytes 1 f.ver ++ leBytes 1 f.type ++ leBytes 2 f.domain ++ leBytes 2 f.srcPkg ++ leBytes 2 f.dstPkg ++ leBytes 1 f.port
    ++ leBytes 3 f.rsvA ++ leBytes 4 f.psn ++ leBytes 4 f.ackPsn ++ leBytes 4 f.nakPsn ++ leBytes 2 f.len ++ leBytes 2 f.rsvB

/-- The payload: a DATA frame's operation header and data (R405); none in the other types. -/
def framePayload (f : Frame) : List Byte :=
  if f.type = 1 then
    leBytes 1 f.op ++ leBytes 1 f.cls ++ leBytes 2 f.srcCore ++ leBytes 4 f.cmdId ++ leBytes 8 f.va ++ leBytes 4 f.rowPitch
      ++ leBytes 2 f.rowBytes ++ leBytes 2 f.nRows ++ leBytes 2 f.firstRow ++ leBytes 2 f.totalRows ++ leBytes 2 f.asid
      ++ leBytes 2 f.rsvOp ++ f.data
  else []

/-- CHK: CRC-32C over bytes 0 to 27 and the payload (R404). -/
def frameChk (f : Frame) : BitVec 32 := crcFinal (crcBytes crcInit (frameHeader f ++ framePayload f))

/-- The bytes of a frame after its Ethernet header (R404). -/
def frameOctets (f : Frame) : List Byte := frameHeader f ++ leBytes 4 f.chk.toNat ++ framePayload f

/-- A frame to a peer, without its operation (R404). -/
def frameTo (s : State) (pkg type : Nat) : Frame :=
  { ver := 1, type := type, domain := s.domain.toNat, srcPkg := s.pkg.toNat, dstPkg := pkg, port := 0, psn := 0
    ackPsn := (getConn s pkg).rxNext, nakPsn := 0, len := 0, chk := 0, rsvA := 0, rsvB := 0, rsvOp := 0
    dst := 0, src := 0, via := 0, op := 0, cls := 0, srcCore := 0
    cmdId := 0, va := 0, rowPitch := 0, rowBytes := 0, nRows := 0, firstRow := 0, totalRows := 0, asid := 0
    data := [] }

/-- A frame as a port sends it: with its port, ACKPSN and CHK, to the peer's port of the same number (R404, R406,
R407). -/
def framed (s : State) (pkg port : Nat) (f : Frame) : Frame :=
  let f := { f with
    port := port, via := port, ackPsn := (getConn s pkg).rxNext
    dst := macOf s.domain.toNat pkg port, src := macOf s.domain.toNat s.pkg.toNat port }
  { f with chk := frameChk f }

/-- Send a frame on a port; an ACK frame starts the count to the next (R406). -/
def emit (pkg port : Nat) (f : Frame) (s : State) : State :=
  updConn pkg (fun c => if f.type = 2 then { c with sinceAck := 0, lastAck := tempoNow s } else c)
    { s with sent := s.sent ++ [framed s pkg port f] }

/-- Send a DATA frame on a port, which the copy of it that is kept remembers. -/
def emitData (pkg port : Nat) (f : Frame) (s : State) : State :=
  updConn pkg (fun c => { c with
    turn := c.turn + 1
    unacked := c.unacked.map fun g => if g.psn = f.psn then { g with port := port } else g }) (emit pkg port f s)

/-- Send a DATA frame on the next port of the stripe, in turn; a connection whose stripe is empty keeps it
(R407). -/
def emitStriped (pkg : Nat) (f : Frame) (s : State) : State :=
  let c := getConn s pkg
  match c.stripe with
  | [] => s
  | p :: _ => emitData pkg (nth p c.stripe (c.turn % c.stripe.length)) f s

/-- Put a DATA frame on a connection: it takes the next PSN, and is sent while at most 4,096 frames are
unacknowledged (R406). -/
def sendData (pkg : Nat) (f : Frame) (s : State) : State :=
  let c := getConn s pkg
  let f := { f with type := 1, psn := c.txNext, len := 32 + f.data.length }
  let s := updConn pkg (fun c => { c with
    txNext := (c.txNext + 1) % 2 ^ 32
    lastAdvance := if c.unacked.isEmpty then tempoNow s else c.lastAdvance
    unacked := c.unacked ++ [f] }) s
  if c.unacked.length < 4096 then emitStriped pkg f s else s

/-- A wake word of this package's programs or host (R378). A peer wake that the connection would have to
keep is dropped and counted (R407). -/
def wake (w : Word) (s : State) : State :=
  let pkg := bitsAt w 16 16
  if pkg = 0xFFFF ∨ pkg = s.pkg.toNat then wakeLocal (bitsAt w 0 16) s
  else if inDomain s pkg && !(getConn s pkg).stripe.isEmpty then
    sendData pkg { frameTo s pkg 1 with op := 4, srcCore := s.cur, data := leBytes 8 w.toNat } s
  else { s with fw := { s.fw with wakesDropped := s.fw.wakesDropped + 1 } }

/-- A performed store that writes the first byte of SEQ of a mailbox window sends the request (R250; DESIGN CHOICE, log
entry 99). -/
def mailboxStore (va n : Nat) (s : State) : State :=
  if isMailbox va && decide (va % 0x10000 < 0x400) && decide (va % 64 ≤ 16) && decide (16 < va % 64 + n) then
    { s with mailbox := s.mailbox ++ [(va - mailboxBase) / 0x10000 * 16 + va % 0x10000 / 64 % 16] }
  else s

/-! ## Events of a cycle -/

/-- An event of this cycle waits for the cycle's end, where the highest is taken; everything else of the cycle
completes (R24, R358, R366). -/
def pushEvent (code col : Nat) (info pc : Word) (s : State) : State :=
  updCore (fun c => { c with events := c.events ++ [⟨code, col, info, pc⟩] }) s

/-! ## Scalar accesses: issue and performing (R258 to R261, R263) -/

/-- Whether an access of a kind writes. -/
def accWrites : AccKind → Bool
  | .load => false
  | .sdef _ => false
  | _ => true

/-- What a new access of a class waits for: the pending accesses of the same class and agent, and
those that a fence in force puts before it (R260, R263). -/
def waitsFor (s : State) (cls : BitVec 4) (wr shadow : Bool) : List Nat :=
  let c := curCore s
  let same := (c.pend.filter fun a => a.cls == cls && a.shadow == shadow).map Access.id
  let fenced := (c.fences.filter fun f => f.shadow == shadow && (if wr then f.writes else f.reads)).flatMap FenceRec.ids
  (same ++ fenced).filter (accessPending s)

/-- Whether nothing that an access waits for is still pending. -/
def unblocked (s : State) (a : Access) : Bool := a.waits.all fun i => !accessPending s i

/-- A word before ALIGN writes a register of the task after ALIGN has kept the registers: what an abort before the
release returns to takes the value too (R81, R358). -/
def keepWritten (reg : Nat) (v : Word) (c : Ctx) : Ctx :=
  if c.seg.phase = .loose then c
  else { c with seg := { c.seg with snap := { c.seg.snap with regs := c.seg.snap.regs.write reg v } } }

/-- Write the result of a load or an atomic, if the word is still the last producer of its register (R70), and let
the register be read `lat` cycles on. -/
def finishLoad (a : Access) (v : Word) (lat : Nat) (s : State) : State :=
  updCore (fun c =>
    let key := if a.shadow then 64 + a.reg else a.reg
    let t := (if a.shadow then tempoNow s else c.ctime.toNat) + lat
    if KMap.get 0 c.loading key = a.id ∧ a.reg ≠ 0 then
      { c with
        loading := KMap.set 0 c.loading key 0
        busy := KMap.set 0 c.busy key t
        ctx := if a.shadow then { c.ctx with shadow := c.ctx.shadow.write a.reg v }
          else keepWritten a.reg v (noteMain a.reg { c.ctx with main := c.ctx.main.write a.reg v }) }
    else c) s

/-- Stores that the context has observed through reads which an acquire at the given scope or wider has followed:
a release at that scope counts them with the context's own (R263). They are homed on other dies, whose sectors die
scope does not reach (R264). -/
def owedStores (c : Core) (shadow : Bool) (scope : Nat) : List Nat :=
  if scope = 1 then []
  else (c.observed.filter fun o => o.shadow == shadow && o.scope.any fun t => decide (scope ≤ t)).map Observed.id

/-- An acquire of an agent of the core in focus, for the classes of a mask: the stores its reads of those classes
have observed count in its later releases (R263), and at package and system scope the die's remote-data cache is
dropped (R227). -/
def acquireBy (shadow : Bool) (scope : Nat) (mask : BitVec 16) (s : State) : State :=
  let s := updCore (fun c => { c with
    observed := (c.observed.filter fun o => accessPending s o.id).map fun o =>
      if o.shadow = shadow ∧ bitAt mask o.cls.toNat then { o with scope := some (max scope (o.scope.getD 0)) } else o }) s
  if 2 ≤ scope then rdcDropAll (curDie s) s else s

/-- An acquire of the agent in focus. -/
def acquire (scope : Nat) (mask : BitVec 16) (s : State) : State := acquireBy (curCtx s).inShadow scope mask s

/-- A full fence at core scope is met: ALIGN (R261), and WAYS (R416). Every access of the task before it has performed,
and so has every store of another core that it counts, or that a fence before it holds later writes for (R263; DEDUCED,
log entry 86). -/
def coreFenced (s : State) : Bool :=
  let c := curCore s
  c.pend.isEmpty && !((c.fences.filter fun f => !f.shadow).any fun f => f.ids.any (accessPending s))
    && !((owedStores c false 0).any (accessPending s))

/-- Whether an access is an AMO or a CAS, which carries a release and an acquire at its scope (R85). -/
def isAtomic : AccKind → Bool
  | .amo _ => true
  | .cas => true
  | _ => false

/-- The acquire of a fence, or of an atomic, is complete: the releases issued after it wait for what it has made
count, and so do the accesses they hold. -/
def completeAcquire (f : FenceRec) (s : State) : State :=
  let s := acquireBy f.shadow f.scope f.mask s
  updCore (fun c =>
    let late (r : FenceRec) : Bool := r.rel && r.shadow == f.shadow && decide (f.id < r.id)
    let owed (r : FenceRec) : List Nat := owedStores c f.shadow r.scope
    { c with
      fences := c.fences.map fun r => if late r then { r with ids := r.ids ++ owed r } else r
      pend := c.pend.map fun a => { a with
        waits := a.waits ++ ((c.fences.filter fun r => late r && decide (r.id < a.id) && a.shadow == r.shadow
          && (if accWrites a.kind then r.writes else r.reads)).flatMap owed)
          ++ if isAtomic a.kind && a.shadow == f.shadow && decide (f.id < a.id) then
            owedStores c f.shadow a.scope.toNat else [] } }) s

/-- Remove an access from the pending list: the acquires that it was the last to hold are complete, and the fences
that hold nothing any more go. -/
def dropAccess (id : Nat) (s : State) : State :=
  let s := updCore (fun c => { c with pend := c.pend.filter fun a => a.id != id }) s
  let done := (curCore s).fences.filter fun f => !f.loads.isEmpty && !(f.loads.any (accessPending s))
  let s := done.foldl (fun s f => completeAcquire f s) s
  updCore (fun c => { c with
    fences := (c.fences.map fun f => { f with loads := f.loads.filter (accessPending s) }).filter fun f =>
      f.ids.any (accessPending s) }) s

/-- Stores that a load returns from its die's copy before they have performed (R226): those of other agents of the
die, and the context's own. -/
def earlyStores (va : Nat) (bs : List Byte) (s : State) : List Nat :=
  let returns (b : Access) : Bool :=
    let both := (List.range bs.length).filter fun i => decide (b.va ≤ va + i) && decide (va + i < b.va + b.size)
    both.any fun i => nth 0 bs i == nth 0 (leBytes b.size b.data.toNat) (va + i - b.va)
  ((List.range 16).map fun c => 16 * curDie s + c).flatMap fun k =>
    ((getCore s k).pend.filter fun b => b.kind == .store
      && (getCore s k).ctx.asid == (curCtx s).asid && returns b).map Access.id

/-- A load of a class that this die's remote-data cache serves has returned those stores. -/
def noteObserved (cls : BitVec 4) (shadow : Bool) (ids : List Nat) (s : State) : State :=
  if ids.isEmpty then s
  else updCore (fun c => { c with observed := c.observed ++ ids.map fun i => ⟨i, cls, shadow, none⟩ }) s

/-- A scalar load by the context in focus, inside one sector: what it reads, and the stores it observes early. -/
def loadHere (cls : BitVec 4) (shadow : Bool) (va n : Nat) (p : Phys) (hostLatency : Nat) (s : State) : Loaded × State :=
  let early := (rdcHit s (curDie s) (curCtx s).asid va p).isSome
  let (l, s) := scalarLoad (curDie s) (curCtx s).asid va n p hostLatency s
  (l, noteObserved cls shadow (if early then earlyStores va l.bytes s else []) s)

/-- Signed value of the low `n` bytes of a number. -/
def signedLow (n v : Nat) : Int := (BitVec.ofNat (8 * n) v).toInt

/-- The word an AMO or CAS puts in the place of the old one, of which the low `size` bytes are stored (R52, R84). -/
def atomicNew (a : Access) (old : Nat) : Nat :=
  let v := a.data.toNat
  match a.kind with
  | .amo 0 => old + v
  | .amo 1 => (BitVec.ofNat 64 old &&& a.data).toNat
  | .amo 2 => (BitVec.ofNat 64 old ||| a.data).toNat
  | .amo 3 => (BitVec.ofNat 64 old ^^^ a.data).toNat
  | .amo 4 => if signedLow a.size v < signedLow a.size old then v else old
  | .amo 5 => if signedLow a.size old < signedLow a.size v then v else old
  | .amo _ => v
  | _ => if old = a.exp.toNat % 2 ^ (8 * a.size) then v else old

/-- Unloaded latency of an atomic (R85), without the host link's completion. -/
def atomicLatency (local_ : Bool) (scope : Nat) : Nat := (if local_ then 60 else 150) + if 2 ≤ scope then 64 else 0

/-- An AMO or CAS performs at its place: one indivisible read and write (R84). Its result takes its latency; the
system scope takes a completion of the host link, and a redirect adds its cycles (R85, R246). A poisoned word is a
read by the control core (R360). -/
def performAtomic (a : Access) (p : Phys) (s : State) : State :=
  if sectorBad s p then pushEvent (if a.shadow then 0x46 else 0x44) 0 0 (pcOf s) s
  else
    let asid := (curCtx s).asid
    let (h, s) := if a.scope == 3 && !p.host then drawOracle s else (0, s)
    let r := if p.host then 0 else redirectCycles s asid a.va p.pa
    let old := ofLeBytes (physBytes s p a.size)
    let lat := h + r + atomicLatency (!p.host && homeDie p.pa == curDie s) a.scope.toNat
    finishLoad a (BitVec.ofNat 64 old) lat (physWrite asid a.va p (leBytes a.size (atomicNew a old)) false s)

/-- An access performs (R258): the value of a load is fixed, a store takes its place at the home
slice. A load of a segment lands 200 cycles after its issue, 140 after it performs (R82, R259). A
poisoned word is cause 0x44 (R360), and 0x46 in the shadow context (R355). -/
def accessEffect (a : Access) (s : State) : State :=
  let die := curDie s
  let asid := (curCtx s).asid
  match a.kind with
  | .load =>
    let finish (l : Loaded) (s : State) : State :=
      let v := BitVec.ofNat 64 (ofLeBytes l.bytes)
      let s := if l.bad then pushEvent (if a.shadow then 0x46 else 0x44) 0 0 (pcOf s) s else s
      if a.seg then
        updCore (fun c => { c with flights := c.flights ++ [⟨a.due + 140, 0, a.due - 60, a.id, .load a.reg a.id v⟩] }) s
      else finishLoad a v l.latency s
    if isWakePage a.va then finish ⟨List.replicate a.size 0, 40, false⟩ s
    else match heldTr s die asid a.va false with
      | .ok p _ =>
        let (l, s) := loadHere a.cls a.shadow a.va a.size p 0 s
        finish l s
      | .fault _ _ => finish ⟨List.replicate a.size 0, 0, false⟩ s
  | _ =>
    if isWakePage a.va then
      if a.va % 8 = 0 ∧ (a.size = 4 ∨ a.size = 8) then wake (BitVec.ofNat 64 (a.data.toNat % 2 ^ (8 * a.size))) s else s
    else match heldTr s die asid a.va true with
      | .ok p _ =>
        if isAtomic a.kind then performAtomic a p s
        else mailboxStore a.va a.size (scalarStore asid a.va p (leBytes a.size a.data.toNat) s)
      | .fault _ _ => s

/-- An access performs, and then is pending no more: what its read has observed counts for the acquires that it was the
last to hold (R263). -/
def performAccess (a : Access) (s : State) : State := dropAccess a.id (accessEffect a s)

/-- Perform an access at once where nothing holds it, else leave it pending. -/
def issueAccess (a : Access) (s : State) : State :=
  if a.due ≤ clk s ∧ unblocked s a ∧ !a.seg then performAccess a s
  else updCore (fun c => { c with pend := c.pend ++ [a] }) s

/-- Perform the pending access of a number, of the core in focus, after everything of that core it waits for (R260,
R263). Another core's store performs in its own time (R24). -/
def performChain : Nat → Nat → State → State
  | 0, _, s => s
  | fuel + 1, id, s =>
    match (curCore s).pend.find? fun a => a.id == id with
    | none => s
    | some a => performAccess a (a.waits.foldl (fun s i => performChain fuel i s) s)

/-- Perform the accesses of some numbers, each after what it waits for. -/
def performIds (ids : List Nat) (s : State) : State :=
  ids.foldl (fun s i => performChain (curCore s).pend.length i s) s

/-- Whether an access of the core in focus waits for one of another core: what must perform before a word then waits,
and the word with it (R263, R24). -/
def waitsAbroad (s : State) : Bool :=
  (curCore s).pend.any fun a => a.waits.any fun i => i % nCores != s.cur && accessPending s i

/-- Perform, oldest first, every pending access that satisfies a test (used where a word waits for
earlier accesses before it performs itself). -/
def performAll (p : Access → Bool) (s : State) : State := performIds (((curCore s).pend.filter p).map Access.id) s

/-- Everything that must perform before an access of a class performs (R260, R263). -/
def performEarlier (cls : BitVec 4) (wr : Bool) (s : State) : State :=
  performIds (waitsFor s cls wr (curCtx s).inShadow) s

/-! ## Releasing what a task holds -/

/-- Nothing of the context is left on the core; its ways stay as they stand (R223). -/
def clearCore (c : Core) : Core :=
  { c with
    resident := false, queue := [], flights := [], pend := [], fences := [], observed := [], busy := [], loading := []
    events := [], later := [], hold := .none, retry := [], watches := [], barOwed := [], play := Play.off, preempt := false, yielding := false
    drain := [], ports := [], lastIssue := [], mulUntil := [], atomUntil := [], scoreUntil := 0
    recalUntil := 0, ready := c.ctime.toNat, shReady := 0
    ctx := { c.ctx with inShadow := false, wait := .none, seg := Seg.loose } }

/-- The first of the 32 slices above a core (R212, R219). -/
def firstSlice (k : Nat) : Nat := k % 16 * 32

/-- The LS bytes of the slices above a core are lost, with their poison marks. -/
def clearShare (k : Nat) (s : State) : State :=
  let lo := firstSlice k * 65536
  let hi := (firstSlice k + 32) * 65536
  updDie (dieOf k) (fun d => { d with
    ls := KMap.clearRange d.ls lo hi
    lsBad := d.lsBad.filter fun x => !(decide (lo / 64 ≤ x) && decide (x < hi / 64)) }) s

/-- The lines in the ways from `w` on of the slices above a core go: every dirty sector to DRAM, then the line
(R221, R223, R224). -/
def emptyWays (k w : Nat) (s : State) : State :=
  ((getDie s (dieOf k)).l2.filter fun l => decide (firstSlice k ≤ l.slice) && decide (l.slice < firstSlice k + 32)
    && decide (w ≤ l.way)).foldl (fun s l => evictLine l.phys s) s

/-- The 32 slices above a core return to 16 empty cache ways; LS contents are lost (R223). -/
def returnSlices (k : Nat) (s : State) : State :=
  if (getCore s k).ctx.w = 16 then s
  else
    updCoreAt k (fun c => { c with ctx := { c.ctx with w := 16 } }) (clearShare k (emptyWays k 0 s))

/-- Release the translations a task holds locked (R245). -/
def unlockTask (t : Nat) (s : State) : State :=
  let tk := getTask s t
  let free (s : State) (p : Nat × Nat) : State := updDie p.1 (fun x => { x with
    tlb := x.tlb.map fun e => if e.asid = tk.asid ∧ e.page = p.2 then { e with locked := e.locked - 1 } else e }) s
  updTask t (fun x => { x with locks := [] }) (tk.locks.foldl free s)

/-- TREF of the firmware's calibration in force (R306, R309). -/
def trefNow (a : Aperture) : BitVec 16 :=
  match a.lent with
  | some l => l.2.2
  | none => a.tref

/-- An aperture no context holds: its window table, banks and calibration as at launch, and nothing busy or settling
(R295); the return of the firmware's calibration to force counts in EPOCH (R310). -/
def freeAperture (a : Aperture) : Aperture :=
  { a with
    wins := [], amp := [], phase := [], owner := none, shotUntil := 0, maskUntil := 0, settle := [], used := []
    lastShot := (0, 0), lastMask := (0, 0)
    epoch := if a.cal.isSome || a.lent.isSome then a.epoch + 1 else a.epoch
    cal := none, lent := none }

/-- Free the apertures of a task, or of one of its contexts (R295). -/
def freeApertures (t : Nat) (spidx : Option Nat) (s : State) : State :=
  let mine (a : Aperture) : Bool := match a.owner with
    | some (t', i) => t' == t && (spidx.isNone || spidx == some i)
    | none => false
  (List.range nDies).foldl (fun s d => updDie d (fun x => { x with
    ap0 := if mine x.ap0 then freeAperture x.ap0 else x.ap0
    ap1 := if mine x.ap1 then freeAperture x.ap1 else x.ap1 }) s) s

/-! ## Task abort (R365) -/

/-- What one core's context has sent comes to its end: copies that started are cut off, and scalar stores that have
issued perform. -/
def cutCore (k : Nat) (s : State) : State :=
  let c := getCore s k
  let s := c.flights.foldl (fun s f => match f.kind with
    | .copy cp => cutCopy (dieOf k) c.ctx cp s
    | _ => s) s
  onCore k (fun s => c.pend.foldl (fun s a => if accWrites a.kind then performAccess a s else s) s) s

/-- Stop one core's context: a recording tape becomes unusable with reason 0x25, and the slices return. A machine check
of this cycle takes the core out of service all the same (R366). -/
def haltCore (k : Nat) (s : State) : State :=
  let c := getCore s k
  let c := { c with inService := c.inService && !(c.events.any fun e => e.code == 0x45) }
  let c := if c.ctx.rec_ then
      { c with tape := { c.tape with state := 4 }, ctx := { c.ctx with rec_ := false, reason := 0x25 } } else c
  let s := setCore s k (clearCore c)
  returnSlices k s

/-- The task aborts: its contexts stop wherever they are, what it holds is released, and the host is
told the cause, offset, column and spatial index (R365). What it has sent ends on every core before any slice returns,
so that nothing of it is left in LS (R223). -/
def taskAbort (t code offset col spidx : Nat) (s : State) : State :=
  let tk := getTask s t
  let s := forCores (fun k s => if (getCore s k).resident && (getCore s k).ctx.task == t then cutCore k s else s) s
  let s := forCores (fun k s => if (getCore s k).resident && (getCore s k).ctx.task == t then haltCore k s
    else if (getCore s k).ctx.task == t && !(getCore s k).resident then returnSlices k s else s) s
  let s := freeApertures t none (unlockTask t s)
  let s := { s with arrivals := s.arrivals.filter fun m => m.task != t, notes := s.notes.filter fun m => m.task != t }
  let s := updTask t (fun x => { x with
    life := .aborted, saved := [], bars := []
    places := (List.range x.contexts).foldl (fun p i => KMap.set .unplaced p i .ended) x.places }) s
  reportLater ⟨1, tk.ring, code, tk.launchId, offset, col, spidx, t⟩ s

/-! ## Entering a handler (R249, R352 to R355) -/

/-- The address of a core's mailbox window (R250). -/
def mailboxOf (k : Nat) : Nat := mailboxBase + 0x10000 * dieOf k + 0x40 * (k % 16)

/-- TRAPCAUSE (R352). -/
def trapCauseWord (offset col how code : Nat) : Word :=
  BitVec.ofNat 64 (offset % 2 ^ 32 * 2 ^ 32 + col % 8 * 2 ^ 16 + how % 16 * 2 ^ 8 + code % 256)

/-- The shadow context starts: its own registers zero but g1, which holds the mailbox window, and the
pc at the code object's handler (R249, R355). TRAPCAUSE, TRAPPC and TRAPINFO hold the event. -/
def enterHandler (how code col offset : Nat) (info pc : Word) (s : State) : State :=
  updCore (fun c =>
    { c with
      shReady := tempoNow s + 1
      busy := c.busy.filter fun e => decide (e.1 < 64)
      loading := c.loading.filter fun e => decide (e.1 < 64)
      ctx := { c.ctx with
        trapCause := trapCauseWord offset col how code
        trapPc := BitVec.ofNat 64 (pc.toNat % 2 ^ 57), trapInfo := info
        inShadow := true
        shadow := { Regs.zero with
          g := KMap.set 0 [] 1 (BitVec.ofNat 64 (mailboxOf s.cur))
          pc := BitVec.ofNat 64 (c.ctx.codeBase + c.ctx.handler) } } }) s

/-! ## How each cause is handled (R350, R351) -/

/-- The letters of R350; `none` where the table has a dash. -/
inductive Handling where
  | P | H | A | G | D | W | E | F | L | X | none
  deriving DecidableEq, Repr

/-- The three columns of R351: loose code, solo segment, gang segment. -/
def handlingOf (code : Nat) : Handling × Handling × Handling :=
  if code ≤ 0x06 then (.P, .A, .X)
  else if code = 0x07 then (.none, .A, .X)
  else if code = 0x08 then (.P, .none, .none)
  else if code ≤ 0x0D then (.none, .A, .X)
  else if code = 0x0E then (.P, .none, .none)
  else if code = 0x0F then (.P, .A, .X)
  else if code ≤ 0x14 then (.P, .H, .G)
  else if code = 0x20 then (.P, .A, .X)
  else if code = 0x21 ∨ code = 0x22 ∨ code = 0x23 ∨ code = 0x24 then (.P, .none, .none)
  else if code = 0x28 then (.X, .none, .none)
  else if code = 0x29 then (.none, .none, .G)
  else if 0x25 ≤ code ∧ code ≤ 0x2F then (.none, .A, .X)
  else if 0x30 ≤ code ∧ code ≤ 0x32 then (.none, .L, .none)
  else if code = 0x33 then (.X, .X, .none)
  else if code = 0x40 ∨ code = 0x41 ∨ code = 0x42 then (.none, .W, .E)
  else if code = 0x43 then (.none, .X, .X)
  else if code = 0x44 ∨ code = 0x45 ∨ code = 0x46 then (.X, .X, .X)
  else if code = 0x47 then (.none, .F, .E)
  else if 0x50 ≤ code ∧ code ≤ 0x55 then (.none, .A, .X)
  else if code = 0xFF then (.P, .D, .D)
  else (.none, .none, .none)

/-- The letter for the place the context in focus stands in. A dash takes the letter of the other
place (DEDUCED, log entry 14). -/
def handlingHere (s : State) (code : Nat) : Handling :=
  let (l, so, g) := handlingOf code
  let c := curCtx s
  if c.seg.phase = .loose then (if l = .none then (if so = .none then g else so) else l)
  else if segGang s then (if g = .none then (if so = .none then l else so) else g)
  else (if so = .none then (if l = .none then g else l) else so)

/-! ## Aborting the task in focus (R365, R366) -/

/-- Class of an event: 1 is highest. A walk that will succeed is no event of R366 and stands last. (DEDUCED, log entry 30.) -/
def eventClass (code : Nat) : Nat :=
  if code = 0x45 then 1
  else if (0x40 ≤ code ∧ code ≤ 0x44) ∨ code = 0x46 ∨ code = 0x47 ∨ (0x30 ≤ code ∧ code ≤ 0x33) then 2
  else if code ≤ 0x1F ∨ code = 0xFF then 3
  else if (0x20 ≤ code ∧ code ≤ 0x2F) ∨ (0x50 ≤ code ∧ code ≤ 0x55) then 4
  else 8

/-- Whether one event is taken before another: by class, then column, then code. -/
def eventBefore (a b : Event) : Bool :=
  let ca := eventClass a.code
  let cb := eventClass b.code
  decide (ca < cb) || (ca == cb && (decide (a.col < b.col) || (a.col == b.col && decide (a.code < b.code))))

def highest (l : List Event) : Option Event :=
  l.foldl (fun b e => match b with
    | none => some e
    | some g => if eventBefore e g then some e else b) none

/-- Offset of an event of this cycle (R352). -/
def eventOffset (s : State) : Nat :=
  let p := (curCtx s).seg.phase
  if p = .running ∨ p = .closing then segOffset s else 0

/-- Abort the task of the context in focus. Of this cause and what else aborts the task in this cycle, the highest is the
one taken (R366). -/
def abortHere (code offset col : Nat) (s : State) : State :=
  let own : Event := { Event.none with code := code, col := col }
  let others := (curCore s).events.filter fun e => handlingHere s e.code == .X
  match highest others with
  | some e =>
    if eventBefore e own then taskAbort (curCtx s).task e.code (eventOffset s) e.col (curCtx s).spidx s
    else taskAbort (curCtx s).task code offset col (curCtx s).spidx s
  | none => taskAbort (curCtx s).task code offset col (curCtx s).spidx s

/-- A precise trap, or the abort it becomes without a handler (R350, R355). -/
def preciseTrap (code : Nat) (info pc : Word) (s : State) : State :=
  if (curCtx s).handler = 0 then abortHere 0x46 0 0 s else enterHandler 0 code 0 0 info pc s

/-- A word that faults: it performs nothing and takes its cycle. -/
def pushWordEvent (code col : Nat) (info pc : Word) (s : State) : State :=
  updCore (fun c => { c with ready := max c.ready (c.ctime.toNat + 1) }) (pushEvent code col info pc s)

/-- The one entry of every exception that a control-core word raises (R350, R355): in the shadow
context the task aborts with 0x46; in loose code the trap is precise and the word performs nothing;
inside a segment the event is taken at the end of the cycle. -/
def raise (code : Nat) (info : Word) (s : State) : Out :=
  .next (
    if (curCtx s).inShadow then abortHere 0x46 0 0 s
    else if (curCtx s).seg.phase = .loose then
      match handlingHere s code with
      | .X => abortHere code 0 0 s
      | _ => preciseTrap code info (pcOf s) s
    else pushWordEvent code 0 info (pcOf s) s)

/-- TRAPINFO of a translation fault (R249). -/
def transInfo (level col va : Nat) (wr : Bool) : Word :=
  BitVec.ofNat 64 (level % 4 * 2 ^ 61 + (if wr then 2 ^ 60 else 0) + col % 8 * 2 ^ 57 + va % 2 ^ 57)

/-- A loose-only word raises 0x07 inside a segment (R71). -/
def looseOnly (s : State) (k : Out) : Out := if inSegment s then raise 0x07 0 s else k

/-- A word that the shadow context may not execute (R355). -/
def mainOnly (s : State) (k : Out) : Out := if (curCtx s).inShadow then .next (abortHere 0x46 0 0 s) else k

/-! ## Translation of a control-core word's access (R81, R248, R355) -/

/-- Length of a walk (R245: open, 150 cycles at the least, and longer under load): the oracle chooses.
(DESIGN CHOICE, log entry 33.) -/
def walkLength (s : State) : Nat × State :=
  let (n, s) := drawOracle s
  (150 + n, s)

/-- The walks of a range's pages that the die's translation cache does not hold, one after another: the cycles they
take, and the entries they leave (R245). Ranges are examined by 4 KiB, the least piece of R237. -/
def walkRange (die asid : Nat) : Nat → Nat → Nat → State → Nat × State
  | 0, _, _, s => (0, s)
  | fuel + 1, va, n, s =>
    if n = 0 then (0, s)
    else
      let piece := min n (4096 - va % 4096)
      match translate s die asid va false with
      | .ok _ false =>
        let (w, s) := walkLength (noteWalk die asid va s)
        let (t, s) := walkRange die asid fuel (va + piece) (n - piece) s
        (w + t, s)
      | _ => walkRange die asid fuel (va + piece) (n - piece) s

/-- The walks of a range by the context in focus. -/
def walkHere (va n : Nat) (s : State) : Nat × State :=
  walkRange (curDie s) (curCtx s).asid (n / 4096 + 2) va n s

/-- Cycles for which the host's copy of a sector holds a solo segment over CXL, until it is invalidated (R396): what
the host holds is open, so the oracle chooses; none without CXL, where an access meets host and LOCK pages alone
(`exempt`), or in a gang segment. (DESIGN CHOICE, log entry 34.) -/
def backInvalidate (exempt : Bool) (s : State) : Nat × State :=
  if bitAt s.feat0 0 && !exempt && !segGang s then drawOracle s else (0, s)

/-- Whether an access is not homed in this package's DRAM (R82): host memory and the wake page. -/
def notHomed (s : State) (va : Nat) : Bool :=
  isWakePage va || (match translate s (curDie s) (curCtx s).asid va false with
    | .ok p _ => p.host
    | .fault _ _ => false)

/-! ## Return from a handler (R357) -/

/-- ERET's return, by HOW. HOW 1 ends the hold with the next tempo cycle, in which the accesses that
faulted are performed again (R24); HOW 3 publishes T′ and releases every member again (R35; DEDUCED, log entry 65).
HOW 0 continues at TRAPPC, whatever stands there: R46 checks the targets of branches, calls and returns alone
(DESIGN CHOICE, log entry 70). -/
def returnFromHandler (s : State) : State :=
  let c := curCtx s
  let how := bitsAt c.trapCause 8 4
  match how with
  | 1 => updCore (fun x => { x with hold := .walk (tempoNow s + 1), ctx := { x.ctx with inShadow := false } }) s
  | 3 =>
    let t' := tempoNow s + 4096
    let gid := bitsAt c.seg.hdr 144 12
    let s := updCtx (fun x => { x with inShadow := false }) s
    forCores (fun k s =>
      let x := getCore s k
      let g := x.ctx.seg
      if x.resident && x.ctx.task == c.task && g.reReleased && bitsAt g.hdr 144 12 == gid then
        if g.phase = .waiting then
          setCore s k { x with ctx := { x.ctx with seg := { g with gangT := t', phase := .pre, lastFwd := x.ctime.toNat } } }
        else if g.phase = .aborting then setCore s k { x with ctx := { x.ctx with seg := { g with gangT := t' } } }
        else s
      else s) s
  | _ =>
    updCore (fun x => { x with
      ready := max x.ready (x.ctime.toNat + 1)
      ctx := { x.ctx with inShadow := false, main := { x.ctx.main with pc := x.ctx.trapPc } } }) s

end Sys2Proof.Machine
end

