-- ==== Sys2Proof/Machine/Completion.lean ====
section
/-! DEFINITION. Completion words and notifications (R374, R381, R385, R386). -/

namespace Sys2Proof.Machine

/-- Address of completion-table word `idx` of a ring. -/
def completionVa (r : Ring) (idx : Nat) : Nat := r.ctab + 8 * idx

/-- Page size of an allocation by its flags (R236). -/
def allocPageSize (flags : Word) : Nat :=
  match bitsAt flags 9 2 with
  | 0 => 65536
  | 1 => 2097152
  | _ => 1073741824

/-- The place of an address whose page has been evicted, in its host page (R236). -/
def evictedPhys (s : State) (asid va : Nat) : Option Phys :=
  (getSpace s asid).allocs.findSome? fun a =>
    (a.evicted.find? fun e => decide (e.1 ≤ va) && decide (va < e.1 + allocPageSize a.flags)).map fun e => ⟨true, e.2 + (va - e.1)⟩

/-- Where the firmware finds an address: its translation, or the host page of an evicted page. -/
def firmwarePhys (s : State) (die asid va : Nat) : Option Phys :=
  match heldTr s die asid va false with
  | .ok p _ => some p
  | .fault _ _ => evictedPhys s asid va

/-- A 64-bit word as the firmware reads it, at its home slice or through the host link; none where no page holds
it. -/
def wordAt (s : State) (die asid va : Nat) : Option Word :=
  (firmwarePhys s die asid va).map fun p => BitVec.ofNat 64 (ofLeBytes (physBytes s p 8))

/-- Store a 64-bit word of the firmware. The firmware's own accesses need no write permission. (DEDUCED, log
entry 87.) -/
def putWord (die asid va : Nat) (w : Word) (s : State) : State :=
  match firmwarePhys s die asid va with
  | some p => physWrite asid va p (leBytes 8 w.toNat) false s
  | none => s

/-- The scheduler is to test every waiting launch (of an address space, or of all; R381). -/
def testLaunches (p : Task → Bool) (s : State) : State :=
  { s with tasks := s.tasks.map fun e => if e.2.life = .queued ∧ p e.2 then (e.1, { e.2 with test := true }) else e }

/-- Add one to a word of a ring's completion table; 0xFFFF names none. Waiting launches are tested after it
(R381, R386). -/
def bumpWord (r : Ring) (idx : Nat) (s : State) : State :=
  if idx = 0xFFFF then s
  else
    let va := completionVa r idx
    match wordAt s r.owner r.asid va with
    | some w => testLaunches (fun _ => true) (putWord r.owner r.asid va (w + 1) s)
    | none => s

/-- Whether that add performs: the launch names a word, and a page holds it (R379, R392). -/
def bumpPerforms (r : Ring) (idx : Nat) (s : State) : Bool :=
  idx != 0xFFFF && (wordAt s r.owner r.asid (completionVa r idx)).isSome

/-- The launch takes the notifications that every context has raised (R385). -/
def takeNotes (t : Nat) : Nat → State → State
  | 0, s => s
  | fuel + 1, s =>
    let x := getTask s t
    if (List.range x.contexts).all fun i => decide (x.taken < KMap.get 0 x.raised i) then
      takeNotes t fuel (bumpWord x.desc x.notidx (updTask t (fun x => { x with taken := x.taken + 1 }) s))
    else s

/-- A notification can be delivered: the writes before it have performed, and dispatch runs (R385, R388). -/
def noteDue (s : State) (m : Note) : Bool := complexRuns s && !(m.waits.any (accessPending s))

/-- The scheduler takes the notifications of a context. -/
def deliverNote (m : Note) (s : State) : State :=
  takeNotes m.task m.count (updTask m.task (fun x => { x with
    raised := KMap.set 0 x.raised m.spidx (KMap.get 0 x.raised m.spidx + m.count) }) s)

/-- Deliver every notification that is due, in the order they were raised. -/
def deliverNotes (s : State) : State :=
  s.notes.foldl (fun s m => if noteDue s m then deliverNote m { s with notes := s.notes.erase m } else s) s

/-- Raise `n` notifications of the context in focus, as SEGE completes: a release at system scope, after every write it
has issued, and those of other cores that it counts (R263, R385). -/
def notify (n : Nat) (s : State) : State :=
  if n = 0 then s
  else
    let c := curCore s
    let waits := (c.pend.filter fun a => accWrites a.kind && !a.shadow).map Access.id ++ owedStores c false 3
    deliverNotes { s with notes := s.notes ++ [⟨c.ctx.task, c.ctx.spidx, n, waits.filter (accessPending s)⟩] }

end Sys2Proof.Machine
end

