-- ==== Sys2Proof/Machine/Formats.lean ====
section
/-! DEFINITION. Number formats, rounding and block quantisation (chapter 05, R99 to R111, R429).
Values are exact rationals; the one rounding is `roundTo`. -/

namespace Sys2Proof

/-- A real value as a format can carry it. `fin` holds a non-zero value. -/
inductive Val where
  | nan
  | inf (neg : Bool)
  | zero (neg : Bool)
  | fin (q : Rat)
  deriving DecidableEq, Repr

/-- An element format (R99, R104). -/
inductive Fmt where
  | narrow (ext uns : Bool) (p k : Nat)
  | f32
  | f16
  | bf16
  | e8
  | i8
  | u8
  | i32
  deriving DecidableEq, Repr

/-- The format a code names; none for a reserved code (R99, R104). -/
def Fmt.ofCode (c : Nat) : Option Fmt :=
  let kc := c % 8
  if kc ≤ 3 then
    let k := nth 0 [3, 4, 6, 8] kc
    let p := c / 8 % 8 + 1
    let uns := c / 64 % 2 = 1
    if (if uns then p ≤ k else p + 1 ≤ k) then some (.narrow (c / 128 % 2 = 1) uns p k) else none
  else if kc = 4 then
    match c / 8 with
    | 0 => some .f32
    | 1 => some .f16
    | 2 => some .bf16
    | 3 => some .e8
    | 4 => some .i8
    | 5 => some .u8
    | 6 => some .i32
    | _ => none
  else none

/-- Element width κ in bits (R113). -/
def Fmt.width : Fmt → Nat
  | .narrow _ _ _ k => k
  | .f32 => 32
  | .f16 => 16
  | .bf16 => 16
  | .e8 => 8
  | .i8 => 8
  | .u8 => 8
  | .i32 => 32

def Fmt.isNarrow : Fmt → Bool
  | .narrow _ _ _ _ => true
  | _ => false

/-- 2 to an integer power. -/
def pow2 (e : Int) : Rat := if 0 ≤ e then ((2 ^ e.toNat : Nat) : Rat) else 1 / ((2 ^ (-e).toNat : Nat) : Rat)

/-- `floor (log2 q)` of a positive rational. -/
def floorLog2 (q : Rat) : Int :=
  let e : Int := (Nat.log2 q.num.toNat : Int) - (Nat.log2 q.den : Int)
  if q < pow2 e then e - 1 else if pow2 (e + 1) ≤ q then e + 1 else e

def absQ (q : Rat) : Rat := if q < 0 then -q else q

/-- A value from its sign and magnitude. -/
def Val.ofSM (neg : Bool) (mag : Rat) : Val :=
  if mag = 0 then .zero neg else .fin (if neg then -mag else mag)

def Val.ofRat (q : Rat) : Val := if q = 0 then .zero false else .fin q

def Val.ofInt (i : Int) : Val := Val.ofRat (i : Rat)

def Val.neg : Val → Val
  | .nan => .nan
  | .inf n => .inf (!n)
  | .zero n => .zero (!n)
  | .fin q => .fin (-q)

def Val.isNeg : Val → Bool
  | .nan => false
  | .inf n => n
  | .zero n => n
  | .fin q => decide (q < 0)

def Val.isZero : Val → Bool
  | .zero _ => true
  | _ => false

def Val.isNan : Val → Bool
  | .nan => true
  | _ => false

/-- The value as a rational; zero for what is not finite. -/
def Val.toRat : Val → Rat
  | .fin q => q
  | _ => 0

/-- Exact sum; an exact zero of unlike addends takes the sign `zneg` (IEEE 754, R133). -/
def Val.add (zneg : Bool) : Val → Val → Val
  | .nan, _ => .nan
  | _, .nan => .nan
  | .inf a, .inf b => if a = b then .inf a else .nan
  | .inf a, _ => .inf a
  | _, .inf b => .inf b
  | .zero a, .zero b => if a = b then .zero a else .zero zneg
  | .zero _, .fin q => .fin q
  | .fin q, .zero _ => .fin q
  | .fin a, .fin b => if a + b = 0 then .zero zneg else .fin (a + b)

/-- Exact product. -/
def Val.mul : Val → Val → Val
  | .nan, _ => .nan
  | _, .nan => .nan
  | .inf a, .inf b => .inf (a != b)
  | .inf a, .fin q => .inf (a != decide (q < 0))
  | .fin q, .inf a => .inf (a != decide (q < 0))
  | .inf _, .zero _ => .nan
  | .zero _, .inf _ => .nan
  | .zero a, .zero b => .zero (a != b)
  | .zero a, .fin q => .zero (a != decide (q < 0))
  | .fin q, .zero a => .zero (a != decide (q < 0))
  | .fin a, .fin b => .fin (a * b)

/-- IEEE 754 quotient, exact where it is finite (R429). -/
def Val.div : Val → Val → Val
  | .nan, _ => .nan
  | _, .nan => .nan
  | .inf _, .inf _ => .nan
  | .inf a, .zero b => .inf (a != b)
  | .inf a, .fin q => .inf (a != decide (q < 0))
  | .zero a, .inf b => .zero (a != b)
  | .zero _, .zero _ => .nan
  | .zero a, .fin q => .zero (a != decide (q < 0))
  | .fin q, .inf b => .zero (decide (q < 0) != b)
  | .fin q, .zero b => .inf (decide (q < 0) != b)
  | .fin a, .fin b => .fin (a / b)

/-- Bias, precision and index of the largest finite value of a floating format: a grid value's
magnitude is numbered as its code's magnitude part is (R107). -/
structure Grid where
  /-- Precision P. -/
  p : Nat
  /-- Exponent of the least normal value. -/
  emin : Int
  /-- Number of the largest finite value. -/
  top : Nat
  deriving DecidableEq, Repr

/-- The grid of a floating format; integer formats have none. -/
def Fmt.grid : Fmt → Option Grid
  | .narrow ext uns p k =>
    let w := if uns then k - p + 1 else k - p
    let bias : Int := (2 ^ (w - 1) : Nat)
    -- R101: NaN and, in extended formats, infinity take the top codes of an unsigned format; a
    -- signed format's NaN is the sign bit alone, so only infinity takes a top magnitude.
    let top := if uns then 2 ^ k - 1 - (if ext then 2 else 1) else 2 ^ (k - 1) - 1 - (if ext then 1 else 0)
    some ⟨p, 1 - bias, top⟩
  | .f32 => some ⟨24, -126, 0x7F7FFFFF⟩
  | .f16 => some ⟨11, -14, 0x7BFF⟩
  | .bf16 => some ⟨8, -126, 0x7F7F⟩
  | _ => none

/-- The magnitude that number `n` of a grid stands for. -/
def Grid.value (g : Grid) (n : Nat) : Rat :=
  let h := 2 ^ (g.p - 1)
  if n < h then (n : Rat) * pow2 (g.emin - (g.p - 1 : Nat))
  else ((n % h + h : Nat) : Rat) * pow2 (g.emin + ((n / h : Nat) : Int) - 1 - (g.p - 1 : Nat))

def Grid.maxFinite (g : Grid) : Rat := g.value g.top

/-- `emax f` (R101). -/
def Grid.emax (g : Grid) : Int := floorLog2 g.maxFinite

/-- Number of the greatest grid magnitude at or below `x > 0`, and the rest as a fraction of the
grid spacing there (R108). -/
def Grid.below (g : Grid) (x : Rat) : Nat × Rat :=
  let e := max (floorLog2 x) g.emin
  let r := x / pow2 (e - (g.p - 1 : Nat))
  let k := r.floor.toNat
  ((e - g.emin).toNat * 2 ^ (g.p - 1) + k, r - (k : Rat))

/-- Rounding modes (R106). -/
inductive Mode where
  | rne | rtz | rdn | rup
  | sr (draw : Nat)
  deriving DecidableEq, Repr

/-- Whether a magnitude with number `k` below it and fraction `fr` rounds up (R107, R108). -/
def roundsUp (m : Mode) (neg : Bool) (k : Nat) (fr : Rat) : Bool :=
  match m with
  | .rne => decide (1 / 2 < fr) || (decide (fr = 1 / 2) && decide (k % 2 = 1))
  | .rtz => false
  | .rdn => neg && decide (0 < fr)
  | .rup => !neg && decide (0 < fr)
  | .sr d => decide (1 ≤ fr + (d : Rat) / 4096)

/-- The number of a magnitude rounded to a grid. -/
def Grid.round (g : Grid) (m : Mode) (neg : Bool) (x : Rat) : Nat :=
  let (k, fr) := g.below x
  if roundsUp m neg k fr then k + 1 else k

/-- A non-negative rational rounded to an integer. -/
def roundIntMag (m : Mode) (neg : Bool) (x : Rat) : Nat :=
  let k := x.floor.toNat
  if roundsUp m neg k (x - (k : Rat)) then k + 1 else k

/-- A rational rounded to an integer. -/
def roundInt (m : Mode) (x : Rat) : Int :=
  if x < 0 then -(roundIntMag m true (-x) : Int) else (roundIntMag m false x : Int)

/-- The sign bit of a floating format, and its NaN and infinity codes. -/
def Fmt.signBit : Fmt → Nat
  | .narrow _ uns _ k => if uns then 0 else 2 ^ (k - 1)
  | .f32 => 0x80000000
  | .f16 => 0x8000
  | .bf16 => 0x8000
  | _ => 0

/-- NaN(f): R101 for narrow formats, the canonical NaNs of R104 otherwise. -/
def Fmt.nanCode : Fmt → Nat
  | .narrow _ uns _ k => if uns then 2 ^ k - 1 else 2 ^ (k - 1)
  | .f32 => 0x7FC00000
  | .f16 => 0x7E00
  | .bf16 => 0x7FC0
  | .e8 => 0xFF
  | _ => 0

/-- Whether the format has an infinity of the given sign. -/
def Fmt.hasInf (f : Fmt) (neg : Bool) : Bool :=
  match f with
  | .narrow ext uns _ _ => ext && !(uns && neg)
  | .f32 => true
  | .f16 => true
  | .bf16 => true
  | _ => false

def Fmt.infCode (f : Fmt) (neg : Bool) : Nat :=
  match f.grid with
  | some g => g.top + 1 + (if neg then f.signBit else 0)
  | none => 0

/-- The range of an integer format (R107). -/
def Fmt.intRange : Fmt → Option (Int × Int × Nat)
  | .i8 => some (-128, 127, 8)
  | .u8 => some (0, 255, 8)
  | .i32 => some (-2147483648, 2147483647, 32)
  | _ => none

/-- round(x, f, m) of R107 under policy OVF (`ovf = true`) or SAT: the element's code, and whether
it was counted as out of range. -/
def roundTo (f : Fmt) (m : Mode) (ovf : Bool) (x : Val) : Nat × Bool :=
  match f.grid, f.intRange with
  | some g, _ =>
    let sgn (neg : Bool) : Nat := if neg then f.signBit else 0
    let out (neg : Bool) : Nat × Bool :=
      let uns := decide (f.signBit = 0)
      if ovf then (if f.hasInf neg then f.infCode neg else f.nanCode, true)
      else (if uns && neg then 0 else g.top + sgn neg, true)
    match x with
    | .nan => (f.nanCode, false)
    | .inf neg => if f.hasInf neg then (f.infCode neg, false) else out neg
    | .zero neg => (if f.isNarrow then 0 else sgn neg, false)
    | .fin q =>
      let neg := decide (q < 0)
      let n := g.round m neg (absQ q)
      if n = 0 then (if f.isNarrow then 0 else sgn neg, false)
      else if neg && decide (f.signBit = 0) then out neg
      else if g.top < n then out neg
      else (n + sgn neg, false)
  | none, some (lo, hi, w) =>
    let code (i : Int) : Nat := (i % (2 ^ w : Nat)).toNat
    match x with
    | .nan => (0, true)
    | .inf neg => (code (if neg then lo else hi), true)
    | .zero _ => (0, false)
    | .fin q =>
      let y := roundInt m q
      if lo ≤ y ∧ y ≤ hi then (code y, false)
      else if ovf then (code y, true)
      else (code (if y < lo then lo else hi), true)
  | none, none => (0, false)

/-- Rounding of arithmetic into a wide floating format with the IEEE 754 result on overflow
(R105, R132, R155). -/
def roundIeee (f : Fmt) (m : Mode) (x : Val) : Nat :=
  match f.grid, x with
  | some g, .fin q =>
    let neg := decide (q < 0)
    let n := g.round m neg (absQ q)
    let sgn := if neg then f.signBit else 0
    if g.top < n then
      match m with
      | .rtz => g.top + sgn
      | .rdn => if neg then f.infCode true else g.top
      | .rup => if neg then g.top + sgn else f.infCode false
      | _ => f.infCode neg
    else n + sgn
  | _, _ => (roundTo f m true x).1

/-- Binary32 by round to nearest even (R132's RNE). -/
def rneF32 (x : Val) : Elem := BitVec.ofNat 32 (roundIeee .f32 .rne x)

def roundF32 (m : Mode) (x : Val) : Elem := BitVec.ofNat 32 (roundIeee .f32 m x)

/-- The value of an element's code (R100, R101, R104, R105). -/
def Fmt.decode (f : Fmt) (c : Nat) : Val :=
  match f with
  | .e8 => if c = 255 then .nan else .fin (pow2 ((c : Int) - 127))
  | .u8 => Val.ofInt c
  | .i8 => Val.ofInt (BitVec.ofNat 8 c).toInt
  | .i32 => Val.ofInt (BitVec.ofNat 32 c).toInt
  | .narrow ext uns _ k =>
    match f.grid with
    | none => .nan
    | some g =>
      let neg := !uns && decide (2 ^ (k - 1) ≤ c)
      let n := if neg then c - 2 ^ (k - 1) else c
      if neg && decide (n = 0) then .nan
      else if uns && decide (c = 2 ^ k - 1) then .nan
      else if ext && decide (n = g.top + 1) then .inf neg
      else Val.ofSM neg (g.value n)
  | _ =>
    match f.grid with
    | none => .nan
    | some g =>
      let neg := decide (f.signBit ≤ c)
      let n := if neg then c - f.signBit else c
      if g.top + 1 < n then .nan
      else if n = g.top + 1 then .inf neg
      else Val.ofSM neg (g.value n)

/-- Binary32 bits as a value. -/
def f32 (b : Elem) : Val := Fmt.decode .f32 b.toNat

/-- Exact widening of a binary16 or bfloat16 code to binary32 bits, a NaN's payload kept (R104). -/
def widenF32 (f : Fmt) (c : Nat) : Nat :=
  match f with
  | .bf16 => c * 65536
  | .f16 =>
    let t := c % 1024
    let e := c / 1024 % 32
    if e = 31 && decide (t ≠ 0) then c / 32768 * 0x80000000 + 0x7F800000 + t * 8192
    else (roundTo .f32 .rne true (Fmt.decode .f16 c)).1
  | .f32 => c
  | _ => (roundTo .f32 .rne true (f.decode c)).1

/-- The draw generator of R109. -/
def mix64 (z : BitVec 64) : BitVec 64 :=
  let z := (z ^^^ (z >>> 30)) * 0xBF58476D1CE4E5B9#64
  let z := (z ^^^ (z >>> 27)) * 0x94D049BB133111EB#64
  z ^^^ (z >>> 31)

/-- The 12-bit draw D for tensor coordinates (i, j), each taken modulo 2^32 (R109). -/
def drawAt (seed : BitVec 64) (tensor : Nat) (i j : Nat) : Nat :=
  let z := seed + 0x9E3779B97F4A7C15#64 * BitVec.ofNat 64 (tensor + 1)
  let z := mix64 (z ^^^ BitVec.ofNat 64 (i % 2 ^ 32))
  let z := mix64 (z ^^^ BitVec.ofNat 64 (j % 2 ^ 32))
  bitsAt z 52 12

/-- The mode a rounding code names, with the draw SR uses (R106). Codes 5 to 7 are reserved: which
rounding they give is open. -/
def Mode.ofCode (c : Nat) (draw : Nat) : Mode :=
  let m := if c ≤ 4 then c else Config.reservedRounding c % 4
  match m with
  | 1 => .rtz
  | 2 => .rdn
  | 3 => .rup
  | 4 => .sr draw
  | _ => .rne

/-- What a block quantises to: scale code, element codes, elements counted, and whether it counted
as empty (R110). -/
structure Block where
  scale : Nat
  codes : List Nat
  sat : Nat
  empty : Bool
  deriving DecidableEq, Repr

/-- The larger of two magnitudes, infinity included; none stands for infinity. -/
def maxMag (m : Option Rat) (v : Val) : Option Rat :=
  match v with
  | .inf _ => none
  | .fin q => m.map fun a => if a < absQ q then absQ q else a
  | _ => m

/-- Block quantisation (R110). `vs` are the block's values with their modes; the division by SCALE2
has been made by the caller (R429). -/
def quantBlock (f : Fmt) (ovf : Bool) (vs : List (Val × Mode)) : Block :=
  let empty (sat : Nat) : Block := ⟨0, vs.map fun _ => 0, sat, true⟩
  if vs.all fun v => v.1.isNan then ⟨0xFF, vs.map fun _ => f.nanCode, 0, false⟩
  else
    let m := vs.foldl (fun a v => maxMag a v.1) (some 0)
    match f.grid with
    | none => empty 0
    | some g =>
      let e : Int := match m with
        | some q => floorLog2 q - g.emax + 127
        | none => 255
      if m = some 0 then empty 0
      else
        let s := min (max e 1) 254
        let rs := vs.map fun v => roundTo f v.2 ovf (v.1.mul (.fin (pow2 (127 - s))))
        let sat := (rs.filter fun r => r.2).length
        if rs.all fun r => r.1 = 0 then empty sat
        else ⟨s.toNat, rs.map fun r => r.1, sat, false⟩

/-- Pack element codes of `k` bits from bit 0 into a number (R102). -/
def packCodes (k : Nat) : List Nat → Nat
  | [] => 0
  | c :: r => c % 2 ^ k + 2 ^ k * packCodes k r

/-- The `n` codes of `k` bits packed from bit 0 (R102). -/
def unpackCodes (k : Nat) : Nat → Nat → List Nat
  | 0, _ => []
  | n + 1, v => v % 2 ^ k :: unpackCodes k n (v / 2 ^ k)

end Sys2Proof
end

