-- ==== Sys2Proof/WellFormed.lean ====
section
/-! DEFINITION. Which terms of `Instr` the package can meet: a word's fields inside the limits of
chapter 03, and an issue or an event that fits its row. -/

namespace Sys2Proof

/-- Why a term of `Instr` stands for no step of the package. -/
inductive IllFormed where
  /-- A special-register number that R55 does not list. -/
  | specialNumber
  /-- A patch slot above 15 or a guard index above 7 (R53). -/
  | tapeLimit
  /-- A fence with an empty class mask (R262). -/
  | fenceMask
  /-- A hint-region word outside majors 0x70 to 0x7E, or NOP's own word (R56). -/
  | hintWord
  /-- A record line without the record mark (R45). -/
  | recordMark
  /-- An issue whose record names another column or operation (R62, R63). -/
  | operation
  /-- An issue outside its record's trip counts (R36, R57). -/
  | position
  /-- An event whose flight is of another kind. -/
  | flightKind
  /-- A slot, core, die, bank, ply, port, aperture, function or ring that the package does not have. -/
  | range
  deriving DecidableEq, Repr

/-- Whether an issue is one of a record of the given columns and operation. -/
def issueCheck (cols : List Nat) (op : Nat) (x : Issue) : Option IllFormed :=
  if bitsAt x.raw 25 7 ≠ 0x7F then some .recordMark
  else if !(cols.contains x.col) || colOf x.raw ≠ x.col || opOf x.raw ≠ op then some .operation
  else if x.i0 < tripOf x.raw 0 ∧ x.i1 < tripOf x.raw 1 ∧ x.i2 < tripOf x.raw 2 ∧ x.i3 < tripOf x.raw 3 then none
  else some .position

/-- Whether a flight is of the kind a landing event needs. -/
def flightCheck (ok : FKind → Bool) (f : Flight) : Option IllFormed := if ok f.kind then none else some .flightKind

/-- A number of a part that the package has `n` of. -/
def below (n k : Nat) : Option IllFormed := if k < n then none else some .range

/-- A copy landing, or the landing of CPY.W. -/
def FKind.isCopy : FKind → Bool
  | .copy _ => true
  | .clean _ _ => true
  | _ => false

/-- A scalar load landing. -/
def FKind.isLoad : FKind → Bool
  | .load _ _ _ => true
  | _ => false

/-- An MX landing stage. -/
def FKind.isMx : FKind → Bool
  | .mx _ _ => true
  | _ => false

/-- A drain-queue push. -/
def FKind.isPush : FKind → Bool
  | .push _ _ => true
  | _ => false

/-- A vector landing. -/
def FKind.isVec : FKind → Bool
  | .vec _ _ _ => true
  | _ => false

/-- An optical output. -/
def FKind.isOptical : FKind → Bool
  | .optical _ _ => true
  | _ => false

/-- A scoring result list. -/
def FKind.isNbList : FKind → Bool
  | .nbList _ _ _ => true
  | _ => false

/-- The lanes of a VAMO in LS or device memory. -/
def FKind.isVamo : FKind → Bool
  | .vamo _ _ _ => true
  | _ => false

/-- The first check that a term fails; none where the package can meet it. -/
def illFormed : Instr → Option IllFormed
  | .add _ _ _ => none
  | .sub _ _ _ => none
  | .mul _ _ _ => none
  | .mulh _ _ _ => none
  | .mulhu _ _ _ => none
  | .div _ _ _ => none
  | .divu _ _ _ => none
  | .rem _ _ _ => none
  | .remu _ _ _ => none
  | .and _ _ _ => none
  | .or _ _ _ => none
  | .xor _ _ _ => none
  | .shl _ _ _ => none
  | .shr _ _ _ => none
  | .sar _ _ _ => none
  | .min _ _ _ => none
  | .max _ _ _ => none
  | .minu _ _ _ => none
  | .maxu _ _ _ => none
  | .slt _ _ _ => none
  | .sltu _ _ _ => none
  | .seq _ _ _ => none
  | .clz _ _ => none
  | .popc _ _ => none
  | .mov _ _ => none
  | .lea _ _ _ _ => none
  | .madd _ _ _ => none
  | .sel _ _ _ => none
  | .fsh _ _ _ _ => none
  | .bfx _ _ _ _ => none
  | .bfi _ _ _ _ => none
  | .addi _ _ _ => none
  | .andi _ _ _ => none
  | .ori _ _ _ => none
  | .xori _ _ _ => none
  | .shli _ _ _ => none
  | .shri _ _ _ => none
  | .sari _ _ _ => none
  | .liw _ _ => none
  | .lih _ _ => none
  | .ldB _ _ _ _ => none
  | .ldH _ _ _ _ => none
  | .ldW _ _ _ _ => none
  | .ldD _ _ _ _ => none
  | .stB _ _ _ _ => none
  | .stH _ _ _ _ => none
  | .stW _ _ _ _ => none
  | .stD _ _ _ _ => none
  | .ldsB _ _ _ _ => none
  | .ldsH _ _ _ _ => none
  | .ldsW _ _ _ _ => none
  | .ldsD _ _ _ _ => none
  | .stsB _ _ _ _ => none
  | .stsH _ _ _ _ => none
  | .stsW _ _ _ _ => none
  | .stsD _ _ _ _ => none
  | .amoAdd _ _ _ _ _ _ => none
  | .amoAnd _ _ _ _ _ _ => none
  | .amoOr _ _ _ _ _ _ => none
  | .amoXor _ _ _ _ _ _ => none
  | .amoMin _ _ _ _ _ _ => none
  | .amoMax _ _ _ _ _ _ => none
  | .amoSwap _ _ _ _ _ _ => none
  | .cas _ _ _ _ _ _ => none
  | .ptb _ _ => none
  | .bEq _ _ _ _ => none
  | .bNe _ _ _ _ => none
  | .bLt _ _ _ _ => none
  | .bGe _ _ _ _ => none
  | .bLtu _ _ _ _ => none
  | .bGeu _ _ _ _ => none
  | .jmp _ _ => none
  | .bPnz _ _ => none
  | .bPz _ _ => none
  | .call _ _ => none
  | .ret _ => none
  | .loopw _ _ => none
  | .segb _ => none
  | .align _ => none
  | .waitc _ _ _ _ => none
  | .gets _ n => if specialListed n.toNat then none else some .specialNumber
  | .sets _ n => if specialListed n.toNat then none else some .specialNumber
  | .trap _ => none
  | .fenceFull _ mask => if mask = 0 then some .fenceMask else none
  | .fenceAcq _ mask => if mask = 0 then some .fenceMask else none
  | .fenceRel _ mask => if mask = 0 then some .fenceMask else none
  | .tapePlay _ => none
  | .tapePatch k _ => if k.toNat < 16 then none else some .tapeLimit
  | .tapeGuard i _ => if i.toNat < 8 then none else some .tapeLimit
  | .barInit _ _ => none
  | .barArrive _ => none
  | .barWait _ _ => none
  | .barTest _ _ => none
  | .ways _ => none
  | .flush _ _ _ => none
  | .inval _ _ _ => none
  | .discard _ _ _ => none
  | .pref _ _ _ => none
  | .sdef _ _ => none
  | .sset _ _ _ => none
  | .sget _ _ _ => none
  | .sadv _ _ => none
  | .hintRegion w =>
    if 0x70 ≤ bitsAt w 25 7 ∧ bitsAt w 25 7 ≤ 0x7E ∧ w ≠ 0xE0000000#32 then none else some .hintWord
  | .recordForward raw => if bitsAt raw 25 7 = 0x7F then none else some .recordMark
  | .mark x => issueCheck [0] 0x000 x
  | .mma x => issueCheck [1] 0x000 x
  | .mpass x => issueCheck [1] 0x001 x
  | .mzero x => issueCheck [1] 0x002 x
  | .mload x => issueCheck [1] 0x003 x
  | .mdrain x => issueCheck [1] 0x004 x
  | .mstore x => issueCheck [1] 0x005 x
  | .mrep x => issueCheck [1] 0x006 x
  | .mchain x => issueCheck [1] 0x010 x
  | .vadd x => issueCheck [2, 3] 0x000 x
  | .vsub x => issueCheck [2, 3] 0x001 x
  | .vmul x => issueCheck [2, 3] 0x002 x
  | .vfma x => issueCheck [2, 3] 0x003 x
  | .vmin x => issueCheck [2, 3] 0x004 x
  | .vmax x => issueCheck [2, 3] 0x005 x
  | .vabs x => issueCheck [2, 3] 0x006 x
  | .vneg x => issueCheck [2, 3] 0x007 x
  | .vmulh x => issueCheck [2, 3] 0x008 x
  | .vand x => issueCheck [2, 3] 0x010 x
  | .vor x => issueCheck [2, 3] 0x011 x
  | .vxor x => issueCheck [2, 3] 0x012 x
  | .vnot x => issueCheck [2, 3] 0x013 x
  | .vshl x => issueCheck [2, 3] 0x014 x
  | .vshr x => issueCheck [2, 3] 0x015 x
  | .vsar x => issueCheck [2, 3] 0x016 x
  | .vbfx x => issueCheck [2, 3] 0x017 x
  | .vfsh x => issueCheck [2, 3] 0x018 x
  | .vpopc x => issueCheck [2, 3] 0x019 x
  | .vclz x => issueCheck [2, 3] 0x01A x
  | .vcmp x => issueCheck [2, 3] 0x020 x
  | .vsel x => issueCheck [2, 3] 0x021 x
  | .vmov x => issueCheck [2, 3] 0x022 x
  | .vspl x => issueCheck [2, 3] 0x023 x
  | .viota x => issueCheck [2, 3] 0x024 x
  | .vcvt x => issueCheck [2, 3] 0x030 x
  | .vqnt x => issueCheck [2, 3] 0x031 x
  | .vdq x => issueCheck [2, 3] 0x032 x
  | .vrotr x => issueCheck [2, 3] 0x040 x
  | .vrotc x => issueCheck [2, 3] 0x041 x
  | .vbcr x => issueCheck [2, 3] 0x042 x
  | .vbcc x => issueCheck [2, 3] 0x043 x
  | .vredr x => issueCheck [2, 3] 0x044 x
  | .vredc x => issueCheck [2, 3] 0x045 x
  | .vscanr x => issueCheck [2, 3] 0x046 x
  | .vscanc x => issueCheck [2, 3] 0x047 x
  | .vtrb x => issueCheck [2, 3] 0x048 x
  | .vld x => issueCheck [2, 3] 0x050 x
  | .vst x => issueCheck [2, 3] 0x051 x
  | .vpop x => issueCheck [2, 3] 0x055 x
  | .vgath x => issueCheck [2, 3] 0x052 x
  | .vscat x => issueCheck [2, 3] 0x053 x
  | .vlut x => issueCheck [2, 3] 0x054 x
  | .vpart x => issueCheck [2, 3] 0x060 x
  | .vcnt x => issueCheck [2, 3] 0x061 x
  | .vamo x => issueCheck [2, 3] 0x070 x
  | .frcp x => issueCheck [4] 0x000 x
  | .frsq x => issueCheck [4] 0x001 x
  | .fsqrt x => issueCheck [4] 0x002 x
  | .fexp2 x => issueCheck [4] 0x003 x
  | .flog2 x => issueCheck [4] 0x004 x
  | .fsin x => issueCheck [4] 0x005 x
  | .fcos x => issueCheck [4] 0x006 x
  | .ftanh x => issueCheck [4] 0x007 x
  | .fsig x => issueCheck [4] 0x008 x
  | .cpy x => issueCheck [5] 0x000 x
  | .cpyL x => issueCheck [5] 0x001 x
  | .cpyG x => issueCheck [5] 0x002 x
  | .cpyS x => issueCheck [5] 0x003 x
  | .cpyXMemory x => if bitAt x.raw 475 then some .operation else issueCheck [5] 0x004 x
  | .cpyXScratchpad x => if bitAt x.raw 475 then issueCheck [5] 0x004 x else some .operation
  | .cpyZ x => issueCheck [5] 0x005 x
  | .cpyD x => issueCheck [5] 0x006 x
  | .cpyW x => issueCheck [5] 0x007 x
  | .oxf x => issueCheck [6] 0x000 x
  | .oxc x => issueCheck [6] 0x001 x
  | .omask x => issueCheck [6] 0x002 x
  | .ocal x => issueCheck [6] 0x003 x
  | .owin x => issueCheck [6] 0x004 x
  | .oref x => issueCheck [6] 0x005 x
  | .nbScore x => issueCheck [7] 0x000 x
  | .nbSel x => issueCheck [7] 0x001 x
  | .nbPut x => issueCheck [7] 0x002 x
  | .nbStat x => issueCheck [7] 0x003 x
  | .copyLanding f => flightCheck FKind.isCopy f
  | .scalarLoadLanding f => flightCheck FKind.isLoad f
  | .landingStage f => flightCheck FKind.isMx f
  | .drainPush f => flightCheck FKind.isPush f
  | .vectorLanding f => flightCheck FKind.isVec f
  | .opticalOutputLanding f => flightCheck FKind.isOptical f
  | .nbScoreLanding f => flightCheck FKind.isNbList f
  | .vamoAcknowledgement f => flightCheck FKind.isVamo f
  | .barrierArrival _ => none
  | .resumption _ _ core => below 128 core
  | .launch ring _ => below 4096 ring
  | .abortRequest ring _ => below 4096 ring
  | .ringScan ring => below 4096 ring
  | .launchReady _ => none
  | .launchPlacement _ _ core => below 128 core
  | .launchCompletion _ => none
  | .hostWake _ => none
  | .resolve core _ => below 128 core
  | .negotiate slot _ => below 64 slot
  | .config slot _ => below 64 slot
  | .ringreg slot _ => below 64 slot
  | .ringdel slot _ => below 64 slot
  | .alloc slot _ _ => below 64 slot
  | .free slot _ => below 64 slot
  | .peerbind slot _ => below 64 slot
  | .reprd _ => none
  | .hostMemoryRead _ _ => none
  | .hostMemoryWrite _ _ => none
  | .spdmRequest _ => none
  | .lockstepMismatch fn => below 8 fn
  | .liveUpdate _ => none
  | .firmwareRecalibration aperture => below 16 aperture
  | .refreshBurst die bank => (below 8 die).or (below 512 bank)
  | .temperatureCrossing die _ => below 8 die
  | .powerCapExceeded _ => none
  | .foldMapChange core _ => below 128 core
  | .write _ => none
  | .readreq _ => none
  | .readresp _ => none
  | .wake _ => none
  | .done _ => none
  | .ack _ => none
  | .nak _ => none
  | .probe _ => none
  | .probeack _ => none
  | .stripeTimeout _ port => below 4 port
  | .portLinkLoss port => below 4 port
  | .accessPerforms _ => none
  | .hostLinkCompletion _ => none
  | .engineAccessPerform _ => none
  | .effectivePriorityPromotion _ => none
  | .tapeAffinityWaitExpiry _ => none
  | .pageEviction _ _ _ => none
  | .logicPlyJunctionLimit die ply => (below 8 die).or (below 4 ply)
  | .recordHintRegionIssue x =>
    if 0xF00 ≤ opOf x.raw then issueCheck [0, 1, 2, 3, 4, 5, 6, 7] (opOf x.raw) x else some .operation
  | .leave => none
  | .sege => none
  | .eret => none
  | .endCtx => none
  | .yield => none
  | .tapeRec => none
  | .tapeEnd => none
  | .tapeDrop => none
  | .nop => none
  | .segmentRelease => none
  | .gangStartMissed => none
  | .segeCompletion => none
  | .walkCompletion => none
  | .gangReRelease => none
  | .replayResume => none
  | .refreshDeadline => none
  | .looseCodeWatchdog => none
  | .looseCopyOverrun => none
  | .barWaitCompletion => none
  | .waitcSatisfied => none
  | .waysChange => none
  | .waysRetire => none
  | .preemption => none
  | .periodicReadinessTest => none
  | .abandon => none
  | .heartbeat => none
  | .heartbeatMissed => none
  | .postponedBurstsIssued => none
  | .thermalTrip => none
  | .packageReset => none
  | .probePeriod => none
  | .playedForward => none
  | .ackInterval => none
  | .gapNak => none
  | .retransmitTimeout => none
  | .coreClockCycle => none
  | .machineCheck => none

/-- A term the package can meet. -/
def Instr.wf (i : Instr) : Bool := (illFormed i).isNone

end Sys2Proof
end

