-- ==== Sys2Proof/Decode.lean ====
section
/-! DEFINITION. Decoding (chapter 03, R45 to R63): total on any bytes, with a named rejection for
every word that is no instruction; then the encoder, written from the same tables. Reserved fields
are ignored (R6, R48). -/

namespace Sys2Proof

/-- Why bytes are no instruction. In loose code or in a segment each raises illegal-instruction
(R56) but `truncated`, which execution off the instruction store cannot reach (R46). -/
inductive Reject where
  /-- Fewer bytes than the instruction has. -/
  | truncated
  /-- A major opcode that R50 does not assign. -/
  | unassignedMajor
  /-- A function code that its major does not assign (R51, R52, R53). -/
  | unassignedFn
  /-- Conditions 9 to 15 (R54). -/
  | illegalCondition
  /-- AMO operation 7 or CAS with fn[3:1] not 0 (R52). -/
  | illegalOperation
  /-- FENCE kind 3 (R50). -/
  | fenceKind
  deriving DecidableEq, Repr

/-! ## The fields of the word forms (R48) -/

def opcF (w : IWord) : Nat := (w.extractLsb' 25 7).toNat
def dF (w : IWord) : BitVec 5 := w.extractLsb' 20 5
def aF (w : IWord) : BitVec 5 := w.extractLsb' 15 5
def bF (w : IWord) : BitVec 5 := w.extractLsb' 10 5
def fnF (w : IWord) : Nat := (w.extractLsb' 4 6).toNat
def clsF (w : IWord) : BitVec 4 := w.extractLsb' 0 4
def immF (w : IWord) : BitVec 15 := w.extractLsb' 0 15
def offF (w : IWord) : BitVec 11 := w.extractLsb' 4 11
def condF (w : IWord) : Nat := (w.extractLsb' 21 4).toNat
def ctF (w : IWord) : BitVec 3 := w.extractLsb' 18 3
def caF (w : IWord) : BitVec 5 := w.extractLsb' 13 5
def cbF (w : IWord) : BitVec 5 := w.extractLsb' 8 5
def hintF (w : IWord) : BitVec 1 := w.extractLsb' 0 1
def ptF (w : IWord) : BitVec 3 := w.extractLsb' 22 3
def off22F (w : IWord) : BitVec 22 := w.extractLsb' 0 22
def posF (w : IWord) : BitVec 6 := w.extractLsb' 0 6
def len1F (w : IWord) : BitVec 6 := w.extractLsb' 6 6
def barF (w : IWord) : BitVec 10 := w.extractLsb' 0 10
def strmF (w : IWord) : BitVec 6 := w.extractLsb' 0 6
def swF (w : IWord) : BitVec 3 := w.extractLsb' 6 3
def scopeF (w : IWord) : BitVec 2 := w.extractLsb' 8 2
def dblF (w : IWord) : BitVec 1 := w.extractLsb' 4 1
def amoF (w : IWord) : Nat := (w.extractLsb' 5 3).toNat

/-! ## Decoding -/

/-- The integer and bit group (R51). -/
def decodeInt (w : IWord) : Except Reject Instr :=
  match fnF w with
  | 0x00 => .ok (.add (dF w) (aF w) (bF w))
  | 0x01 => .ok (.sub (dF w) (aF w) (bF w))
  | 0x02 => .ok (.mul (dF w) (aF w) (bF w))
  | 0x03 => .ok (.mulh (dF w) (aF w) (bF w))
  | 0x04 => .ok (.mulhu (dF w) (aF w) (bF w))
  | 0x05 => .ok (.div (dF w) (aF w) (bF w))
  | 0x06 => .ok (.divu (dF w) (aF w) (bF w))
  | 0x07 => .ok (.rem (dF w) (aF w) (bF w))
  | 0x08 => .ok (.remu (dF w) (aF w) (bF w))
  | 0x09 => .ok (.and (dF w) (aF w) (bF w))
  | 0x0A => .ok (.or (dF w) (aF w) (bF w))
  | 0x0B => .ok (.xor (dF w) (aF w) (bF w))
  | 0x0C => .ok (.shl (dF w) (aF w) (bF w))
  | 0x0D => .ok (.shr (dF w) (aF w) (bF w))
  | 0x0E => .ok (.sar (dF w) (aF w) (bF w))
  | 0x0F => .ok (.min (dF w) (aF w) (bF w))
  | 0x10 => .ok (.max (dF w) (aF w) (bF w))
  | 0x11 => .ok (.minu (dF w) (aF w) (bF w))
  | 0x12 => .ok (.maxu (dF w) (aF w) (bF w))
  | 0x13 => .ok (.slt (dF w) (aF w) (bF w))
  | 0x14 => .ok (.sltu (dF w) (aF w) (bF w))
  | 0x15 => .ok (.seq (dF w) (aF w) (bF w))
  | 0x16 => .ok (.clz (dF w) (aF w))
  | 0x17 => .ok (.popc (dF w) (aF w))
  | 0x18 => .ok (.mov (dF w) (aF w))
  | _ => .error .unassignedFn

/-- AMO (R52). -/
def decodeAmo (w : IWord) : Except Reject Instr :=
  match amoF w with
  | 0 => .ok (.amoAdd (dF w) (aF w) (bF w) (scopeF w) (dblF w) (clsF w))
  | 1 => .ok (.amoAnd (dF w) (aF w) (bF w) (scopeF w) (dblF w) (clsF w))
  | 2 => .ok (.amoOr (dF w) (aF w) (bF w) (scopeF w) (dblF w) (clsF w))
  | 3 => .ok (.amoXor (dF w) (aF w) (bF w) (scopeF w) (dblF w) (clsF w))
  | 4 => .ok (.amoMin (dF w) (aF w) (bF w) (scopeF w) (dblF w) (clsF w))
  | 5 => .ok (.amoMax (dF w) (aF w) (bF w) (scopeF w) (dblF w) (clsF w))
  | 6 => .ok (.amoSwap (dF w) (aF w) (bF w) (scopeF w) (dblF w) (clsF w))
  | _ => .error .illegalOperation

/-- B.cond (R54). -/
def decodeB (w : IWord) : Except Reject Instr :=
  match condF w with
  | 0 => .ok (.bEq (ctF w) (caF w) (cbF w) (hintF w))
  | 1 => .ok (.bNe (ctF w) (caF w) (cbF w) (hintF w))
  | 2 => .ok (.bLt (ctF w) (caF w) (cbF w) (hintF w))
  | 3 => .ok (.bGe (ctF w) (caF w) (cbF w) (hintF w))
  | 4 => .ok (.bLtu (ctF w) (caF w) (cbF w) (hintF w))
  | 5 => .ok (.bGeu (ctF w) (caF w) (cbF w) (hintF w))
  | 6 => .ok (.jmp (ctF w) (hintF w))
  | 7 => .ok (.bPnz (ctF w) (hintF w))
  | 8 => .ok (.bPz (ctF w) (hintF w))
  | _ => .error .illegalCondition

/-- The TAPE group (R53). The limits of d are checked by the instruction. -/
def decodeTape (w : IWord) : Except Reject Instr :=
  match fnF w with
  | 0 => .ok .tapeRec
  | 1 => .ok .tapeEnd
  | 2 => .ok (.tapePlay (dF w))
  | 3 => .ok (.tapePatch (dF w) (aF w))
  | 4 => .ok (.tapeGuard (dF w) (aF w))
  | 5 => .ok .tapeDrop
  | _ => .error .unassignedFn

/-- FENCE with its literal (R50). -/
def decodeFence (lit : IWord) : Except Reject Instr :=
  match bitsAt lit 18 2 with
  | 0 => .ok (.fenceFull (lit.extractLsb' 16 2) (lit.extractLsb' 0 16))
  | 1 => .ok (.fenceAcq (lit.extractLsb' 16 2) (lit.extractLsb' 0 16))
  | 2 => .ok (.fenceRel (lit.extractLsb' 16 2) (lit.extractLsb' 0 16))
  | _ => .error .fenceKind

/-- One control-core word, with the word that follows it (used by Form L only) (R50, R56). Major
0x7F is no word. -/
def decodeWord (w lit : IWord) : Except Reject Instr :=
  match opcF w with
  | 0x01 => decodeInt w
  | 0x02 =>
    match fnF w with
    | 0 => .ok (.lea (dF w) (aF w) (bF w) 0)
    | 1 => .ok (.lea (dF w) (aF w) (bF w) 1)
    | 2 => .ok (.lea (dF w) (aF w) (bF w) 2)
    | 3 => .ok (.lea (dF w) (aF w) (bF w) 3)
    | 4 => .ok (.madd (dF w) (aF w) (bF w))
    | 5 => .ok (.sel (dF w) (aF w) (bF w))
    | _ => .error .unassignedFn
  | 0x03 => .ok (.fsh (dF w) (aF w) (bF w) (w.extractLsb' 4 6))
  | 0x04 => .ok (.bfx (dF w) (aF w) (len1F w) (posF w))
  | 0x05 => .ok (.bfi (dF w) (aF w) (len1F w) (posF w))
  | 0x08 => .ok (.addi (dF w) (aF w) (immF w))
  | 0x09 => .ok (.andi (dF w) (aF w) (immF w))
  | 0x0A => .ok (.ori (dF w) (aF w) (immF w))
  | 0x0B => .ok (.xori (dF w) (aF w) (immF w))
  | 0x0C => .ok (.shli (dF w) (aF w) (posF w))
  | 0x0D => .ok (.shri (dF w) (aF w) (posF w))
  | 0x0E => .ok (.sari (dF w) (aF w) (posF w))
  | 0x10 =>
    match fnF w with
    | 0 => .ok (.liw (dF w) lit)
    | 1 => .ok (.lih (dF w) lit)
    | _ => .error .unassignedFn
  | 0x18 => .ok (.ldB (dF w) (aF w) (offF w) (clsF w))
  | 0x19 => .ok (.ldH (dF w) (aF w) (offF w) (clsF w))
  | 0x1A => .ok (.ldW (dF w) (aF w) (offF w) (clsF w))
  | 0x1B => .ok (.ldD (dF w) (aF w) (offF w) (clsF w))
  | 0x1C => .ok (.stB (dF w) (aF w) (offF w) (clsF w))
  | 0x1D => .ok (.stH (dF w) (aF w) (offF w) (clsF w))
  | 0x1E => .ok (.stW (dF w) (aF w) (offF w) (clsF w))
  | 0x1F => .ok (.stD (dF w) (aF w) (offF w) (clsF w))
  | 0x20 => .ok (.ldsB (dF w) (aF w) (offF w) (clsF w))
  | 0x21 => .ok (.ldsH (dF w) (aF w) (offF w) (clsF w))
  | 0x22 => .ok (.ldsW (dF w) (aF w) (offF w) (clsF w))
  | 0x23 => .ok (.ldsD (dF w) (aF w) (offF w) (clsF w))
  | 0x24 => .ok (.stsB (dF w) (aF w) (offF w) (clsF w))
  | 0x25 => .ok (.stsH (dF w) (aF w) (offF w) (clsF w))
  | 0x26 => .ok (.stsW (dF w) (aF w) (offF w) (clsF w))
  | 0x27 => .ok (.stsD (dF w) (aF w) (offF w) (clsF w))
  | 0x28 => decodeAmo w
  | 0x29 => if amoF w = 0 then .ok (.cas (dF w) (aF w) (bF w) (scopeF w) (dblF w) (clsF w)) else .error .illegalOperation
  | 0x30 => .ok (.ptb (ptF w) (off22F w))
  | 0x31 => decodeB w
  | 0x32 => .ok (.call (ctF w) (caF w))
  | 0x33 => .ok (.ret (caF w))
  | 0x34 => .ok (.loopw (ctF w) (caF w))
  | 0x35 => .ok .leave
  | 0x38 => .ok (.segb (off22F w))
  | 0x39 => .ok (.align (aF w))
  | 0x3A => .ok .sege
  | 0x3B => .ok (.waitc (dF w) (aF w) (bF w) (clsF w))
  | 0x40 => .ok (.gets (dF w) (immF w))
  | 0x41 => .ok (.sets (aF w) (immF w))
  | 0x42 => .ok (.trap (immF w))
  | 0x43 => .ok .eret
  | 0x44 => .ok .endCtx
  | 0x45 => decodeFence lit
  | 0x46 => .ok .yield
  | 0x48 => decodeTape w
  | 0x4A => .ok (.barInit (aF w) (barF w))
  | 0x4B => .ok (.barArrive (barF w))
  | 0x4C => .ok (.barWait (dF w) (barF w))
  | 0x4D => .ok (.barTest (dF w) (barF w))
  | 0x50 => .ok (.ways (aF w))
  | 0x51 => .ok (.flush (aF w) (bF w) (clsF w))
  | 0x52 => .ok (.inval (aF w) (bF w) (clsF w))
  | 0x53 => .ok (.discard (aF w) (bF w) (clsF w))
  | 0x54 => .ok (.pref (aF w) (bF w) (clsF w))
  | 0x58 => .ok (.sdef (aF w) (strmF w))
  | 0x59 => .ok (.sset (aF w) (swF w) (strmF w))
  | 0x5A => .ok (.sget (dF w) (swF w) (strmF w))
  | 0x5B => .ok (.sadv (aF w) (strmF w))
  | 0x70 => if w = 0xE0000000#32 then .ok .nop else .ok (.hintRegion w)
  | 0x71 => .ok (.hintRegion w)
  | 0x72 => .ok (.hintRegion w)
  | 0x73 => .ok (.hintRegion w)
  | 0x74 => .ok (.hintRegion w)
  | 0x75 => .ok (.hintRegion w)
  | 0x76 => .ok (.hintRegion w)
  | 0x77 => .ok (.hintRegion w)
  | 0x78 => .ok (.hintRegion w)
  | 0x79 => .ok (.hintRegion w)
  | 0x7A => .ok (.hintRegion w)
  | 0x7B => .ok (.hintRegion w)
  | 0x7C => .ok (.hintRegion w)
  | 0x7D => .ok (.hintRegion w)
  | 0x7E => .ok (.hintRegion w)
  | _ => .error .unassignedMajor

/-- Whether a word is the first of a Form L pair (R46): majors 0x10 and 0x45. -/
def isFormL (w : IWord) : Bool := opcF w == 0x10 || opcF w == 0x45

/-- Whether a word starts a record line, when it is word 0 of its line (R45). -/
def isRecordMark (w : IWord) : Bool := opcF w == 0x7F

/-- The word at the head of a list of bytes, little-endian (R45). -/
def wordOf (bs : List Byte) : IWord := BitVec.ofNat 32 (ofLeBytes (bs.take 4))

/-- Decode the instruction at the head of a list of bytes, and give the bytes after it. A record
mark takes the line of 64 bytes (R45). -/
def decode (bs : List Byte) : Except Reject (Instr × List Byte) :=
  if bs.length < 4 then .error .truncated
  else
    let w := wordOf bs
    if isRecordMark w then
      if bs.length < 64 then .error .truncated
      else .ok (.recordForward (BitVec.ofNat 512 (ofLeBytes (bs.take 64))), bs.drop 64)
    else if isFormL w then
      if bs.length < 8 then .error .truncated
      else (decodeWord w (wordOf (bs.drop 4))).map fun i => (i, bs.drop 8)
    else (decodeWord w 0).map fun i => (i, bs.drop 4)

/-- The bytes of an instruction whose bits are `w`, `nbits` of them given and zeros above, up to a
whole line. -/
def tableBytes (nbits w : Nat) : List Byte := leBytes 64 (w % 2 ^ nbits)

/-- What the decoder reads from an instruction whose bits are `w`, numbered as the opcode table
numbers them; none where it refuses. -/
def decodeTableWord (nbits w : Nat) : Option Instr :=
  match decode (tableBytes nbits w) with
  | .ok (i, _) => some i
  | .error _ => none

/-! ## Records (R57, R62, R63) -/

/-- The operation that one issue of a record performs; none for a number R63 does not assign. The
two forms of CPY.X are told apart by MOD bit 51 (R204). -/
def recordOpAt (col op : Nat) (x : Issue) : Option Instr :=
  if 8 ≤ col then none
  else if 0xF00 ≤ op then some (.recordHintRegionIssue x)
  else match col with
  | 0 => if op = 0 then some (.mark x) else none
  | 1 =>
    match op with
    | 0x000 => some (.mma x)
    | 0x001 => some (.mpass x)
    | 0x002 => some (.mzero x)
    | 0x003 => some (.mload x)
    | 0x004 => some (.mdrain x)
    | 0x005 => some (.mstore x)
    | 0x006 => some (.mrep x)
    | 0x010 => some (.mchain x)
    | _ => none
  | 4 =>
    match op with
    | 0x000 => some (.frcp x)
    | 0x001 => some (.frsq x)
    | 0x002 => some (.fsqrt x)
    | 0x003 => some (.fexp2 x)
    | 0x004 => some (.flog2 x)
    | 0x005 => some (.fsin x)
    | 0x006 => some (.fcos x)
    | 0x007 => some (.ftanh x)
    | 0x008 => some (.fsig x)
    | _ => none
  | 5 =>
    match op with
    | 0x000 => some (.cpy x)
    | 0x001 => some (.cpyL x)
    | 0x002 => some (.cpyG x)
    | 0x003 => some (.cpyS x)
    | 0x004 => if bitAt x.raw 475 then some (.cpyXScratchpad x) else some (.cpyXMemory x)
    | 0x005 => some (.cpyZ x)
    | 0x006 => some (.cpyD x)
    | 0x007 => some (.cpyW x)
    | _ => none
  | 6 =>
    match op with
    | 0x000 => some (.oxf x)
    | 0x001 => some (.oxc x)
    | 0x002 => some (.omask x)
    | 0x003 => some (.ocal x)
    | 0x004 => some (.owin x)
    | 0x005 => some (.oref x)
    | _ => none
  | 7 =>
    match op with
    | 0x000 => some (.nbScore x)
    | 0x001 => some (.nbSel x)
    | 0x002 => some (.nbPut x)
    | 0x003 => some (.nbStat x)
    | _ => none
  | _ =>
    match op with
    | 0x000 => some (.vadd x)
    | 0x001 => some (.vsub x)
    | 0x002 => some (.vmul x)
    | 0x003 => some (.vfma x)
    | 0x004 => some (.vmin x)
    | 0x005 => some (.vmax x)
    | 0x006 => some (.vabs x)
    | 0x007 => some (.vneg x)
    | 0x008 => some (.vmulh x)
    | 0x010 => some (.vand x)
    | 0x011 => some (.vor x)
    | 0x012 => some (.vxor x)
    | 0x013 => some (.vnot x)
    | 0x014 => some (.vshl x)
    | 0x015 => some (.vshr x)
    | 0x016 => some (.vsar x)
    | 0x017 => some (.vbfx x)
    | 0x018 => some (.vfsh x)
    | 0x019 => some (.vpopc x)
    | 0x01A => some (.vclz x)
    | 0x020 => some (.vcmp x)
    | 0x021 => some (.vsel x)
    | 0x022 => some (.vmov x)
    | 0x023 => some (.vspl x)
    | 0x024 => some (.viota x)
    | 0x030 => some (.vcvt x)
    | 0x031 => some (.vqnt x)
    | 0x032 => some (.vdq x)
    | 0x040 => some (.vrotr x)
    | 0x041 => some (.vrotc x)
    | 0x042 => some (.vbcr x)
    | 0x043 => some (.vbcc x)
    | 0x044 => some (.vredr x)
    | 0x045 => some (.vredc x)
    | 0x046 => some (.vscanr x)
    | 0x047 => some (.vscanc x)
    | 0x048 => some (.vtrb x)
    | 0x050 => some (.vld x)
    | 0x051 => some (.vst x)
    | 0x052 => some (.vgath x)
    | 0x053 => some (.vscat x)
    | 0x054 => some (.vlut x)
    | 0x055 => some (.vpop x)
    | 0x060 => some (.vpart x)
    | 0x061 => some (.vcnt x)
    | 0x070 => some (.vamo x)
    | _ => none

/-- The operation an issue performs. -/
def recordInstr (x : Issue) : Option Instr := recordOpAt x.col (opOf x.raw) x

/-! ## Encoding -/

def formA (opc : Nat) (d a b : BitVec 5) (fn : BitVec 6) (cls : BitVec 4) : IWord :=
  BitVec.ofNat 7 opc ++ d ++ a ++ b ++ fn ++ cls
def formB (opc : Nat) (d a : BitVec 5) (imm : BitVec 15) : IWord := BitVec.ofNat 7 opc ++ d ++ a ++ imm
def formM (opc : Nat) (d a : BitVec 5) (off : BitVec 11) (cls : BitVec 4) : IWord :=
  BitVec.ofNat 7 opc ++ d ++ a ++ off ++ cls
def formC (opc cond : Nat) (t : BitVec 3) (a b : BitVec 5) (h : BitVec 1) : IWord :=
  BitVec.ofNat 7 opc ++ BitVec.ofNat 4 cond ++ t ++ a ++ b ++ (0 : BitVec 7) ++ h
def formP (opc : Nat) (t : BitVec 3) (off : BitVec 22) : IWord := BitVec.ofNat 7 opc ++ t ++ off

/-- fn of AMO and CAS (R52). -/
def amoFn (scope : BitVec 2) (op : Nat) (dbl : BitVec 1) : BitVec 6 := scope ++ BitVec.ofNat 3 op ++ dbl
/-- The imm15 of stream words, barriers and split fields (R50). -/
def immStream (w : BitVec 3) (s : BitVec 6) : BitVec 15 := (0 : BitVec 6) ++ w ++ s
def immBar (n : BitVec 10) : BitVec 15 := (0 : BitVec 5) ++ n
def immSplit (len1 pos : BitVec 6) : BitVec 15 := (0 : BitVec 3) ++ len1 ++ pos
/-- The literal of FENCE (R50). -/
def fenceLit (kind : Nat) (scope : BitVec 2) (mask : BitVec 16) : IWord :=
  (0 : BitVec 12) ++ BitVec.ofNat 2 kind ++ scope ++ mask

/-- The sixteen words of a record line (R57). -/
def lineWords (raw : Line) : List IWord := (List.range 16).map fun k => raw.extractLsb' (32 * k) 32

/-- The words of an instruction; none for what no word encodes. -/
def encode : Instr → List IWord
  | .add d a b => [formA 0x01 d a b 0x00 0]
  | .sub d a b => [formA 0x01 d a b 0x01 0]
  | .mul d a b => [formA 0x01 d a b 0x02 0]
  | .mulh d a b => [formA 0x01 d a b 0x03 0]
  | .mulhu d a b => [formA 0x01 d a b 0x04 0]
  | .div d a b => [formA 0x01 d a b 0x05 0]
  | .divu d a b => [formA 0x01 d a b 0x06 0]
  | .rem d a b => [formA 0x01 d a b 0x07 0]
  | .remu d a b => [formA 0x01 d a b 0x08 0]
  | .and d a b => [formA 0x01 d a b 0x09 0]
  | .or d a b => [formA 0x01 d a b 0x0A 0]
  | .xor d a b => [formA 0x01 d a b 0x0B 0]
  | .shl d a b => [formA 0x01 d a b 0x0C 0]
  | .shr d a b => [formA 0x01 d a b 0x0D 0]
  | .sar d a b => [formA 0x01 d a b 0x0E 0]
  | .min d a b => [formA 0x01 d a b 0x0F 0]
  | .max d a b => [formA 0x01 d a b 0x10 0]
  | .minu d a b => [formA 0x01 d a b 0x11 0]
  | .maxu d a b => [formA 0x01 d a b 0x12 0]
  | .slt d a b => [formA 0x01 d a b 0x13 0]
  | .sltu d a b => [formA 0x01 d a b 0x14 0]
  | .seq d a b => [formA 0x01 d a b 0x15 0]
  | .clz d a => [formA 0x01 d a 0 0x16 0]
  | .popc d a => [formA 0x01 d a 0 0x17 0]
  | .mov d a => [formA 0x01 d a 0 0x18 0]
  | .lea d a b s => [formA 0x02 d a b (s.setWidth 6) 0]
  | .madd d a b => [formA 0x02 d a b 4 0]
  | .sel d a b => [formA 0x02 d a b 5 0]
  | .fsh d a b n => [formA 0x03 d a b n 0]
  | .bfx d a l p => [formB 0x04 d a (immSplit l p)]
  | .bfi d a l p => [formB 0x05 d a (immSplit l p)]
  | .addi d a m => [formB 0x08 d a m]
  | .andi d a m => [formB 0x09 d a m]
  | .ori d a m => [formB 0x0A d a m]
  | .xori d a m => [formB 0x0B d a m]
  | .shli d a n => [formB 0x0C d a (immSplit 0 n)]
  | .shri d a n => [formB 0x0D d a (immSplit 0 n)]
  | .sari d a n => [formB 0x0E d a (immSplit 0 n)]
  | .liw d l => [formA 0x10 d 0 0 0 0, l]
  | .lih d l => [formA 0x10 d 0 0 1 0, l]
  | .ldB r a f c => [formM 0x18 r a f c]
  | .ldH r a f c => [formM 0x19 r a f c]
  | .ldW r a f c => [formM 0x1A r a f c]
  | .ldD r a f c => [formM 0x1B r a f c]
  | .stB r a f c => [formM 0x1C r a f c]
  | .stH r a f c => [formM 0x1D r a f c]
  | .stW r a f c => [formM 0x1E r a f c]
  | .stD r a f c => [formM 0x1F r a f c]
  | .ldsB r a f c => [formM 0x20 r a f c]
  | .ldsH r a f c => [formM 0x21 r a f c]
  | .ldsW r a f c => [formM 0x22 r a f c]
  | .ldsD r a f c => [formM 0x23 r a f c]
  | .stsB r a f c => [formM 0x24 r a f c]
  | .stsH r a f c => [formM 0x25 r a f c]
  | .stsW r a f c => [formM 0x26 r a f c]
  | .stsD r a f c => [formM 0x27 r a f c]
  | .amoAdd d a b s z c => [formA 0x28 d a b (amoFn s 0 z) c]
  | .amoAnd d a b s z c => [formA 0x28 d a b (amoFn s 1 z) c]
  | .amoOr d a b s z c => [formA 0x28 d a b (amoFn s 2 z) c]
  | .amoXor d a b s z c => [formA 0x28 d a b (amoFn s 3 z) c]
  | .amoMin d a b s z c => [formA 0x28 d a b (amoFn s 4 z) c]
  | .amoMax d a b s z c => [formA 0x28 d a b (amoFn s 5 z) c]
  | .amoSwap d a b s z c => [formA 0x28 d a b (amoFn s 6 z) c]
  | .cas d a b s z c => [formA 0x29 d a b (amoFn s 0 z) c]
  | .ptb t f => [formP 0x30 t f]
  | .bEq t a b h => [formC 0x31 0 t a b h]
  | .bNe t a b h => [formC 0x31 1 t a b h]
  | .bLt t a b h => [formC 0x31 2 t a b h]
  | .bGe t a b h => [formC 0x31 3 t a b h]
  | .bLtu t a b h => [formC 0x31 4 t a b h]
  | .bGeu t a b h => [formC 0x31 5 t a b h]
  | .jmp t h => [formC 0x31 6 t 0 0 h]
  | .bPnz t h => [formC 0x31 7 t 0 0 h]
  | .bPz t h => [formC 0x31 8 t 0 0 h]
  | .call t a => [formC 0x32 0 t a 0 0]
  | .ret a => [formC 0x33 0 0 a 0 0]
  | .loopw t a => [formC 0x34 0 t a 0 0]
  | .segb f => [formP 0x38 0 f]
  | .align a => [formA 0x39 0 a 0 0 0]
  | .waitc d a b c => [formA 0x3B d a b 0 c]
  | .gets d n => [formB 0x40 d 0 n]
  | .sets a n => [formB 0x41 0 a n]
  | .trap n => [formB 0x42 0 0 n]
  | .fenceFull s m => [formA 0x45 0 0 0 0 0, fenceLit 0 s m]
  | .fenceAcq s m => [formA 0x45 0 0 0 0 0, fenceLit 1 s m]
  | .fenceRel s m => [formA 0x45 0 0 0 0 0, fenceLit 2 s m]
  | .tapePlay d => [formA 0x48 d 0 0 2 0]
  | .tapePatch k a => [formA 0x48 k a 0 3 0]
  | .tapeGuard i a => [formA 0x48 i a 0 4 0]
  | .barInit a n => [formB 0x4A 0 a (immBar n)]
  | .barArrive n => [formB 0x4B 0 0 (immBar n)]
  | .barWait d n => [formB 0x4C d 0 (immBar n)]
  | .barTest d n => [formB 0x4D d 0 (immBar n)]
  | .ways a => [formA 0x50 0 a 0 0 0]
  | .flush a b c => [formA 0x51 0 a b 0 c]
  | .inval a b c => [formA 0x52 0 a b 0 c]
  | .discard a b c => [formA 0x53 0 a b 0 c]
  | .pref a b c => [formA 0x54 0 a b 0 c]
  | .sdef a s => [formB 0x58 0 a (immStream 0 s)]
  | .sset a w s => [formB 0x59 0 a (immStream w s)]
  | .sget d w s => [formB 0x5A d 0 (immStream w s)]
  | .sadv a s => [formB 0x5B 0 a (immStream 0 s)]
  | .hintRegion w => [w]
  | .recordForward raw => lineWords raw
  | .mark _ => []
  | .mma _ => []
  | .mpass _ => []
  | .mzero _ => []
  | .mload _ => []
  | .mdrain _ => []
  | .mstore _ => []
  | .mrep _ => []
  | .mchain _ => []
  | .vadd _ => []
  | .vsub _ => []
  | .vmul _ => []
  | .vfma _ => []
  | .vmin _ => []
  | .vmax _ => []
  | .vabs _ => []
  | .vneg _ => []
  | .vmulh _ => []
  | .vand _ => []
  | .vor _ => []
  | .vxor _ => []
  | .vnot _ => []
  | .vshl _ => []
  | .vshr _ => []
  | .vsar _ => []
  | .vbfx _ => []
  | .vfsh _ => []
  | .vpopc _ => []
  | .vclz _ => []
  | .vcmp _ => []
  | .vsel _ => []
  | .vmov _ => []
  | .vspl _ => []
  | .viota _ => []
  | .vcvt _ => []
  | .vqnt _ => []
  | .vdq _ => []
  | .vrotr _ => []
  | .vrotc _ => []
  | .vbcr _ => []
  | .vbcc _ => []
  | .vredr _ => []
  | .vredc _ => []
  | .vscanr _ => []
  | .vscanc _ => []
  | .vtrb _ => []
  | .vld _ => []
  | .vst _ => []
  | .vpop _ => []
  | .vgath _ => []
  | .vscat _ => []
  | .vlut _ => []
  | .vpart _ => []
  | .vcnt _ => []
  | .vamo _ => []
  | .frcp _ => []
  | .frsq _ => []
  | .fsqrt _ => []
  | .fexp2 _ => []
  | .flog2 _ => []
  | .fsin _ => []
  | .fcos _ => []
  | .ftanh _ => []
  | .fsig _ => []
  | .cpy _ => []
  | .cpyL _ => []
  | .cpyG _ => []
  | .cpyS _ => []
  | .cpyXMemory _ => []
  | .cpyXScratchpad _ => []
  | .cpyZ _ => []
  | .cpyD _ => []
  | .cpyW _ => []
  | .oxf _ => []
  | .oxc _ => []
  | .omask _ => []
  | .ocal _ => []
  | .owin _ => []
  | .oref _ => []
  | .nbScore _ => []
  | .nbSel _ => []
  | .nbPut _ => []
  | .nbStat _ => []
  | .copyLanding _ => []
  | .scalarLoadLanding _ => []
  | .landingStage _ => []
  | .drainPush _ => []
  | .vectorLanding _ => []
  | .opticalOutputLanding _ => []
  | .nbScoreLanding _ => []
  | .vamoAcknowledgement _ => []
  | .barrierArrival _ => []
  | .resumption _ _ _ => []
  | .launch _ _ => []
  | .abortRequest _ _ => []
  | .ringScan _ => []
  | .launchReady _ => []
  | .launchPlacement _ _ _ => []
  | .launchCompletion _ => []
  | .hostWake _ => []
  | .resolve _ _ => []
  | .negotiate _ _ => []
  | .config _ _ => []
  | .ringreg _ _ => []
  | .ringdel _ _ => []
  | .alloc _ _ _ => []
  | .free _ _ => []
  | .peerbind _ _ => []
  | .reprd _ => []
  | .hostMemoryRead _ _ => []
  | .hostMemoryWrite _ _ => []
  | .spdmRequest _ => []
  | .lockstepMismatch _ => []
  | .liveUpdate _ => []
  | .firmwareRecalibration _ => []
  | .refreshBurst _ _ => []
  | .temperatureCrossing _ _ => []
  | .powerCapExceeded _ => []
  | .foldMapChange _ _ => []
  | .write _ => []
  | .readreq _ => []
  | .readresp _ => []
  | .wake _ => []
  | .done _ => []
  | .ack _ => []
  | .nak _ => []
  | .probe _ => []
  | .probeack _ => []
  | .stripeTimeout _ _ => []
  | .portLinkLoss _ => []
  | .accessPerforms _ => []
  | .hostLinkCompletion _ => []
  | .engineAccessPerform _ => []
  | .effectivePriorityPromotion _ => []
  | .tapeAffinityWaitExpiry _ => []
  | .pageEviction _ _ _ => []
  | .logicPlyJunctionLimit _ _ => []
  | .recordHintRegionIssue _ => []
  | .leave => [formA 0x35 0 0 0 0 0]
  | .sege => [formA 0x3A 0 0 0 0 0]
  | .eret => [formA 0x43 0 0 0 0 0]
  | .endCtx => [formA 0x44 0 0 0 0 0]
  | .yield => [formA 0x46 0 0 0 0 0]
  | .tapeRec => [formA 0x48 0 0 0 0 0]
  | .tapeEnd => [formA 0x48 0 0 0 1 0]
  | .tapeDrop => [formA 0x48 0 0 0 5 0]
  | .nop => [0xE0000000#32]
  | .segmentRelease => []
  | .gangStartMissed => []
  | .segeCompletion => []
  | .walkCompletion => []
  | .gangReRelease => []
  | .replayResume => []
  | .refreshDeadline => []
  | .looseCodeWatchdog => []
  | .looseCopyOverrun => []
  | .barWaitCompletion => []
  | .waitcSatisfied => []
  | .waysChange => []
  | .waysRetire => []
  | .preemption => []
  | .periodicReadinessTest => []
  | .abandon => []
  | .heartbeat => []
  | .heartbeatMissed => []
  | .postponedBurstsIssued => []
  | .thermalTrip => []
  | .packageReset => []
  | .probePeriod => []
  | .playedForward => []
  | .ackInterval => []
  | .gapNak => []
  | .retransmitTimeout => []
  | .coreClockCycle => []
  | .machineCheck => []

/-- The bytes of an instruction, as the instruction store holds them (R45). -/
def encodeBytes (i : Instr) : List Byte := (encode i).flatMap fun w => leBytes 4 w.toNat

end Sys2Proof
end

