-- ==== Sys2Proof/Machine/TapeBuf.lean ====
section
/-! DEFINITION. The tape buffer as recording and play use it (R328 to R336): bound registers, entries,
checkpoints, and the events that spoil a recording. -/

namespace Sys2Proof.Machine

/-- Whether FEAT0.TAPE has been negotiated (R402). -/
def tapeOn (s : State) : Bool := bitAt s.feat0 4

/-- The lowest patch slot bound to a register (R328). -/
def slotOf (c : Ctx) (r : Nat) : Option Nat :=
  (List.range 16).find? fun k => bitAt c.hv k && (KMap.get 0 c.bind k).toNat == r

/-- Whether the core's tape belongs to the context's task (R341, R346). -/
def tapeMine (c : Core) : Bool := decide (c.tape.state ≠ 0) && c.tape.codeHash == c.ctx.codeHash

/-- The recording becomes unusable, with the reason given (R335). Handlers never spoil it. -/
def spoil (reason : BitVec 8) (s : State) : State :=
  let c := curCore s
  if c.ctx.rec_ && !c.ctx.inShadow then
    updCore (fun c => { c with
      tape := { c.tape with state := 4 }
      ctx := { c.ctx with rec_ := false, reason := reason } }) s
  else s

/-- Write an entry; the one that would be entry 16,385 is not made and ends the recording (R336). -/
def tapeWrite (e : TapeEntry) (s : State) : State :=
  let c := curCore s
  if !c.ctx.rec_ then s
  else if 16384 ≤ c.tape.entries.length then
    updCore (fun c => { c with tape := { c.tape with state := 3 }, ctx := { c.ctx with rec_ := false } }) s
  else updCore (fun c => { c with tape := { c.tape with entries := c.tape.entries ++ [e] } }) s

/-- Kind of an entry: annex bits 63:60 (R329). -/
def entryKind (e : TapeEntry) : Nat := bitsAt e.annex 60 4

/-- The 320-byte image of a checkpoint as a number (R331). -/
def checkpointImage (c : Ctx) : Nat :=
  let g := (List.range 31).foldr (fun i a => (KMap.get 0 c.main.g (i + 1)).toNat + 2 ^ 64 * a) 0
  let b := (List.range 8).foldr (fun i a => (KMap.get 0 c.main.bt i).toNat + 2 ^ 64 * a) 0
  g + 2 ^ 1984 * (b + 2 ^ 512 * (c.main.p.toNat + 2 ^ 16 * c.wmask.toNat))

/-- The five parts of a checkpoint (R331). -/
def checkpointParts (kind : Nat) (resume : Word) (c : Ctx) : List TapeEntry :=
  (List.range 5).map fun i =>
    ⟨BitVec.ofNat 512 (checkpointImage c / 2 ^ (512 * i)),
      BitVec.ofNat 64 (kind * 2 ^ 60 + i * 2 ^ 57 + if i = 0 then resume.toNat % 2 ^ 57 else 0), false⟩

/-- Whether every bound register still holds its slot's value (R335, reason 0x22). -/
def boundAgree (c : Ctx) : Bool :=
  (List.range 32).all fun r => match slotOf c r with
    | some k => c.main.read r == KMap.get 0 c.h k
    | none => true

/-- Write a checkpoint while recording (R334, R335). -/
def tapeCheckpoint (kind : Nat) (resume : Word) (s : State) : State :=
  if !(curCtx s).rec_ then s
  else if !boundAgree (curCtx s) then spoil 0x22 s
  else (checkpointParts kind resume (curCtx s)).foldl (fun s e => tapeWrite e s) s

/-- A stored checkpoint whose first part is entry `i`: its image and RESUMEPC; none where a part holds
an uncorrectable error (R344). -/
def checkpointAt (t : Tape) (i : Nat) : Option (Nat × Word) :=
  let ps := (t.entries.drop i).take 5
  if ps.length < 5 ∨ ps.any TapeEntry.bad then none
  else some (ps.foldr (fun e a => e.payload.toNat + 2 ^ 512 * a) 0,
    match ps with
    | e :: _ => BitVec.ofNat 64 (bitsAt e.annex 0 57)
    | [] => 0)

/-- WMASK of a checkpoint's image (R331). -/
def checkpointMask (image : Nat) : BitVec 40 := BitVec.ofNat 40 (image / 2 ^ (8 * 314))

/-- Whether restoring a checkpoint writes a register of the task (n for gn, 32 + n for btn): it is bound, or was
written in the region (R332). -/
def checkpointWrites (image : Nat) (c : Ctx) (k : Nat) : Bool :=
  decide (k < 40) && (bitAt (checkpointMask image) k || (decide (k < 32) && (slotOf c k).isSome))

/-- The registers that a checkpoint's restoring leaves: P, every register written in the region and not bound, and
every bound register from its slot (R332). -/
def checkpointRegs (image : Nat) (c : Ctx) : Ctx :=
  let wm := checkpointMask image
  let word (i : Nat) : Word := BitVec.ofNat 64 (image / 2 ^ (64 * i))
  let g := (List.range 31).foldl (fun (r : Regs) i =>
    match slotOf c (i + 1) with
    | some k => Regs.write (i + 1) (KMap.get 0 c.h k) r
    | none => if bitAt wm (i + 1) then Regs.write (i + 1) (word i) r else r) c.main
  let bt := (List.range 8).foldl (fun m i =>
    if bitAt wm (32 + i) then KMap.set 0 m i (word (31 + i)) else m) g.bt
  { c with main := { g with bt := bt, p := BitVec.ofNat 16 (image / 2 ^ (8 * 312)) } }

/-- Restore a checkpoint (R332): what it writes takes the place of any load still on its way to the register (R70). -/
def restoreCheckpoint (image : Nat) (c : Core) : Core :=
  let gone (e : Nat × Nat) : Bool := checkpointWrites image c.ctx e.1
  { c with
    loading := c.loading.filter fun e => !gone e, busy := c.busy.filter fun e => !gone e
    ctx := checkpointRegs image c.ctx }

/-- Leave the tape at the checkpoint in force (R343): it is restored, and live execution continues at its
RESUMEPC, with the reason given. A checkpoint lost to an error aborts the task (0x33, R344). -/
def leaveTape (reason : Option (BitVec 8)) (s : State) : State :=
  let c := curCore s
  match checkpointAt c.tape c.play.ckpt with
  | none => abortHere 0x33 0 0 s
  | some (image, resume) =>
    updCore (fun c =>
      let c := restoreCheckpoint image c
      let x := c.ctx
      { c with
        play := Play.off, queue := [], ready := max c.ready (c.ctime.toNat + 1)
        ctx := { x with
          left := true, reason := reason.getD x.reason, seg := Seg.loose
          main := { x.main with pc := resume } } }) s

/-- TAPESTAT (R346). -/
def tapeStat (c : Core) : Word :=
  let t := c.tape
  let own := tapeMine c
  BitVec.ofNat 64 ((if own then min t.plays (2 ^ 24 - 1) * 2 ^ 40 + t.entries.length * 2 ^ 16 + t.state else 0)
    + (if c.ctx.left then 2 ^ 35 else 0) + c.ctx.guardIdx.toNat * 2 ^ 32 + c.ctx.reason.toNat * 2 ^ 8)

end Sys2Proof.Machine
end

