-- ==== Sys2Proof/Machine/Flags.lean ====
section
/-! DEFINITION. Conditions and flags: branch conditions (R54), the predicate window and kill horizon
(R38, R69, R89, R90), the fold class (R124 to R127), WIDEN (R121, R122) and the words special
registers read (R16 to R18, R97, R126, R218, R253, R384). -/

namespace Sys2Proof.Machine

/-! ## Branch conditions (R54) -/

def condEq (a b : Word) : Bool := a == b
def condNe (a b : Word) : Bool := a != b
def condLt (a b : Word) : Bool := a.slt b
def condGe (a b : Word) : Bool := !a.slt b
def condLtu (a b : Word) : Bool := a.ult b
def condGeu (a b : Word) : Bool := !a.ult b

/-! ## The predicate window (R89) -/

/-- What LOOPW makes of the window and the counter: P, whether it loops, the counter's new value. -/
def loopWindow (p : BitVec 16) (a : Word) : BitVec 16 × Word :=
  let n := bitsAt a 0 32
  let stg := bitsAt a 32 4
  let p' := ((p <<< 1) ||| (if 0 < n then 1#16 else 0#16)) &&& BitVec.ofNat 16 (2 ^ (stg + 1) - 1)
  (p', if 0 < n then putBits a 0 32 (n - 1) else a)

/-- Whether a record is nullified at its forward (R38, R90): its stage predicate is 0, or its pass
lies past the kill horizon, or it is in the record hint region. -/
def nullified (c : Ctx) (r : Line) : Bool :=
  (bitAt r 0 && !bitAt c.main.p (bitsAt r 5 4))
    || (match c.hz with
      | some h => decide (h.toNat < c.lpass.toNat)
      | none => false)
    || decide (0xF00 ≤ opOf r)

/-! ## The fold class (R124 to R127) -/

def liveOf (cls : BitVec 8) : Nat := cls.toNat % 16
def halfOf (cls : BitVec 8) : Nat := cls.toNat / 16

/-- Live plies, highest first. -/
def foldOrder (cls : BitVec 8) : List Nat := [3, 2, 1, 0].filter fun n => liveOf cls / 2 ^ n % 2 == 1
def foldDepth (cls : BitVec 8) : Nat := (foldOrder cls).length
/-- Number of the highest live ply. -/
def foldTop (cls : BitVec 8) : Nat := (foldOrder cls).headD 0
/-- MX latency L (R127). -/
def mxLatency (cls : BitVec 8) : Nat := 6 + 2 * (foldTop cls + 1) + 2 * popNat 4 (halfOf cls)
def minII (cls : BitVec 8) : Nat := if halfOf cls = 0 then 1 else 2

/-- FOLD (R126). -/
def foldWord (cls : BitVec 8) : Word :=
  BitVec.ofNat 64 (minII cls * 2 ^ 24 + mxLatency cls * 2 ^ 16 + foldDepth cls * 2 ^ 8 + cls.toNat)

/-! ## Special registers -/

/-- REFMODE.CURRENT: bit n is 1 where the stack of die n is in doubled mode (R252, R253). -/
def refCurrent (s : State) : BitVec 8 :=
  BitVec.ofNat 8 ((List.range nDies).foldl (fun a d => a + if (getDie s d).hot then 2 ^ d else 0) 0)

def coreIdWord (k : Nat) : Word := BitVec.ofNat 64 (k % 16 * 32 * 256 + k % 128)
def dieIdWord (s : State) (d : Nat) : Word := BitVec.ofNat 64 ((getDie s d).plymask.toNat * 256 + d)
def pkgIdWord (s : State) : Word := BitVec.ofNat 64 (s.domain.toNat * 65536 + s.pkg.toNat)
def wayPartWord (c : Ctx) : Word :=
  BitVec.ofNat 64 (c.member.toNat * 65536 + c.gm1.toNat * 256 + c.w.toNat)
def prioWord (c : Ctx) : Word := BitVec.ofNat 64 (c.prioEff.toNat * 256 + c.prio.toNat)

/-- The record a column is expanding at a cycle: its first issue has gone and its last has not. Of two records whose
issues interleave, the one forwarded first. (DESIGN CHOICE, log entry 73.) -/
def expanding (c : Core) (col : Nat) : Option QRec :=
  c.queue.find? fun q => q.x.col == col && decide (0 < q.next) && decide (q.next < q.total)

/-- The nest position of issue `n` of a record (R36). -/
def nestAt (r : Line) (n : Nat) : Nat × Nat × Nat × Nat :=
  let t0 := tripOf r 0
  let t1 := tripOf r 1
  let t2 := tripOf r 2
  (n % t0, n / t0 % t1, n / (t0 * t1) % t2, n / (t0 * t1 * t2))

/-- MICROPC of a column (R41): the next issue of the record being expanded, zero with none. -/
def microPc (c : Core) (col : Nat) : Word :=
  match expanding c col with
  | some q =>
    let (i0, i1, i2, i3) := nestAt q.x.raw q.next
    BitVec.ofNat 64 (i3 * 2 ^ 48 + i2 * 2 ^ 32 + i1 * 2 ^ 16 + i0)
  | none => 0

/-- What GETS reads of register number `n` (R55, R97); none where the number is not listed, or is a
MICROPC read outside the shadow context. -/
def readSpecial (s : State) (n : Nat) : Option Word :=
  let c := curCore s
  let x := c.ctx
  if !specialListed n then none
  else if 0x30 ≤ n ∧ n ≤ 0x37 then (if x.inShadow then some (microPc c (n - 0x30)) else none)
  else if 0x08 ≤ n ∧ n ≤ 0x0F then some ((KMap.get 0 x.loopc (n - 8)).setWidth 64)
  else some (match n with
    | 0x00 => coreIdWord s.cur
    | 0x01 => dieIdWord s (curDie s)
    | 0x02 => pkgIdWord s
    | 0x10 => s.tempo
    | 0x11 => c.ctime
    | 0x18 => foldWord c.fold
    | 0x19 => x.foldrep
    | 0x1A => BitVec.ofNat 64 ((refCurrent s).toNat * 256 + x.latched.toNat)
    | 0x1B => x.widen
    | 0x20 => tapeStat c
    | 0x21 => wayPartWord x
    | 0x22 => BitVec.ofNat 64 (lsSize x)
    | 0x28 => x.trapCause
    | 0x29 => x.trapPc
    | 0x2A => x.trapInfo
    | 0x38 => prioWord x
    | 0x40 => s.feat0
    | 0x41 => s.feat1
    | _ => 0)

/-- What SETS changes (R5, R97): WIDEN from the main context, TRAPPC.PC and TRAPINFO from the shadow
context (DEDUCED, log entry 15); nothing elsewhere. -/
def writeSpecial (n : Nat) (v : Word) (c : Ctx) : Ctx :=
  if c.inShadow then
    if n = 0x29 then { c with trapPc := BitVec.ofNat 64 (v.toNat % 2 ^ 57) }
    else if n = 0x2A then { c with trapInfo := v }
    else c
  else if n = 0x1B then { c with widen := v }
  else c

end Sys2Proof.Machine
end

