-- ==== Sys2Proof/Machine/Scalar.lean ====
section
/-! DEFINITION. Meanings of the integer, bit, immediate and literal words (R74 to R80), the branches and
loops (R86 to R90), special registers, TRAP, ERET, YIELD and the hint region (R95, R97, R355 to R357,
R56). -/

namespace Sys2Proof.Machine

/-- A word of `size` bytes that writes `d` with a result latency (R70, R71). -/
def finishWord (size : Nat) (d : BitVec 5) (lat : Nat) (v : Word) (s : State) : Out :=
  .next (retire size 1 (setBusy d.toNat lat (writeG d v s)))

/-! ## Integer and bit words -/

/-- g[a] + g[b] mod 2^64 (R74). -/
def execAdd (d a b : BitVec 5) (s : State) : Out :=
  finishWord 4 d 1 (readG s a + readG s b) s

/-- g[a] − g[b] mod 2^64 (R74). -/
def execSub (d a b : BitVec 5) (s : State) : Out :=
  finishWord 4 d 1 (readG s a - readG s b) s

/-- Low 64 bits of the product (R74). -/
def execMul (d a b : BitVec 5) (s : State) : Out :=
  finishWord 4 d 3 (readG s a * readG s b) s

/-- Bits 127:64 of a signed product. -/
def mulHigh (a b : Word) : Word := ((a.signExtend 128 * b.signExtend 128) >>> 64).setWidth 64

/-- Bits 127:64 of an unsigned product. -/
def mulHighU (a b : Word) : Word := ((a.setWidth 128 * b.setWidth 128) >>> 64).setWidth 64

/-- Bits 127:64 of the signed product (R74). -/
def execMulh (d a b : BitVec 5) (s : State) : Out :=
  finishWord 4 d 3 (mulHigh (readG s a) (readG s b)) s

/-- Bits 127:64 of the unsigned product (R74). -/
def execMulhu (d a b : BitVec 5) (s : State) : Out :=
  finishWord 4 d 3 (mulHighU (readG s a) (readG s b)) s

/-- The four divisions share the trap on a zero divisor (R75): cause 0x05 where the task's
arithmetic-trap flag is set; otherwise the quotient is all ones and the remainder the dividend. -/
def divide (d : BitVec 5) (b v : Word) (s : State) : Out :=
  if b = 0 ∧ (curCtx s).atrap then raise 0x05 0 s else finishWord 4 d 20 v s

/-- Signed quotient toward zero (R75). -/
def execDiv (d a b : BitVec 5) (s : State) : Out :=
  divide d (readG s b) (if readG s b = 0 then BitVec.allOnes 64 else (readG s a).sdiv (readG s b)) s

/-- Unsigned quotient (R75). -/
def execDivu (d a b : BitVec 5) (s : State) : Out :=
  divide d (readG s b) (if readG s b = 0 then BitVec.allOnes 64 else readG s a / readG s b) s

/-- Signed remainder, of the sign of the dividend (R75). -/
def execRem (d a b : BitVec 5) (s : State) : Out :=
  divide d (readG s b) (if readG s b = 0 then readG s a else (readG s a).srem (readG s b)) s

/-- Unsigned remainder (R75). -/
def execRemu (d a b : BitVec 5) (s : State) : Out :=
  divide d (readG s b) (if readG s b = 0 then readG s a else readG s a % readG s b) s

/-- Bitwise (R74). -/
def execAnd (d a b : BitVec 5) (s : State) : Out :=
  finishWord 4 d 1 (readG s a &&& readG s b) s

/-- Bitwise (R74). -/
def execOr (d a b : BitVec 5) (s : State) : Out :=
  finishWord 4 d 1 (readG s a ||| readG s b) s

/-- Bitwise (R74). -/
def execXor (d a b : BitVec 5) (s : State) : Out :=
  finishWord 4 d 1 (readG s a ^^^ readG s b) s

/-- Left shift by g[b][5:0] (R74). -/
def execShl (d a b : BitVec 5) (s : State) : Out :=
  finishWord 4 d 1 (readG s a <<< bitsAt (readG s b) 0 6) s

/-- Logical right shift by g[b][5:0] (R74). -/
def execShr (d a b : BitVec 5) (s : State) : Out :=
  finishWord 4 d 1 (readG s a >>> bitsAt (readG s b) 0 6) s

/-- Arithmetic right shift by g[b][5:0] (R74). -/
def execSar (d a b : BitVec 5) (s : State) : Out :=
  finishWord 4 d 1 ((readG s a).sshiftRight (bitsAt (readG s b) 0 6)) s

/-- Signed minimum (R74). -/
def execMin (d a b : BitVec 5) (s : State) : Out :=
  finishWord 4 d 1 (if condLt (readG s a) (readG s b) then readG s a else readG s b) s

/-- Signed maximum (R74). -/
def execMax (d a b : BitVec 5) (s : State) : Out :=
  finishWord 4 d 1 (if condLt (readG s a) (readG s b) then readG s b else readG s a) s

/-- Unsigned minimum (R74). -/
def execMinu (d a b : BitVec 5) (s : State) : Out :=
  finishWord 4 d 1 (if condLtu (readG s a) (readG s b) then readG s a else readG s b) s

/-- Unsigned maximum (R74). -/
def execMaxu (d a b : BitVec 5) (s : State) : Out :=
  finishWord 4 d 1 (if condLtu (readG s a) (readG s b) then readG s b else readG s a) s

/-- 1 if g[a] < g[b] signed (R74). -/
def execSlt (d a b : BitVec 5) (s : State) : Out :=
  finishWord 4 d 1 (b2w (condLt (readG s a) (readG s b))) s

/-- 1 if g[a] < g[b] unsigned (R74). -/
def execSltu (d a b : BitVec 5) (s : State) : Out :=
  finishWord 4 d 1 (b2w (condLtu (readG s a) (readG s b))) s

/-- 1 if g[a] = g[b] (R74). -/
def execSeq (d a b : BitVec 5) (s : State) : Out :=
  finishWord 4 d 1 (b2w (condEq (readG s a) (readG s b))) s

/-- Leading zeros of g[a] (R74). -/
def execClz (d a : BitVec 5) (s : State) : Out :=
  finishWord 4 d 1 (BitVec.ofNat 64 (clzNat 64 (readG s a).toNat)) s

/-- Ones in g[a] (R74). -/
def execPopc (d a : BitVec 5) (s : State) : Out :=
  finishWord 4 d 1 (BitVec.ofNat 64 (popNat 64 (readG s a).toNat)) s

/-- g[a] (R74). -/
def execMov (d a : BitVec 5) (s : State) : Out :=
  finishWord 4 d 1 (readG s a) s

/-- g[a] + (g[b] << s) (R76). -/
def execLea (d a b : BitVec 5) (sh : BitVec 2) (s : State) : Out :=
  finishWord 4 d 1 (readG s a + (readG s b <<< sh.toNat)) s

/-- g[d] + g[a] × g[b], low 64 bits (R76). -/
def execMadd (d a b : BitVec 5) (s : State) : Out := finishWord 4 d 3 (readG s d + readG s a * readG s b) s

/-- g[a] where g[d] is not zero, else g[b] (R76). -/
def execSel (d a b : BitVec 5) (s : State) : Out :=
  finishWord 4 d 1 (if readG s d ≠ 0 then readG s a else readG s b) s

/-- The low 64 bits of the pair g[a], g[b] shifted right by n (R77). -/
def execFsh (d a b : BitVec 5) (n : BitVec 6) (s : State) : Out :=
  finishWord 4 d 1 (((readG s a ++ readG s b) >>> n.toNat).setWidth 64) s

/-- The field of `len1 + 1` bits at `pos`, zero-extended (R78). -/
def execBfx (d a : BitVec 5) (len1 pos : BitVec 6) (s : State) : Out :=
  finishWord 4 d 1 ((readG s a >>> pos.toNat) &&& BitVec.ofNat 64 (2 ^ (len1.toNat + 1) - 1)) s

/-- g[d] with the field of `len1 + 1` bits at `pos`, cut at bit 63, replaced by low bits of g[a]
(R78). -/
def execBfi (d a : BitVec 5) (len1 pos : BitVec 6) (s : State) : Out :=
  let m : Word := BitVec.ofNat 64 (2 ^ (len1.toNat + 1) - 1) <<< pos.toNat
  finishWord 4 d 1 ((readG s d &&& ~~~m) ||| ((readG s a <<< pos.toNat) &&& m)) s

/-- With imm15 sign-extended (R79). -/
def execAddi (d a : BitVec 5) (imm : BitVec 15) (s : State) : Out :=
  finishWord 4 d 1 (readG s a + sextW imm) s

/-- With imm15 sign-extended (R79). -/
def execAndi (d a : BitVec 5) (imm : BitVec 15) (s : State) : Out :=
  finishWord 4 d 1 (readG s a &&& sextW imm) s

/-- With imm15 sign-extended (R79). -/
def execOri (d a : BitVec 5) (imm : BitVec 15) (s : State) : Out :=
  finishWord 4 d 1 (readG s a ||| sextW imm) s

/-- With imm15 sign-extended (R79). -/
def execXori (d a : BitVec 5) (imm : BitVec 15) (s : State) : Out :=
  finishWord 4 d 1 (readG s a ^^^ sextW imm) s

/-- Shift by an immediate amount (R79). -/
def execShli (d a : BitVec 5) (n : BitVec 6) (s : State) : Out :=
  finishWord 4 d 1 (readG s a <<< n.toNat) s

/-- Shift by an immediate amount (R79). -/
def execShri (d a : BitVec 5) (n : BitVec 6) (s : State) : Out :=
  finishWord 4 d 1 (readG s a >>> n.toNat) s

/-- Shift by an immediate amount (R79). -/
def execSari (d a : BitVec 5) (n : BitVec 6) (s : State) : Out :=
  finishWord 4 d 1 ((readG s a).sshiftRight n.toNat) s

/-- The sign-extended literal (R80). -/
def execLiw (d : BitVec 5) (lit : BitVec 32) (s : State) : Out := finishWord 8 d 1 (sextW lit) s

/-- The literal above the low half of g[d] (R80). -/
def execLih (d : BitVec 5) (lit : BitVec 32) (s : State) : Out :=
  finishWord 8 d 1 (lit ++ (readG s d).setWidth 32) s

/-! ## Branches and loops -/

/-- Word `k` of the line at offset `line` of the instruction store. -/
def lineWord (c : Core) (line k : Nat) : IWord := BitVec.ofNat 32 (ofLeBytes (KMap.getList 0 c.istore (line + 4 * k) 4))

/-- Whether word `k` of a scalar line is the second of a Form L pair, reading the line from word 0
(R46; DEDUCED, log entry 16). -/
def isLiteralWord (c : Core) (line k : Nat) : Nat → Nat → Bool
  | 0, _ => false
  | fuel + 1, i =>
    if i = k then false
    else if k < i then true
    else isLiteralWord c line k fuel (i + if isFormL (lineWord c line i) then 2 else 1)

/-- The fault a branch target raises (R46, R87, R366), with TRAPINFO; none where it may be entered. A misaligned
target stands at no word, so it is misaligned alone, in a literal word or a record line too. (DEDUCED, log entry 71.) -/
def targetFault (c : Core) (t : Word) : Option (Nat × Word) :=
  let off := t.toNat - c.ctx.codeBase
  if t.toNat < c.ctx.codeBase ∨ c.ctx.codeSize ≤ off then some (0x02, 0)
  else if t.toNat % 4 ≠ 0 then some (0x04, BitVec.ofNat 64 (t.toNat % 2 ^ 57))
  else
    let line := off / 64 * 64
    let k := off % 64 / 4
    if isRecordMark (lineWord c line 0) then (if k = 0 then none else some (0x03, 0))
    else if isLiteralWord c line k 17 0 then some (0x03, 0)
    else none

/-- Continue at a target, after three issue cycles (R71, R87), or raise the target's fault. `s'` holds
what else the branch writes. -/
def goTo (t : Word) (s s' : State) : Out :=
  match targetFault (curCore s) t with
  | some (code, info) => raise code info s
  | none => .next (setPc t (setReady 3 s'))

/-- A conditional branch (R87). The hint bit changes nothing. -/
def branch (taken : Bool) (t : BitVec 3) (s : State) : Out :=
  if taken then goTo (readBt s t) s s else .next (retire 4 3 s)

/-- bt[N] := address of this word + 4 × the offset (R86). -/
def execPtb (t : BitVec 3) (off : BitVec 22) (s : State) : Out :=
  .next (retire 4 1 (setBusy (32 + t.toNat) 1 (writeBt t (pcOf s + (sextW off <<< 2)) s)))

/-- Branch where g[a] EQ g[b] (R54, R87). -/
def execBEq (t : BitVec 3) (a b : BitVec 5) (_h : BitVec 1) (s : State) : Out :=
  branch (condEq (readG s a) (readG s b)) t s

/-- Branch where g[a] NE g[b] (R54, R87). -/
def execBNe (t : BitVec 3) (a b : BitVec 5) (_h : BitVec 1) (s : State) : Out :=
  branch (condNe (readG s a) (readG s b)) t s

/-- Branch where g[a] LT g[b] (R54, R87). -/
def execBLt (t : BitVec 3) (a b : BitVec 5) (_h : BitVec 1) (s : State) : Out :=
  branch (condLt (readG s a) (readG s b)) t s

/-- Branch where g[a] GE g[b] (R54, R87). -/
def execBGe (t : BitVec 3) (a b : BitVec 5) (_h : BitVec 1) (s : State) : Out :=
  branch (condGe (readG s a) (readG s b)) t s

/-- Branch where g[a] LTU g[b] (R54, R87). -/
def execBLtu (t : BitVec 3) (a b : BitVec 5) (_h : BitVec 1) (s : State) : Out :=
  branch (condLtu (readG s a) (readG s b)) t s

/-- Branch where g[a] GEU g[b] (R54, R87). -/
def execBGeu (t : BitVec 3) (a b : BitVec 5) (_h : BitVec 1) (s : State) : Out :=
  branch (condGeu (readG s a) (readG s b)) t s

/-- Branch always (R54, R87). -/
def execJmp (t : BitVec 3) (_h : BitVec 1) (s : State) : Out := branch true t s

/-- Branch where the predicate window is not all zero (R54). -/
def execBPnz (t : BitVec 3) (_h : BitVec 1) (s : State) : Out := branch (readP s != 0) t s

/-- Branch where the predicate window is all zero (R54). -/
def execBPz (t : BitVec 3) (_h : BitVec 1) (s : State) : Out := branch (readP s == 0) t s

/-- The link, then bt[N] (R88). -/
def execCall (t : BitVec 3) (a : BitVec 5) (s : State) : Out :=
  goTo (readBt s t) s (setBusy a.toNat 1 (writeG a (pcOf s + 4) s))

/-- Continue at g[a] (R88). -/
def execRet (a : BitVec 5) (s : State) : Out := goTo (readG s a) s s

/-- What LOOPW does to the pass counter and the kill horizons of the task. The shadow context's own loops leave them
as they stand, so that a hold changes nothing of its segment (R24; DEDUCED, log entry 72). -/
def passes (f : Ctx → Ctx) (s : State) : State := updCtx (fun c => if c.inShadow then c else f c) s

/-- LOOPW (R89): the window shifts, the counter steps, and the loop goes on while P is not zero. -/
def execLoopw (t : BitVec 3) (a : BitVec 5) (s : State) : Out :=
  let (p, v) := loopWindow (readP s) (readG s a)
  let s' := if v = readG s a then s else setBusy a.toNat 1 (writeG a v s)
  if p ≠ 0 then
    goTo (readBt s t) s (passes (fun c => { c with lpass := c.lpass + 1 }) (writeP p s'))
  else .next (retire 4 3 (passes (fun c => { c with lpass := 0, hz := none }) (writeP 1 s')))

/-- LEAVE (R90): in a segment the current pass becomes the kill horizon; in loose code nothing. -/
def execLeave (s : State) : Out :=
  .next (retire 4 1 (if inSegment s then updCtx (fun c => { c with hz := some c.lpass }) s else s))

/-! ## Special registers, traps, hints -/

/-- GETS (R97): a number that is not listed, or MICROPC outside the shadow context, is illegal (R55). -/
def execGets (d : BitVec 5) (n : BitVec 15) (s : State) : Out :=
  match readSpecial s n.toNat with
  | some v => finishWord 4 d 1 v s
  | none => raise 0x00 0 s

/-- SETS (R97). -/
def execSets (a : BitVec 5) (n : BitVec 15) (s : State) : Out :=
  if !specialListed n.toNat then raise 0x00 0 s
  else looseOnly s (.next (retire 4 1 (updCtx (writeSpecial n.toNat (readG s a)) (spoil 0x20 s))))

/-- TRAP (R356): the handler at once in loose code, with TRAPPC past the word; in a segment the first
one is deferred to SEGE's completion. -/
def execTrap (n : BitVec 15) (s : State) : Out :=
  mainOnly s (
    let s := spoil 0x20 s
    if (curCtx s).seg.phase = .loose then
      .next (preciseTrap 0xFF (n.setWidth 64) (pcOf s + 4) s)
    else
      let o := segOffset s
      .next (retire 4 1 (updSeg (fun g => if g.trap.isNone then { g with trap := some (o, n) } else g) s)))

/-- ERET (R357): a full fence over the shadow context's accesses, then the return. -/
def execEret (s : State) : Out :=
  if (curCtx s).inShadow then .next (returnFromHandler (performAll (fun a => a.shadow) s)) else raise 0x00 0 s

/-- NOP (R56). -/
def execNop (s : State) : Out := .next (retire 4 1 s)

/-- A word of the hint region executes as NOP, whatever its other bits (R56). -/
def execHintRegion (_w : IWord) (s : State) : Out := .next (retire 4 1 s)

end Sys2Proof.Machine
end

