-- ==== Sys2Proof/Machine/ScalarMem.lean ====
section
/-! DEFINITION. Meanings of the scalar memory words: loads and stores (R81, R82), core scratchpad (R83),
atomics (R84, R85), WAITC (R94), FENCE (R262 to R266) and the range words (R228 to R230). -/

namespace Sys2Proof.Machine

/-! ## Loads and stores -/

/-- Effective address: g[a] plus the offset in units of the access size (R81). -/
def effAddr (a : BitVec 5) (off : BitVec 11) (size : Nat) (s : State) : Word :=
  readG s a + sextW off * BitVec.ofNat 64 size

/-- Scalar loads of the segment that have not landed (R82). -/
def loadsInFlight (c : Core) : Nat :=
  (c.pend.filter fun a => a.seg && a.kind == .load).length
    + (c.flights.filter fun f => match f.kind with
        | .load _ _ _ => true
        | _ => false).length
    + (c.retry.filter fun r => match r with
        | .access a _ => a.kind == .load
        | .issue _ _ _ _ => false).length

/-- A load of class `cls` now names its register as pending (R70). -/
def markLoading (d : BitVec 5) (id : Nat) (s : State) : State :=
  if d = 0 then s
  else updCore (fun c => { c with loading := KMap.set 0 c.loading (regKey c.ctx d.toNat) id }) s

/-- An access that has been checked enters the core's port: in a segment it performs 60 cycles after
its issue (R259), in loose code when nothing holds it, after its walk and the oracle's delay. A store
updates this die's remote-data cache copy in its issue cycle (R226). (DESIGN CHOICE, log entry 66.) -/
def enterPort (kind : AccKind) (r : BitVec 5) (va size : Nat) (data : Word) (cls : BitVec 4) (host hit : Bool)
    (s : State) : State :=
  let seg := inSegment s
  let shadow := (curCtx s).inShadow
  let (w, s) := if hit then (0, s) else walkLength s
  let s := if hit then s else noteWalk (curDie s) (curCtx s).asid va s
  let (delay, s) := if seg then (0, s) else drawOracle s
  let (b, s) := if seg then backInvalidate (host || pageLocked s (curCtx s).asid va) s else (0, s)
  let (id, s) := newAccess s
  let wr := accWrites kind
  let s := if wr then
      rdcUpdate (curDie s) (curCtx s).asid va (leBytes size data.toNat) (spoil 0x20 s)
    else s
  let a : Access :=
    { id := id, kind := kind, va := va, size := size, data := data, exp := 0, reg := r.toNat, cls := cls, scope := 0
      waits := waitsFor s cls wr shadow
      due := if seg then now s + 60 else clk s + w + delay
      seg := seg, shadow := shadow, host := host }
  let s := if wr then s else markLoading r id s
  let s := retire 4 1 s
  let s := issueAccess a s
  if seg && decide (0 < w + b) then pushEvent 0x100 0 (BitVec.ofNat 64 (w + b)) (pcOf s) s else s

/-- An access of a solo segment that does not translate: the core holds at the end of the cycle, and
the access is performed again after the hold, for the cycle it was scheduled for (R24, R248). -/
def retryLater (kind : AccKind) (r : BitVec 5) (va size : Nat) (data : Word) (cls : BitVec 4) (code level : Nat)
    (s : State) : State :=
  let (id, s) := newAccess s
  let a : Access :=
    { id := id, kind := kind, va := va, size := size, data := data, exp := 0, reg := r.toNat, cls := cls, scope := 0
      waits := [], due := now s + 60, seg := true, shadow := false, host := false }
  let pc := pcOf s
  let s := if accWrites kind then spoil 0x20 s else markLoading r id s
  let s := updCore (fun c => { c with retry := c.retry ++ [.access a pc] }) (retire 4 1 s)
  pushEvent code 0 (transInfo level 0 va (accWrites kind)) pc s

/-- A load or store word (R81, R82), with the causes in R366's order: misalignment, translation (in a gang segment a
miss of the translation cache is one, R248), the ninth load, not homed. -/
def memoryWord (kind : AccKind) (r : BitVec 5) (addr : Word) (size : Nat) (data : Word) (cls : BitVec 4)
    (s : State) : Out :=
  let va := addr.toNat
  let wr := accWrites kind
  let seg := inSegment s
  if va % size ≠ 0 then raise 0x04 (BitVec.ofNat 64 (va % 2 ^ 57)) s
  else if seg && !wr && decide (8 ≤ loadsInFlight (curCore s)) then
    match accessTr s va wr with
    | .fault c l => if isWakePage va then raise 0x2B 0 s else raise c (transInfo l 0 va wr) s
    | .ok _ hit => if segGang s && !hit then raise 0x10 (transInfo 3 0 va wr) s else raise 0x2B 0 s
  else if isWakePage va then
    if seg then raise 0x2C 0 s else .next (enterPort kind r va size data cls false true s)
  else
    match accessTr s va wr with
    | .fault c l =>
      if seg && !segGang s then .next (retryLater kind r va size data cls c l s)
      else raise c (transInfo l 0 va wr) s
    | .ok p hit =>
      if seg && segGang s && !hit then raise 0x10 (transInfo 3 0 va wr) s
      else if seg && p.host then raise 0x2C 0 s
      else .next (enterPort kind r va size data cls p.host hit s)

/-- Load 1 byte(s), zero-extended (R81). -/
def execLdB (d a : BitVec 5) (off : BitVec 11) (cls : BitVec 4) (s : State) : Out :=
  memoryWord .load d (effAddr a off 1 s) 1 0 cls s

/-- Load 2 byte(s), zero-extended (R81). -/
def execLdH (d a : BitVec 5) (off : BitVec 11) (cls : BitVec 4) (s : State) : Out :=
  memoryWord .load d (effAddr a off 2 s) 2 0 cls s

/-- Load 4 byte(s), zero-extended (R81). -/
def execLdW (d a : BitVec 5) (off : BitVec 11) (cls : BitVec 4) (s : State) : Out :=
  memoryWord .load d (effAddr a off 4 s) 4 0 cls s

/-- Load 8 byte(s), zero-extended (R81). -/
def execLdD (d a : BitVec 5) (off : BitVec 11) (cls : BitVec 4) (s : State) : Out :=
  memoryWord .load d (effAddr a off 8 s) 8 0 cls s

/-- Store the low 1 byte(s) of the source (R81). -/
def execStB (r a : BitVec 5) (off : BitVec 11) (cls : BitVec 4) (s : State) : Out :=
  memoryWord .store r (effAddr a off 1 s) 1 (readG s r) cls s

/-- Store the low 2 byte(s) of the source (R81). -/
def execStH (r a : BitVec 5) (off : BitVec 11) (cls : BitVec 4) (s : State) : Out :=
  memoryWord .store r (effAddr a off 2 s) 2 (readG s r) cls s

/-- Store the low 4 byte(s) of the source (R81). -/
def execStW (r a : BitVec 5) (off : BitVec 11) (cls : BitVec 4) (s : State) : Out :=
  memoryWord .store r (effAddr a off 4 s) 4 (readG s r) cls s

/-- Store the low 8 byte(s) of the source (R81). -/
def execStD (r a : BitVec 5) (off : BitVec 11) (cls : BitVec 4) (s : State) : Out :=
  memoryWord .store r (effAddr a off 8 s) 8 (readG s r) cls s

/-! ## Core scratchpad (R83) -/

/-- Whether a read of scratchpad bytes meets a watched byte (R210). -/
def watched (c : Core) (off n : Nat) : Bool := c.watches.any fun w => decide (off ≤ w.hi) && decide (w.lo < off + n)

/-- The cause of an LDS or STS, with TRAPINFO (R83, R354, R366); none where it performs. -/
def spFault (off size : Nat) : Option (Nat × Word) :=
  if off % size ≠ 0 then some (0x04, BitVec.ofNat 64 (off % 2 ^ 57))
  else if spSize < off + size then some (0x06, BitVec.ofNat 64 (off % 2 ^ 57))
  else none

/-- LDS: the bytes as they stand in this cycle, read 4 cycles on (R83). A poisoned byte is cause 0x44, and comes before
an early read of a watched one (R210, R360, R366). -/
def loadScratch (d a : BitVec 5) (off : BitVec 11) (size : Nat) (s : State) : Out :=
  let o := (effAddr a off size s).toNat
  match spFault o size with
  | some (code, info) => raise code info s
  | none =>
    if spBadIn (curCore s) o size then raise 0x44 0 s
    else if watched (curCore s) o size then raise 0x0C 2 s
    else finishWord 4 d 4 (BitVec.ofNat 64 (ofLeBytes (spRead (curCore s) o size))) s

/-- STS performs in the next cycle (R83): in a segment as a landing of that cycle, before those of the columns (R151);
elsewhere nothing reads the scratchpad before the next cycle's words. -/
def performSts (o : Nat) (bs : List Byte) (s : State) : State :=
  if inSegment s then
    let (id, s) := newId s
    updCore (fun c => { c with flights := c.flights ++ [⟨now s + 1, 0, now s, id, .sts o bs⟩] }) s
  else updCore (spWrite o bs) s

/-- STS: the low bytes of the source, which every column read of a later cycle sees (R83). -/
def storeScratch (r a : BitVec 5) (off : BitVec 11) (size : Nat) (s : State) : Out :=
  let o := (effAddr a off size s).toNat
  match spFault o size with
  | some (code, info) => raise code info s
  | none => .next (retire 4 1 (performSts o (leBytes size (readG s r).toNat) (spoil 0x20 s)))

/-- LDS of 1 byte(s) (R83); the class is ignored (R257). -/
def execLdsB (d a : BitVec 5) (off : BitVec 11) (_cls : BitVec 4) (s : State) : Out :=
  loadScratch d a off 1 s

/-- LDS of 2 byte(s) (R83); the class is ignored (R257). -/
def execLdsH (d a : BitVec 5) (off : BitVec 11) (_cls : BitVec 4) (s : State) : Out :=
  loadScratch d a off 2 s

/-- LDS of 4 byte(s) (R83); the class is ignored (R257). -/
def execLdsW (d a : BitVec 5) (off : BitVec 11) (_cls : BitVec 4) (s : State) : Out :=
  loadScratch d a off 4 s

/-- LDS of 8 byte(s) (R83); the class is ignored (R257). -/
def execLdsD (d a : BitVec 5) (off : BitVec 11) (_cls : BitVec 4) (s : State) : Out :=
  loadScratch d a off 8 s

/-- STS of 1 byte(s) (R83); the class is ignored (R257). -/
def execStsB (r a : BitVec 5) (off : BitVec 11) (_cls : BitVec 4) (s : State) : Out :=
  storeScratch r a off 1 s

/-- STS of 2 byte(s) (R83); the class is ignored (R257). -/
def execStsH (r a : BitVec 5) (off : BitVec 11) (_cls : BitVec 4) (s : State) : Out :=
  storeScratch r a off 2 s

/-- STS of 4 byte(s) (R83); the class is ignored (R257). -/
def execStsW (r a : BitVec 5) (off : BitVec 11) (_cls : BitVec 4) (s : State) : Out :=
  storeScratch r a off 4 s

/-- STS of 8 byte(s) (R83); the class is ignored (R257). -/
def execStsD (r a : BitVec 5) (off : BitVec 11) (_cls : BitVec 4) (s : State) : Out :=
  storeScratch r a off 8 s

/-! ## Atomics (R84, R85) -/

/-- An AMO or CAS outside a segment. It is a release of its class at its scope before it performs, so it waits for what
precedes it in its class and for the stores its context has observed, and an acquire after, so what follows it waits
for it (R85). It performs at once where nothing holds it, and in its turn else; a host page's word performs when the
host link completes it (R258). A misaligned word raises that cause wherever it stands (R366). -/
def atomicWord (kind : AccKind) (d a : BitVec 5) (scope : BitVec 2) (dbl : BitVec 1) (cls : BitVec 4) (data exp : Word)
    (s : State) : Out :=
  let size := if dbl = 1 then 8 else 4
  let va := (readG s a).toNat
  if va % size ≠ 0 then raise 0x04 (BitVec.ofNat 64 (va % 2 ^ 57)) s
  else looseOnly s (
    match accessTr s va true with
      | .fault c l => raise c (transInfo l 0 va true) s
      | .ok p hit =>
        let s := spoil 0x20 s
        let sh := (curCtx s).inShadow
        let (w, s) := if hit then (0, s) else walkLength s
        let s := if hit then s else noteWalk (curDie s) (curCtx s).asid va s
        let (h, s) := if p.host then drawOracle s else (0, s)
        let (id, s) := newAccess s
        let a : Access :=
          { id := id, kind := kind, va := va, size := size, data := data, exp := exp, reg := d.toNat, cls := cls
            scope := scope
            waits := waitsFor s cls true sh ++ (owedStores (curCore s) sh scope.toNat).filter (accessPending s)
            due := clk s + w + h, seg := false, shadow := sh, host := p.host }
        let f : FenceRec :=
          { id := id, ids := [id], reads := true, writes := true, shadow := sh, rel := false, scope := scope.toNat
            mask := BitVec.ofNat 16 (2 ^ cls.toNat), loads := [id] }
        let s := retire 4 1 (markLoading d id (updCore (fun c => { c with fences := c.fences ++ [f] }) s))
        .next (issueAccess a s))

/-- old + g[b], modulo the access size (R84). -/
def execAmoAdd (d a b : BitVec 5) (scope : BitVec 2) (dbl : BitVec 1) (cls : BitVec 4) (s : State) : Out :=
  atomicWord (.amo 0) d a scope dbl cls (readG s b) 0 s

/-- Bitwise and, modulo the access size (R84). -/
def execAmoAnd (d a b : BitVec 5) (scope : BitVec 2) (dbl : BitVec 1) (cls : BitVec 4) (s : State) : Out :=
  atomicWord (.amo 1) d a scope dbl cls (readG s b) 0 s

/-- Bitwise or, modulo the access size (R84). -/
def execAmoOr (d a b : BitVec 5) (scope : BitVec 2) (dbl : BitVec 1) (cls : BitVec 4) (s : State) : Out :=
  atomicWord (.amo 2) d a scope dbl cls (readG s b) 0 s

/-- Bitwise exclusive or, modulo the access size (R84). -/
def execAmoXor (d a b : BitVec 5) (scope : BitVec 2) (dbl : BitVec 1) (cls : BitVec 4) (s : State) : Out :=
  atomicWord (.amo 3) d a scope dbl cls (readG s b) 0 s

/-- Signed minimum, modulo the access size (R84). -/
def execAmoMin (d a b : BitVec 5) (scope : BitVec 2) (dbl : BitVec 1) (cls : BitVec 4) (s : State) : Out :=
  atomicWord (.amo 4) d a scope dbl cls (readG s b) 0 s

/-- Signed maximum, modulo the access size (R84). -/
def execAmoMax (d a b : BitVec 5) (scope : BitVec 2) (dbl : BitVec 1) (cls : BitVec 4) (s : State) : Out :=
  atomicWord (.amo 5) d a scope dbl cls (readG s b) 0 s

/-- g[b], modulo the access size (R84). -/
def execAmoSwap (d a b : BitVec 5) (scope : BitVec 2) (dbl : BitVec 1) (cls : BitVec 4) (s : State) : Out :=
  atomicWord (.amo 6) d a scope dbl cls (readG s b) 0 s

/-- g[b] where the old word equals g[d], over the access size (R84). -/
def execCas (d a b : BitVec 5) (scope : BitVec 2) (dbl : BitVec 1) (cls : BitVec 4) (s : State) : Out :=
  atomicWord .cas d a scope dbl cls (readG s b) (readG s d) s

/-! ## WAITC (R94) -/

/-- WAITC starts to wait; `waitcSatisfied` ends the wait. A misaligned word raises that cause wherever it stands
(R366). The wake page reads 0 to it, as to a load (R377; DEDUCED, log entry 69). -/
def execWaitc (d a b : BitVec 5) (cls : BitVec 4) (s : State) : Out :=
  let va := (readG s a).toNat
  let start (w : Nat) (s : State) : Out :=
    .next (setReady (1 + w) (updCtx (fun c => { c with wait := .waitc d.toNat va (readG s b) cls }) (spoil 0x20 s)))
  if va % 8 ≠ 0 then raise 0x04 (BitVec.ofNat 64 (va % 2 ^ 57)) s
  else looseOnly s (
    if isWakePage va then start 0 s
    else match translate s (curDie s) (curCtx s).asid va false with
      | .fault c l => raise c (transInfo l 0 va false) s
      | .ok _ hit =>
        let (w, s) := if hit then (0, s) else walkLength s
        start w (if hit then s else noteWalk (curDie s) (curCtx s).asid va s))

/-- Whether the reads of a WAITC may count: what precedes it in its class, and what fences put before it, has
performed (R260, R263). -/
def waitcOpen (cls : BitVec 4) (s : State) : Bool := (waitsFor s cls false (curCtx s).inShadow).isEmpty

/-- The word a WAITC reads, at its home slice, and whether it is poisoned: destination, threshold, class, word. -/
def waitcWord (s : State) : Option (Nat × Word × BitVec 4 × Word × Bool) :=
  match (curCtx s).wait with
  | .waitc d va thr cls =>
    if isWakePage va then some (d, thr, cls, 0, false)
    else match translate s (curDie s) (curCtx s).asid va false with
      | .ok p _ => some (d, thr, cls, BitVec.ofNat 64 (ofLeBytes (physBytes s p 8)), sectorBad s p)
      | .fault _ _ => none
  | _ => none

/-- WAITC_SATISFIED: the satisfying read is an acquire at package scope, and d takes the word (R94,
R227: 64 cycles). -/
def execWaitcSatisfied (s : State) : Out :=
  match waitcWord s with
  | some (d, thr, cls, w, bad) =>
    if bad then raise 0x44 0 (updCtx (fun c => { c with wait := .none }) s)
    else if thr.ule w then
      let s := updCtx (fun c => { c with wait := .none }) s
      let s := acquire 2 (BitVec.ofNat 16 (2 ^ cls.toNat)) s
      let s := setBusy d 64 (writeG (BitVec.ofNat 5 d) w s)
      .next (setReady 64 (retire 4 1 s))
    else .next s
  | none =>
    -- The page has gone since: the word executes again and takes its fault.
    .next (updCtx (fun c => { c with wait := .none }) s)

/-! ## FENCE (R262 to R266) -/

/-- Cycles in which a fence retires (R265). -/
def fenceCycles (kind scope : Nat) : Nat :=
  match kind, scope with
  | _, 0 => 2
  | 2, 1 => 20
  | 2, _ => 24
  | 1, 1 => 8
  | 1, _ => 72
  | _, 1 => 28
  | _, _ => 96

/-- Whether a scope reaches the place a pending store writes (R264), through the entry it translated by. -/
def scopeReaches (s : State) (scope : Nat) (a : Access) : Bool :=
  if scope = 1 then
    match heldTr s (curDie s) (curCtx s).asid a.va true with
    | .ok p _ => !p.host && homeDie p.pa == curDie s
    | .fault _ _ => false
  else if scope = 2 then !a.host
  else true

/-- A fence over the classes of a mask (R263): 0 full, 1 acquire, 2 release. A release counts the context's own
stores that its scope reaches and those the context has observed; a later one waits as well for the reads of an
acquire that is not complete. An acquire is complete at once where no read of its classes is pending, else when the
last of them performs. (DEDUCED, log entry 86.) -/
def fence (kind : Nat) (scope : BitVec 2) (mask : BitVec 16) (s : State) : Out :=
  if mask = 0 then raise 0x00 0 s
  else looseOnly s (
    let (id, s) := newAccess (spoil 0x20 s)
    let c := curCore s
    let sh := c.ctx.inShadow
    let e := c.pend.filter fun a => bitAt mask a.cls.toNat && a.shadow == sh
    let loads := (e.filter fun a => !accWrites a.kind).map Access.id
    let reach := (e.filter fun a => accWrites a.kind && scopeReaches s scope.toNat a).map Access.id
      ++ (owedStores c sh scope.toNat).filter (accessPending s)
      ++ (c.fences.filter fun f => f.shadow == sh).flatMap FenceRec.loads
    let f : FenceRec :=
      { id := id, ids := if kind = 1 then loads else loads ++ reach, reads := kind != 2, writes := true, shadow := sh
        rel := kind != 1, scope := scope.toNat, mask := mask, loads := if kind = 2 then [] else loads }
    let s := updCore (fun c => { c with fences := if f.ids.isEmpty then c.fences else c.fences ++ [f] }) s
    let s := if kind = 2 ∨ !loads.isEmpty then s else acquire scope.toNat mask s
    .next (retire 8 (fenceCycles kind scope.toNat) s))

/-- Full fence (R263). -/
def execFenceFull (scope : BitVec 2) (mask : BitVec 16) (s : State) : Out := fence 0 scope mask s
/-- Acquire fence (R263). -/
def execFenceAcq (scope : BitVec 2) (mask : BitVec 16) (s : State) : Out := fence 1 scope mask s
/-- Release fence (R263). -/
def execFenceRel (scope : BitVec 2) (mask : BitVec 16) (s : State) : Out := fence 2 scope mask s

/-! ## FLUSH, INVAL, DISCARD, PREF (R228 to R230) -/

/-- DRAM share of the context as R229 and R222 count it: none counts as one slot a cycle. -/
def shareOr1 (q : Nat) : Nat := if q = 0 then 1 else q

/-- The device bytes of the sectors of a range, with their tags: (va of the sector, device address).
Host-backed pages are left out (R228). -/
def rangeSectors (s : State) (va n : Nat) : List (Nat × Nat) :=
  (piecesOf va n).filterMap fun p =>
    match heldTr s (curDie s) (curCtx s).asid (p.1 / 64 * 64) false with
    | .ok q _ => if q.host then none else some (p.1 / 64 * 64, q.pa)
    | .fault _ _ => none

/-- The checks that FLUSH, INVAL and DISCARD share, the walks of the range, then what acts on the sectors. `f` gives
the state and the sectors acted on and written back. The wake page, which is mapped, holds no line (R377; DEDUCED,
log entry 69). -/
def rangeWord (a b : BitVec 5) (cls : BitVec 4) (f : Nat → Nat → State → State × Nat × Nat × Bool) (s : State) : Out :=
  let va := (readG s a).toNat
  let n := (readG s b).toNat
  looseOnly s (
    if 2 ^ 30 < n then raise 0x0E 4 s
    else if n = 0 then .next (retire 4 1 (spoil 0x20 s))
    else match lowestFault ((accessFaults s true va n).filter fun e => !isWakePage e.1) with
      | some (v, c, l) => raise c (transInfo l 0 v true) s
      | none =>
        let s := performEarlier cls true (spoil 0x20 s)
        let (w, s) := walkHere va n s
        let (s, acted, wrote, remote) := f va n s
        .next (retire 4 (w + 60 + ceilDiv acted 16 + ceilDiv wrote (shareOr1 (curCtx s).q) + if remote then 48 else 0) s))

def anyRemote (s : State) (l : List (Nat × Nat)) : Bool := l.any fun p => homeDie p.2 != curDie s

/-- FLUSH: every dirty sector that overlaps the range goes to DRAM and stays cached and clean. -/
def execFlush (a b : BitVec 5) (cls : BitVec 4) (s : State) : Out :=
  rangeWord a b cls (fun va n s =>
    let l := rangeSectors s va n
    let d := l.filter fun p => sectorDirty s p.2
    (d.foldl (fun s p => cleanLine (p.2 / 256) (BitVec.ofNat 4 (2 ^ (p.2 / 64 % 4))) s) s, l.length, d.length,
      anyRemote s l)) s

/-- INVAL: the dirty sectors of every line that overlaps the range go to DRAM, the lines are
invalidated, and this die's copies of them are dropped. -/
def execInval (a b : BitVec 5) (cls : BitVec 4) (s : State) : Out :=
  rangeWord a b cls (fun va n s =>
    let lo := va / 256 * 256
    let l := rangeSectors s lo ((va + n - 1) / 256 * 256 + 256 - lo)
    let d := l.filter fun p => sectorDirty s p.2
    let s' := (l.map fun p => p.2 / 256).eraseDups.foldl (fun s line => evictLine line s) s
    (rdcDropIf (curDie s) (fun r => r.asid == (curCtx s).asid && decide (lo / 256 ≤ r.va) && decide (r.va * 256 < va + n)) s',
      l.length, d.length, anyRemote s l)) s

/-- The sectors of `lo` to `hi - 1` (both multiples of 64) are dropped at their home slices without
write-back, and this die's copies of them (R228, R230). -/
def discardSpan (lo hi : Nat) (s : State) : State :=
  let drop (r : RdcLine) : RdcLine :=
    (List.range 4).foldl (fun r i =>
      if lo ≤ r.va * 256 + 64 * i ∧ r.va * 256 + 64 * i < hi then
        { r with valid := r.valid &&& ~~~(BitVec.ofNat 4 (2 ^ i)) } else r) r
  let s' := (if hi ≤ lo then [] else rangeSectors s lo (hi - lo)).foldl (fun s p => discardSector p.2 s) s
  updDie (curDie s) (fun d => { d with
    rdc := (d.rdc.map fun r => if r.asid = (curCtx s).asid then drop r else r).filter fun r => r.valid != 0 }) s'

/-- DISCARD: the sectors wholly inside the range are dropped (R230). -/
def execDiscard (a b : BitVec 5) (cls : BitVec 4) (s : State) : Out :=
  rangeWord a b cls (fun va n s =>
    let lo := (va + 63) / 64 * 64
    let hi := (va + n) / 64 * 64
    let l := if hi ≤ lo then [] else rangeSectors s lo (hi - lo)
    (discardSpan lo hi s, l.length, 0, anyRemote s l)) s

/-- The sectors of a range that PREF fills: those whose page translates now, to device memory (R228). -/
def prefSectors (s : State) (va n : Nat) : List (Nat × Nat) :=
  (piecesOf va n).filterMap fun p =>
    match translate s (curDie s) (curCtx s).asid (p.1 / 64 * 64) false with
    | .ok q _ => if q.host then none else some (p.1 / 64 * 64, q.pa)
    | .fault _ _ => none

/-- PREF of one sector: one homed elsewhere fills its home slice on the way, as a load does (DESIGN CHOICE, log
entry 88), and a copy that is there already stays (R227). -/
def prefSector (s : State) (p : Nat × Nat) : State :=
  let die := curDie s
  let asid := (curCtx s).asid
  if (rdcHit s die asid p.1 ⟨false, p.2⟩).isSome then s
  else
    let s := touchSector asid p.1 p.2 s
    if homeDie p.2 = die ∨ rdcShut s die then s
    else fillRdc die asid p.1 p.2 (physBytes s ⟨false, p.2⟩ 64) (sectorBad s ⟨false, p.2⟩) s

/-- PREF: a hint that fills lines, after the walks of their pages; it never faults, orders nothing and retires in
one cycle. -/
def execPref (a b : BitVec 5) (_cls : BitVec 4) (s : State) : Out :=
  let va := (readG s a).toNat
  let n := (readG s b).toNat
  looseOnly s (
    if 2 ^ 30 < n then raise 0x0E 4 s
    else
      let s := spoil 0x20 s
      let s := if n = 0 then s else
        let lo := va / 256 * 256
        let hi := (va + n - 1) / 256 * 256 + 256
        let s := (walkHere lo (hi - lo) s).2
        (prefSectors s lo (hi - lo)).foldl prefSector s
      .next (retire 4 1 s))

end Sys2Proof.Machine
end

