-- ==== Sys2Proof/Machine/Streams.lean ====
section
/-! DEFINITION. Stream registers: fields (R112), addresses (R113, R114), well-formedness (R117),
counters (R116), and the meanings of SDEF, SSET, SGET and SADV (R118 to R120). -/

namespace Sys2Proof.Machine

/-! ## Fields (R112) -/

def stBase (x : Line) : Nat := bitsAt x 0 57
def stSpace (x : Line) : Nat := bitsAt x 57 3
def stRowPitch (x : Line) : Nat := bitsAt x 64 32
def stTilePitch (x : Line) : Nat := bitsAt x 96 32
/-- ROWS + 1 and COLS + 1. -/
def stRows (x : Line) : Nat := bitsAt x 128 8 + 1
def stCols (x : Line) : Nat := bitsAt x 136 8 + 1
def stFmtCode (x : Line) : Nat := bitsAt x 144 8
def stRnd (x : Line) : Nat := bitsAt x 152 3
def stOvf (x : Line) : Bool := bitAt x 155
def stBlkAx (x : Line) : Nat := bitsAt x 156 2
/-- Block size: 8, 16 or 32. -/
def stBlk (x : Line) : Nat := 8 * 2 ^ bitsAt x 158 2
def stRot (x : Line) : Nat := bitsAt x 160 4
def stL2sc (x : Line) : Bool := bitAt x 164
def stScalePitch (x : Line) : Nat := bitsAt x 165 16
def stSeed (x : Line) : BitVec 64 := x.extractLsb' 192 64
def stTensor (x : Line) : Nat := bitsAt x 256 32
def stSatThr (x : Line) : Nat := bitsAt x 288 32
def stRowOrg (x : Line) : Nat := bitsAt x 320 32
def stColOrg (x : Line) : Nat := bitsAt x 352 32
def stSatCnt (x : Line) : Nat := bitsAt x 384 32
def stEmptyCnt (x : Line) : Nat := bitsAt x 416 32
def stScale2 (x : Line) : BitVec 32 := x.extractLsb' 448 32
def stScaleBase (x : Line) : Nat := bitsAt x 480 21

/-- The element format; reserved codes never stand in a well-formed register. -/
def stFmt (x : Line) : Fmt := (Fmt.ofCode (stFmtCode x)).getD .f32

/-- Bytes of one tile row (R113): ceil (columns × κ ÷ 8). -/
def stRowBytes (x : Line) : Nat := ceilDiv (stCols x * (stFmt x).width) 8

/-- Reserved fields of a stream register read zero (R5, R118). -/
def stClean (x : Line) : Line := putBits (putBits (putBits x 501 11 0) 181 11 0) 60 4 0

/-- Well-formedness (R117). -/
def streamOk (x : Line) : Bool :=
  match Fmt.ofCode (stFmtCode x) with
  | none => false
  | some f =>
    decide (stSpace x ≤ 2) && decide (stRows x ≤ 64) && (stRot x == 0 || stSpace x == 0)
      && (stSpace x != 0 || decide (stBase x < spSize)) && decide (stScaleBase x < spSize)
      && stBlkAx x != 3 && bitsAt x 158 2 != 3 && (f.isNarrow || (stBlkAx x == 0 && !stL2sc x))
      && (stBlkAx x != 1 || stCols x % stBlk x == 0) && (stBlkAx x != 2 || stRows x % stBlk x == 0)

/-! ## Addresses (R113, R114) -/

/-- Bank rotation of a scratchpad address in row r (R113): a[10:6] xor (r × ROT mod 32). -/
def rotate (x : Line) (r : Nat) (a : Nat) : Nat :=
  if stRot x = 0 then a else Nat.xor (a / 64 % 32) (r * stRot x % 32) * 64 + a % 64 + a / 2048 * 2048

/-- Start of row r of tile t, before rotation. -/
def rowStart (x : Line) (t : Int) (r : Nat) : Int := (stBase x : Int) + t * (stTilePitch x : Int) + (r * stRowPitch x : Nat)

/-- The scratchpad bytes of element column c of row r of tile t before rotation: address and count.
Narrow elements of a width that is no multiple of 8 reach into the bytes they share. -/
def elemStart (x : Line) (t : Int) (r c : Nat) : Int := rowStart x t r + (c * (stFmt x).width / 8 : Nat)

/-- The bounds of one row of a space-0 tile: the first offending byte (R113, R354); none where the row
lies inside. -/
def rowBound (x : Line) (t : Int) (r cols : Nat) : Option Int :=
  let a := rowStart x t r
  let n := ceilDiv (cols * (stFmt x).width) 8
  if a < 0 then some a
  else if (spSize : Int) < a + (n : Int) then some (max a (spSize : Int))
  else none

/-- Byte index in scratchpad of byte `k` of row r. -/
def rowByte (x : Line) (t : Int) (r k : Nat) : Nat := rotate x r ((rowStart x t r + (k : Int)).toNat)

/-- Address of the scale of row r, column c of tile t (R114). -/
def scaleAddr (x : Line) (t : Int) (r c : Nat) : Int :=
  let b := stBlk x
  if stBlkAx x = 1 then
    (stScaleBase x : Int) + (t * (stRows x : Int) + (r : Int)) * (stScalePitch x : Int) + (c / b : Nat)
  else
    (stScaleBase x : Int) + (t * ((stRows x / b : Nat) : Int) + ((r / b : Nat) : Int)) * (stScalePitch x : Int) + (c : Int)

/-! ## State -/

def streamAt (c : Ctx) (n : Nat) : Line := KMap.get 0 c.streams n

/-- Write a stream register whole; its poison mark goes (R360). -/
def putStream (n : Nat) (x : Line) (c : Core) : Core :=
  { c with
    streamBad := c.streamBad.filter fun i => i != n
    ctx := { c.ctx with streams := KMap.set 0 c.ctx.streams n x } }

/-- A column write counts out-of-range elements and empty blocks, up to 2^32 − 1 (R112, R116). -/
def addCount (k : Count) (c : Ctx) : Ctx :=
  if k.sat = 0 ∧ k.empty = 0 then c
  else
    let x := streamAt c k.stream
    let x := putBits x 384 32 (min (stSatCnt x + k.sat) (2 ^ 32 - 1))
    let x := putBits x 416 32 (min (stEmptyCnt x + k.empty) (2 ^ 32 - 1))
    { c with streams := KMap.set 0 c.streams k.stream x }

/-! ## Meanings -/

/-- Stream N takes a descriptor; its tail mask and expected tag become 0 (R118, R203, R208). -/
def defineStream (n : Nat) (x : Line) (s : State) : State :=
  updCore (fun c =>
    let c := putStream n (stClean x) c
    { c with ctx := { c.ctx with tm := KMap.set 0 c.ctx.tm n 0, xt := KMap.set 0 c.ctx.xt n 0 } }) (spoil 0x20 s)

/-- SDEF (R118): one 64-byte access of class c0, served as an LD; the wake page reads zero (R377). A misaligned
address raises that cause wherever the word stands (R366). -/
def execSdef (a : BitVec 5) (n : BitVec 6) (s : State) : Out :=
  let va := (readG s a).toNat
  if va % 64 ≠ 0 then raise 0x04 (BitVec.ofNat 64 (va % 2 ^ 57)) s
  else looseOnly s (
    if isWakePage va then .next (retire 4 40 (defineStream n.toNat 0 s))
    else match translate s (curDie s) (curCtx s).asid va false with
      | .fault c l => raise c (transInfo l 0 va false) s
      | .ok p hit =>
        let s1 := performEarlier 0 false s
        let (w, s1) := if hit then (0, s1) else walkLength s1
        let s1 := if hit then s1 else noteWalk (curDie s) (curCtx s).asid va s1
        let (h, s1) := if p.host then drawOracle s1 else (0, s1)
        let (l, s1) := loadHere 0 (curCtx s).inShadow va 64 p h s1
        let new : Line := BitVec.ofNat 512 (ofLeBytes l.bytes)
        if l.bad then raise 0x44 0 s1
        else if !streamOk new then raise 0x08 0 s1
        else .next (retire 4 (w + l.latency) (defineStream n.toNat new s1)))

/-- SSET (R119): word w of the stream; a result that is not well formed is refused with 0x08. -/
def execSset (a : BitVec 5) (w : BitVec 3) (n : BitVec 6) (s : State) : Out :=
  looseOnly s (
    let x := stClean (putBits (streamAt (curCtx s) n.toNat) (64 * w.toNat) 64 (readG s a).toNat)
    if !streamOk x then raise 0x08 0 s
    else .next (retire 4 1 (updCtx (fun c => { c with streams := KMap.set 0 c.streams n.toNat x }) (spoil 0x20 s))))

/-- SGET (R120): word w of the stream; a poisoned register is cause 0x44 (R360). -/
def execSget (d : BitVec 5) (w : BitVec 3) (n : BitVec 6) (s : State) : Out :=
  if (curCore s).streamBad.contains n.toNat then raise 0x44 0 s
  else finishWord 4 d 1 ((streamAt (curCtx s) n.toNat).extractLsb' (64 * w.toNat) 64) s

/-- The stream that SADV leaves (R120). -/
def advance (x : Line) (g : Word) : Line :=
  let step := (g.extractLsb' 0 32).toInt * (stTilePitch x : Int)
  let base := (((stBase x : Int) + step) % (2 ^ 57 : Nat)).toNat
  let base := if stSpace x = 0 then base % spSize else base
  let row := ((stRowOrg x : Int) + (g.extractLsb' 32 16).toInt) % (2 ^ 32 : Nat)
  let col := ((stColOrg x : Int) + (g.extractLsb' 48 16).toInt) % (2 ^ 32 : Nat)
  putBits (putBits (putBits x 0 57 base) 320 32 row.toNat) 352 32 col.toNat

/-- SADV (R120). -/
def execSadv (a : BitVec 5) (n : BitVec 6) (s : State) : Out :=
  if (curCore s).streamBad.contains n.toNat then raise 0x44 0 s
  else
    .next (retire 4 1 (updCtx (fun c =>
      { c with streams := KMap.set 0 c.streams n.toNat (advance (streamAt c n.toNat) (readG s a)) }) (spoil 0x20 s)))

end Sys2Proof.Machine
end

