-- ==== Sys2Proof/Machine/Operands.lean ====
section
/-! DEFINITION. Operands of record operations: names (R58), register and tile positions (R59, R113,
R130), elements read from and written to tiles (R102, R105, R107, R110), and what every issue does
beside its operation (R36 to R38, R361, R385). -/

namespace Sys2Proof.Machine

/-! ## Record fields (R57) -/

def recStamp (r : Line) : Nat := bitsAt r 32 32
def recII (r : Line) : Nat := bitsAt r 64 16
def nameD (r : Line) : Nat := bitsAt r 160 8
def nameA (r : Line) : Nat := bitsAt r 168 8
def nameB (r : Line) : Nat := bitsAt r 176 8
def recTS (r : Line) : Bool := bitAt r 4
def recCB (r : Line) : Bool := bitAt r 3
def recCE (r : Line) : Bool := bitAt r 2
def recNT (r : Line) : Bool := bitAt r 1
/-- Modifier field of `w` bits at MOD bit `n`. -/
def recMod (r : Line) (n w : Nat) : Nat := bitsAt r (424 + n) w
def modBit (r : Line) (n : Nat) : Bool := bitAt r (424 + n)
/-- Stride of level `k` of D, A or B. -/
def strideD (r : Line) (k : Nat) : Int := sbitsAt r (184 + 20 * k) 20
def strideA (r : Line) (k : Nat) : Int := sbitsAt r (264 + 20 * k) 20
def strideB (r : Line) (k : Nat) : Int := sbitsAt r (344 + 20 * k) 20
/-- Issues of a record (R36). -/
def recIssues (r : Line) : Nat := tripOf r 0 * tripOf r 1 * tripOf r 2 * tripOf r 3

/-! ## Operand names (R58) -/

def isStream (n : Nat) : Bool := decide (n < 0x40)
def isVec (n : Nat) : Bool := decide (0x40 ≤ n) && decide (n < 0x60)
def isAcc (n : Nat) : Bool := decide (0x60 ≤ n) && decide (n < 0x64)
def isReservedName (n : Nat) : Bool := decide (0x64 ≤ n) && decide (n < 0x80)
def isImm (n : Nat) : Bool := decide (0x80 ≤ n)
/-- Value of an immediate: −64 to 63. -/
def immOf (n : Nat) : Int := (n : Int) - 0xC0

/-! ## Positions (R59) -/

def posOf (off : Int) (st : Nat → Int) (x : Issue) : Int :=
  off + x.i0 * st 0 + x.i1 * st 1 + x.i2 * st 2 + x.i3 * st 3
def posD (x : Issue) : Int := posOf x.offD (strideD x.raw) x
def posA (x : Issue) : Int := posOf x.offA (strideA x.raw) x
def posB (x : Issue) : Int := posOf x.offB (strideB x.raw) x

/-- Register number an issue's operand stands at: checked at forward, so inside its file. -/
def vecD (x : Issue) : Nat := ((nameD x.raw : Int) - 0x40 + posD x).toNat
def vecA (x : Issue) : Nat := ((nameA x.raw : Int) - 0x40 + posA x).toNat
def vecB (x : Issue) : Nat := ((nameB x.raw : Int) - 0x40 + posB x).toNat
def accD (x : Issue) : Nat := ((nameD x.raw : Int) - 0x60 + posD x).toNat
def accA (x : Issue) : Nat := ((nameA x.raw : Int) - 0x60 + posA x).toNat

/-- Least and greatest value a nest gives an offset (R59). -/
def cornerLo (r : Line) (off : Int) (st : Nat → Int) : Int :=
  (List.range 4).foldl (fun a k => a + min 0 (st k * ((tripOf r k : Int) - 1))) off
def cornerHi (r : Line) (off : Int) (st : Nat → Int) : Int :=
  (List.range 4).foldl (fun a k => a + max 0 (st k * ((tripOf r k : Int) - 1))) off

/-- Whether a register operand stays in its file at both corners of the nest; streams and immediates
have no register to check. -/
def nameFits (r : Line) (name : Nat) (off : Int) (st : Nat → Int) : Bool :=
  let lo := cornerLo r off st
  let hi := cornerHi r off st
  if isVec name then decide (0 ≤ (name : Int) - 0x40 + lo) && decide ((name : Int) - 0x40 + hi ≤ 31)
  else if isAcc name then decide (0 ≤ (name : Int) - 0x60 + lo) && decide ((name : Int) - 0x60 + hi ≤ 3)
  else true

/-! ## What an issue's operation answers -/

/-- A fault of an issue: its cause and TRAPINFO. -/
abbrev Flt := Nat × Word

/-- An operation's issue: the causes it raises, or the state after it. -/
abbrev Perf := Except (List Flt) State

/-- Continue where no cause was found. -/
def checked (fs : List Flt) (k : Perf) : Perf := if fs.isEmpty then k else .error fs

/-- TRAPINFO's address for 0x06 and 0x0D (R354). -/
def addrInfo (a : Int) : Word := BitVec.ofInt 64 (a % (2 ^ 57 : Nat))

/-! ## Elements of scratchpad tiles -/

/-- The scratchpad bytes of an element: byte numbers, low bit in the first (R102, R113). -/
def elemBytes (x : Line) (t : Int) (r c : Nat) : List Nat :=
  let w := (stFmt x).width
  let b := c * w
  (List.range (ceilDiv (b % 8 + w) 8)).map fun i => rowByte x t r (b / 8 + i)

/-- The code of an element of a space-0 tile. Bits of a narrow element that run on past the scratchpad, which `elemBound`
lets pass, read as zero (DESIGN CHOICE, log entry 102). -/
def elemAt (core : Core) (x : Line) (t : Int) (r c : Nat) : Nat :=
  let w := (stFmt x).width
  ofLeBytes ((elemBytes x t r c).map fun a => KMap.get 0 core.sp a) / 2 ^ (c * w % 8) % 2 ^ w

/-- The bounds of one element (R113, R354): as R113 computes them, from the element's width alone (log entry 102). -/
def elemBound (x : Line) (t : Int) (r c : Nat) : List Flt :=
  let a := elemStart x t r c
  if a < 0 then [(0x06, addrInfo a)]
  else if (spSize : Int) < a + (ceilDiv (stFmt x).width 8 : Nat) then [(0x06, addrInfo (max a (spSize : Int)))]
  else []

/-- The bounds of rows `r0` to `r0 + n - 1` of a space-0 tile: the first row that breaks them. -/
def tileBound (x : Line) (t : Int) (r0 n : Nat) : List Flt :=
  match ((List.range n).filterMap fun i => rowBound x t (r0 + i) (stCols x)).head? with
  | some a => [(0x06, addrInfo a)]
  | none => []

/-- The bounds of one scale byte (R114). -/
def scaleBound (a : Int) : List Flt := if a < 0 ∨ (spSize : Int) ≤ a then [(0x06, addrInfo a)] else []

/-- The first of a list of faults that an access finds. -/
def firstFault (fs : List (List Flt)) : List Flt := (fs.find? fun f => !f.isEmpty).getD []

/-- The bytes of a space-0 tile's rows that an issue touches, as (byte number) lists. -/
def rowBytesAt (x : Line) (t : Int) (r n : Nat) : List Nat := (List.range n).map fun k => rowByte x t r k

/-- Sectors of a list of bytes. -/
def sectorsOf (bs : List Nat) : List Nat := (bs.map fun b => b / 64).eraseDups

/-- Whether a read meets a byte that an early-read watch covers (R210). -/
def earlyRead (core : Core) (bs : List Nat) : Bool := bs.any fun b => core.watches.any fun w => decide (w.lo ≤ b) && decide (b ≤ w.hi)

/-- What an engine read of scratchpad bytes meets: a watched byte (R210), a sector with another arrival
tag than the stream expects (R209), a poisoned sector (R360). Early read is reported before a tag. -/
def readFaults (core : Core) (stream : Option Nat) (first : Bool) (bs : List Nat) : List Flt :=
  let early := earlyRead core bs
  let want := match stream with
    | some n => KMap.get 0 core.ctx.xt n
    | none => 0
  let tag := first && want != 0 && (sectorsOf bs).any fun q => KMap.get 0 core.tags q != want
  let bad := (sectorsOf bs).any fun q => core.spBad.contains q
  (if early then [(0x0C, 2)] else if tag then [(0x0C, 1)] else []) ++ (if bad then [(0x42, 0)] else [])

/-- The exact value of an element with its block scale and SCALE2 (R105, R132); the readers of R105 round it
to binary32 where they write it. `scaled` is false where the operation suppresses block scales. -/
def elemVal (core : Core) (x : Line) (scaled : Bool) (t : Int) (r c : Nat) : Val :=
  let v := (stFmt x).decode (elemAt core x t r c)
  let v := if stBlkAx x ≠ 0 ∧ scaled then
      v.mul (Fmt.decode .e8 (KMap.get 0 core.sp (scaleAddr x t r c).toNat).toNat)
    else v
  if stL2sc x then v.mul (f32 (stScale2 x)) else v

/-! ## Writing elements -/

/-- The mode of a stream for the element at tensor coordinates (i, j) (R106, R109). -/
def stMode (x : Line) (i j : Nat) : Mode := Mode.ofCode (stRnd x) (drawAt (stSeed x) (stTensor x) i j)

/-- SCALE2 as a value, where a conversion divides by it (R429). -/
def divScale2 (x : Line) (v : Val) : Val := if stL2sc x then v.div (f32 (stScale2 x)) else v

/-- One element converted for a stream without block scales: its code and whether it counts (R107). -/
def convElem (x : Line) (i j : Nat) (v : Val) : Nat × Bool :=
  roundTo (stFmt x) (stMode x i j) (stOvf x) (if (stFmt x).isNarrow then divScale2 x v else v)

/-- A row of values for a stream whose blocks lie along rows, or with no blocks: the row's codes, its
scale bytes, and the counts (R107, R110). `i` is the tensor row, `j0` the tensor column of column 0. -/
def convRow (x : Line) (i j0 : Nat) (vs : List Val) : List Nat × List Nat × Nat × Nat :=
  if stBlkAx x = 1 then
    let bs := chunks (stBlk x) (ceilDiv vs.length (stBlk x)) vs
    let qs := bs.zipIdx.map fun b =>
      quantBlock (stFmt x) (stOvf x)
        (b.1.zipIdx.map fun v => (divScale2 x v.1, stMode x i (j0 + b.2 * stBlk x + v.2)))
    (qs.flatMap Block.codes, qs.map Block.scale, (qs.map Block.sat).sum, (qs.filter Block.empty).length)
  else
    let cs := vs.zipIdx.map fun v => convElem x i (j0 + v.2) v.1
    (cs.map Prod.fst, [], (cs.filter Prod.snd).length, 0)

/-- The bytes of a row of element codes, pad bits zero (R102). -/
def rowImage (f : Fmt) (codes : List Nat) : List Byte := leBytes (ceilDiv (codes.length * f.width) 8) (packCodes f.width codes)

/-- The scratchpad bytes a row of codes writes in tile t, row r (R113). -/
def rowWrites (x : Line) (t : Int) (r : Nat) (codes : List Nat) : List (Nat × Byte) :=
  (rowImage (stFmt x) codes).zipIdx.map fun b => (rowByte x t r b.2, b.1)

/-! ## Vector registers and accumulators (R128, R148) -/

def vecElem (c : Ctx) (v lane : Nat) : Elem := KMap.get 0 c.vregs (v * 1024 + lane)
def vecAll (c : Ctx) (v : Nat) : List Elem := (List.range 1024).map fun i => vecElem c v i
def accElem (c : Ctx) (a m n : Nat) : Elem := KMap.get 0 c.acc (a * 4096 + 64 * m + n)

/-- Poison among the elements of a vector register that are read (R360). -/
def vecBadIn (c : Core) (v : Nat) (read : Nat → Bool) : List Flt :=
  if c.vBad.any fun i => i / 1024 == v && read (i % 1024) then [(0x42, 0)] else []

/-- Poison of any element of a vector register. -/
def vecBad (c : Core) (v : Nat) : List Flt := vecBadIn c v fun _ => true

/-- Poison among the elements of an accumulator that are read. -/
def accBadIn (c : Core) (a : Nat) (read : Nat → Bool) : List Flt :=
  if c.accBad.any fun i => i / 4096 == a && read (i % 4096) then [(0x42, 0)] else []

/-- Write a whole vector register; its poison marks go. -/
def putVec (v : Nat) (vals : List Elem) (c : Core) : Core :=
  { c with
    vBad := c.vBad.filter fun i => i / 1024 != v
    ctx := { c.ctx with vregs := KMap.setList 0 c.ctx.vregs (v * 1024) vals } }

/-- A bit of a vector register's 4 KiB image: byte 64m of the image starts row m of a pass (R130). -/
def vecImageBits (c : Ctx) (v start n : Nat) : Nat :=
  (List.range (ceilDiv (start % 32 + n) 32)).foldr
    (fun i a => (vecElem c v (start / 32 + i)).toNat + 2 ^ 32 * a) 0 / 2 ^ (start % 32) % 2 ^ n

/-! ## Flights -/

/-- Put a result in flight: it lands `lat` cycles from now; `issued` is the cycle of the issue it comes from. -/
def launchFrom (issued : Nat) (x : Issue) (lat : Nat) (k : FKind) (s : State) : State :=
  let (id, s) := newId s
  updCore (fun c => { c with flights := c.flights ++ [⟨c.ctime.toNat + lat, x.col, issued, id, k⟩] }) s

/-- Put the result of an issue of this cycle in flight. -/
def launchFlight (x : Issue) (lat : Nat) (k : FKind) (s : State) : State := launchFrom (now s) x lat k s

/-- Remove a flight that lands. -/
def dropFlight (f : Flight) (s : State) : State :=
  updCore (fun c => { c with flights := c.flights.filter fun g => g.seq != f.seq }) s

/-! ## Spacing and collisions (R37) -/

/-- Records of a column whose next issue falls in this cycle. -/
def dueRecords (c : Core) (col : Nat) : List QRec :=
  c.queue.filter fun q => q.x.col == col && decide (q.next < q.total) && q.start + q.next * q.ii == c.ctime.toNat

/-- Whether an issue of a column collides: another issue of the column is due or has gone in this
cycle, or the column's spacing forbids the cycle (`free` is the first cycle it allows). -/
def collides (c : Core) (col free : Nat) : Bool :=
  decide (1 < (dueRecords c col).length) || KMap.get 0 c.lastIssue col == c.ctime.toNat + 1
    || decide (c.ctime.toNat < free)

/-- The queue after an issue of record `seq`. A record keeps its place to the end of the cycle of its last
issue (R37). -/
def advanceQueue (seq : Nat) (q : List QRec) : List QRec :=
  q.map fun r => if r.x.seq = seq then { r with next := r.next + 1 } else r

/-- Records with issues to come. -/
def liveRecords (q : List QRec) : List QRec := q.filter fun r => decide (r.next < r.total)

/-- Address of the record line an issue belongs to. -/
def issuePc (c : Core) (seq : Nat) : Word := ((c.queue.find? fun r => r.x.seq == seq).map QRec.pc).getD (regs c.ctx).pc

/-! ## Windows and notifications (R361, R385) -/

/-- A command window opens at this cycle: what a replay returns to its value (R116, R144, R325, R362). -/
def openWindow (c : Core) : Core :=
  let m : Marker :=
    { m := c.ctime.toNat
      counts := (List.range 64).foldl (fun k n => KMap.set 0 k n ((streamAt c.ctx n).extractLsb' 384 64)) []
      accSt := c.ctx.accSt, foldrep := c.ctx.foldrep, blks := c.ctx.blks, nanb := c.ctx.nanb
      scores := c.ctx.scores, drain := c.drain, chains := c.ctx.seg.chains }
  { c with ctx := { c.ctx with seg := { c.ctx.seg with mark := m, hist := [], replayed := false, endReplayed := false } } }

/-- The flag of a column is set; when every masked flag is set, they clear and a notification is raised
(R385). Inside a segment it is held until SEGE completes. -/
def setNotify (col : Nat) (c : Core) : Core :=
  let x := c.ctx
  if x.notifyMask = 0 then { c with ctx := { x with notify := x.notify ||| BitVec.ofNat 8 (2 ^ col) } }
  else
    let n := x.notify ||| BitVec.ofNat 8 (2 ^ col)
    if n &&& x.notifyMask = x.notifyMask then
      { c with ctx := { x with notify := n &&& ~~~x.notifyMask, seg := { x.seg with notes := x.seg.notes + 1 } } }
    else { c with ctx := { x with notify := n } }

/-! ## The issue itself -/

/-- Columns whose issues a window replay performs again (R362): MX, VA, VB, SF, OX, NB.SCORE, NB.STAT. -/
def replayable (x : Issue) : Bool :=
  (decide (1 ≤ x.col) && decide (x.col ≤ 4)) || x.col == 6 || (x.col == 7 && (opOf x.raw == 0 || opOf x.raw == 3))

/-- Whether a record with TS starts in this cycle, in any column: the window then opens before the cycle's first
issue, since it holds every issue of the cycle (R361). -/
def windowOpens (c : Core) : Bool :=
  c.ctx.seg.mark.m != c.ctime.toNat
    && c.queue.any fun q => q.next == 0 && q.start == c.ctime.toNat && recTS q.x.raw && !q.x.nul

/-- What every issue does before its operation: it takes its cycle and its place in the queue, and joins the
window's history, after the window has opened where a record with TS starts. A colliding issue performs nothing, and a
replay performs it as little (R37, R362). -/
def beginIssue (clash : Bool) (x : Issue) (s : State) : State :=
  updCore (fun c =>
    let c := if windowOpens c then openWindow c else c
    let c := { c with
      queue := advanceQueue x.seq c.queue
      lastIssue := KMap.set 0 c.lastIssue x.col (c.ctime.toNat + 1) }
    if replayable x && !x.nul && !clash then
      { c with ctx := { c.ctx with seg := { c.ctx.seg with hist := c.ctx.seg.hist ++ [(c.ctime.toNat, x, issuePc c x.seq)] } } }
    else c) s

/-- What the last issue of a record with NT does after it (R385). -/
def endIssue (x : Issue) (s : State) : State := if x.last && recNT x.raw then updCore (setNotify x.col) s else s

/-- Raise the causes of an issue: they wait for the end of the cycle (R366). -/
def pushFaults (col : Nat) (pc : Word) (fs : List Flt) (s : State) : State :=
  updCore (fun c => { c with events := c.events ++ fs.map fun f => ⟨f.1, col, f.2, pc⟩ }) s

/-- Whether a cause is a translation fault, which holds a solo segment (R24, R248). -/
def isTransFault (code : Nat) : Bool := decide (0x10 ≤ code) && decide (code ≤ 0x14)

/-- An issue is performed again after the hold, for the cycle it was scheduled for (R24). -/
def keepIssue (x : Issue) (s : State) : State :=
  updCore (fun c => { c with retry := c.retry ++ [.issue x c.ctime.toNat (issuePc c x.seq) c.sp] }) s

/-- An issue of a solo segment whose access does not translate is performed again after the hold (R24, R248). -/
def keepForRetry (x : Issue) (fs : List Flt) (s : State) : State :=
  if (fs.any fun f => isTransFault f.1) && !segGang s then keepIssue x s else s

/-- One issue of a record operation (R36, R37, R38): a colliding issue performs nothing and raises 0x25;
a nullified one keeps its cycle and performs nothing; any other performs its operation. (DEDUCED, log entry 39.) -/
def issueStep (x : Issue) (free : Nat) (perform : State → Perf) (s : State) : Out :=
  let c := curCore s
  let pc := issuePc c x.seq
  let clash := collides c x.col free
  let s1 := beginIssue clash x s
  .next (
    if clash then pushFaults x.col pc [(0x25, 0)] s1
    else if x.nul then endIssue x s1
    else match perform s1 with
      | .ok t => endIssue x t
      | .error fs => pushFaults x.col pc fs (keepForRetry x fs (endIssue x s1)))

end Sys2Proof.Machine
end

