-- ==== Sys2Proof/Machine/Mx.lean ====
section
/-! DEFINITION. The matrix column: forward conditions (R129, R131), the issues of MMA, MPASS, MZERO,
MLOAD, MDRAIN, MSTORE, MREP and MCHAIN (R130 to R143), their landing stage and the drain push. -/

namespace Sys2Proof.Machine

/-! ## Formats of a pass (R124, R129) -/

/-- Formats MMA and MPASS take. -/
def mmaFmt : Fmt → Bool
  | .narrow _ _ _ _ => true
  | .bf16 => true
  | .f16 => true
  | .i8 => true
  | .u8 => true
  | _ => false

/-- Ply slice width of a format's group (R124). -/
def sliceWidth : Fmt → Nat
  | .narrow _ _ _ k => if k ≤ 4 then 8 else 4
  | .i8 => 4
  | .u8 => 4
  | _ => 1

/-- The format of operand A or B of a pass: the stream's, or the modifier's for a vector register. -/
def passFmtA (r sA : Line) : Option Fmt := if isStream (nameA r) then some (stFmt sA) else Fmt.ofCode (recMod r 8 8)
def passFmtB (r sB : Line) : Option Fmt := if isStream (nameB r) then some (stFmt sB) else Fmt.ofCode (recMod r 16 8)

/-- Slice width w and k-range Kp of a pass (R124). -/
def passWidth (r sA sB : Line) : Nat :=
  min (((passFmtA r sA).map sliceWidth).getD 1) (((passFmtB r sB).map sliceWidth).getD 1)
def passRange (fold : BitVec 8) (r sA sB : Line) : Nat := foldDepth fold * passWidth r sA sB

/-! ## Forward conditions (R129, R131) -/

def mmaStreamOk (x : Line) : Bool := stSpace x == 0 && stRows x == 64 && mmaFmt (stFmt x) && decide (stBlkAx x ≤ 1)
def passOperandOk (name : Nat) (x : Line) (f : Option Fmt) : Bool :=
  if isStream name then mmaStreamOk x
  else isVec name && (match f with
    | some f => mmaFmt f
    | none => false)

def wideFloat (f : Fmt) : Bool := f == .f32 || f == .bf16 || f == .f16
def drainFmt (f : Fmt) : Bool := f.isNarrow || wideFloat f

/-- What a record of column MX must meet at forward. -/
def mxRecordOk (fold : BitVec 8) (r sD sA sB : Line) : Bool :=
  match opOf r with
  | 0x000 =>
    isAcc (nameD r) && passOperandOk (nameA r) sA (passFmtA r sA) && passOperandOk (nameB r) sB (passFmtB r sB)
  | 0x001 =>
    isAcc (nameD r) && passOperandOk (nameA r) sA (passFmtA r sA) && passOperandOk (nameB r) sB (passFmtB r sB)
      && decide (recMod r 0 6 ≤ passRange fold r sA sB)
  | 0x002 => isAcc (nameD r)
  | 0x003 =>
    isAcc (nameD r) && (isVec (nameA r)
      || (isStream (nameA r) && stSpace sA == 0 && stRows sA == 64 && stCols sA == 64 && wideFloat (stFmt sA)))
  | 0x004 => isAcc (nameA r) && isStream (nameB r) && drainFmt (stFmt sB) && decide (stBlkAx sB ≤ 1)
  | 0x005 =>
    isStream (nameD r) && isAcc (nameA r) && stSpace sD == 0 && stRows sD == 64 && stCols sD == 64
      && drainFmt (stFmt sD) && (decide (stBlkAx sD ≤ 1) || decide (stBlk sD ≤ 16))
  | 0x006 => isVec (nameD r) && isAcc (nameA r)
  | 0x010 => isAcc (nameD r)
  | _ => false

/-- Accumulators a record's nest names as D (R358). -/
def accsNamed (r : Line) (offD : Int) : BitVec 4 :=
  if !isAcc (nameD r) then 0
  else
    let lo := ((nameD r : Int) - 0x60 + cornerLo r offD (strideD r)).toNat
    let hi := ((nameD r : Int) - 0x60 + cornerHi r offD (strideD r)).toNat
    BitVec.ofNat 4 (((List.range 4).filter fun k => decide (lo ≤ k) && decide (k ≤ hi)).foldl (fun a k => a + 2 ^ k) 0)

/-! ## Operands of a pass (R130) -/

/-- Tile and column of element k of pass p. -/
def chunkAt (x : Line) (kp : Nat) (p : Int) (k : Nat) : Int × Nat :=
  let c := p * kp + k
  (c / (stCols x : Int), (c % (stCols x : Int)).toNat)

/-- Faults of reading one operand of a pass. -/
def chunkFaults (core : Core) (x : Line) (n : Nat) (scaled first : Bool) (kp kv : Nat) (p : Int) : List Flt :=
  let at_ := (List.range 64).flatMap fun m => (List.range kv).map fun k => (m, chunkAt x kp p k)
  let sc := stBlkAx x ≠ 0 && scaled
  let b := firstFault (at_.map fun e => elemBound x e.2.1 e.1 e.2.2
    ++ if sc then scaleBound (scaleAddr x e.2.1 e.1 e.2.2) else [])
  let bytes := at_.flatMap fun e =>
    elemBytes x e.2.1 e.1 e.2.2 ++ if sc then [(scaleAddr x e.2.1 e.1 e.2.2).toNat] else []
  b ++ readFaults core (some n) first bytes

/-- Row m of an operand of a pass: its valid elements' exact values. -/
def chunkRow (core : Core) (name : Nat) (x : Line) (f : Fmt) (v : Nat) (scaled : Bool) (kp kv : Nat) (p : Int)
    (m : Nat) : List Val :=
  if isStream name then
    (List.range kv).map fun k =>
      let (t, c) := chunkAt x kp p k
      elemVal core x scaled t m c
  else (List.range kv).map fun k => f.decode (vecImageBits core.ctx v (512 * m + f.width * k) f.width)

/-! ## The sums of a pass (R132, R133) -/

/-- The exact sum of products: an exact zero is +0 (R133). -/
def sumVals (vs : List Val) : Val :=
  if vs.any Val.isNan then .nan
  else
    let p := vs.any fun v => v == .inf false
    let n := vs.any fun v => v == .inf true
    if p && n then .nan
    else if p then .inf false
    else if n then .inf true
    else Val.ofRat ((vs.map Val.toRat).foldl (· + ·) 0)

/-- A binary32 addition by RNE; every NaN is 0x7FC0_0000 (R133). -/
def addRne (a : Elem) (b : Val) : Elem := rneF32 ((f32 a).add false b)

/-- The partial sum of one element of a pass, chunk by chunk in fold order (R132). -/
def passSum (w d : Nat) (a b : List Val) : Elem :=
  (List.range d).foldl (fun y j =>
    let ps := ((a.zip b).drop (j * w)).take w
    if ps.isEmpty then y else addRne y (sumVals (ps.map fun p => p.1.mul p.2))) 0

/-- Valid elements of a pass's rows: the k-range, or KT of MPASS (R131). -/
def passValid (mp : Bool) (c : Core) (x : Issue) : Nat :=
  let kt := recMod x.raw 0 6
  if mp && decide (kt ≠ 0) then kt else passRange c.fold x.raw x.sA x.sB

/-- Poison among the elements that a pass reads of a vector register: of each row its valid elements (R130, R360). -/
def passBad (c : Core) (v : Nat) (f : Option Fmt) (kv : Nat) : List Flt :=
  vecBadIn c v fun i => decide (32 * (i % 16) < (f.getD .bf16).width * kv)

/-- The causes that the operands of a pass raise. -/
def passFaults (mp : Bool) (x : Issue) (s : State) : List Flt :=
  let c := curCore s
  let r := x.raw
  let kp := passRange c.fold r x.sA x.sB
  let kv := passValid mp c x
  (if isStream (nameA r) then chunkFaults c x.sA (nameA r) (!modBit r 24) x.first kp kv (posA x)
    else passBad c (vecA x) (passFmtA r x.sA) kv)
    ++ if isStream (nameB r) then chunkFaults c x.sB (nameB r) (!modBit r 25) x.first kp kv (posB x)
    else passBad c (vecB x) (passFmtB r x.sB) kv

/-- Row m of operand A of a pass, and row n of operand B. -/
def passRowA (mp : Bool) (c : Core) (x : Issue) (m : Nat) : List Val :=
  chunkRow c (nameA x.raw) x.sA ((passFmtA x.raw x.sA).getD .bf16) (vecA x) (!modBit x.raw 24)
    (passRange c.fold x.raw x.sA x.sB) (passValid mp c x) (posA x) m
def passRowB (mp : Bool) (c : Core) (x : Issue) (n : Nat) : List Val :=
  chunkRow c (nameB x.raw) x.sB ((passFmtB x.raw x.sB).getD .bf16) (vecB x) (!modBit x.raw 25)
    (passRange c.fold x.raw x.sA x.sB) (passValid mp c x) (posB x) n

/-- Issue of MMA (`mp = false`) or MPASS. -/
def passPerform (mp : Bool) (x : Issue) (s : State) : Perf :=
  let c := curCore s
  checked (passFaults mp x s) (
    let bs := (List.range 64).map (passRowB mp c x)
    let ys := (List.range 64).flatMap fun m =>
      let a := passRowA mp c x m
      bs.map fun b => passSum (passWidth x.raw x.sA x.sB) (foldDepth c.fold) a b
    .ok (launchFlight x (mxLatency c.fold) (.mx x ys) s))

/-! ## The other issues: they act in the landing stage (R128) -/

/-- Row group of an issue of MLOAD, MDRAIN or MSTORE (R135). -/
def rowGroup (x : Issue) : Nat := (recMod x.raw 0 2 + x.i0) % 4

/-- An issue that reads nothing before its landing stage. -/
def landOnly (x : Issue) (s : State) : Perf := .ok (launchFlight x (mxLatency (curCore s).fold) (.mx x []) s)

/-- The causes that MLOAD's source raises. -/
def mloadFaults (x : Issue) (s : State) : List Flt :=
  let c := curCore s
  let g := rowGroup x
  if isStream (nameA x.raw) then
    tileBound x.sA (posA x) (16 * g) 16 ++ readFaults c (some (nameA x.raw)) x.first
      ((List.range 16).flatMap fun i => rowBytesAt x.sA (posA x) (16 * g + i) (stRowBytes x.sA))
  else vecBad c (vecA x)

/-- MLOAD reads its source in the issue cycle, exactly as binary32 (R136). -/
def mloadPerform (x : Issue) (s : State) : Perf :=
  let c := curCore s
  let g := rowGroup x
  let vs := if isStream (nameA x.raw) then
      (List.range 16).flatMap fun i => (List.range 64).map fun n =>
        BitVec.ofNat 32 (widenF32 (stFmt x.sA) (elemAt c x.sA (posA x) (16 * g + i) n))
    else vecAll c.ctx (vecA x)
  checked (mloadFaults x s) (.ok (launchFlight x (mxLatency c.fold) (.mx x vs) s))

/-- The bounds of MSTORE's tile rows and scales, which it checks at issue (R113, R114, R139). -/
def mstoreFaults (x : Issue) : List Flt :=
  let g := rowGroup x
  let t := posD x
  let b := tileBound x.sD t (16 * g) 16
  let sc := if stBlkAx x.sD = 0 then [] else
    firstFault ((List.range 16).flatMap fun i => (List.range 64).map fun n =>
      scaleBound (scaleAddr x.sD t (16 * g + i) n))
  if b.isEmpty then sc else b

/-- Issue of MSTORE. -/
def mstorePerform (x : Issue) (s : State) : Perf := checked (mstoreFaults x) (landOnly x s)

/-! ## Accumulators in the landing stage -/

def accStateOf (c : Ctx) (a : Nat) : AccState := KMap.get AccState.zero c.accSt a
def chainOf (c : Ctx) (a : Nat) : Chain := KMap.get Chain.closed c.seg.chains a
def putAccState (a : Nat) (st : AccState) (c : Ctx) : Ctx := { c with accSt := KMap.set AccState.zero c.accSt a st }
def putChain (a : Nat) (h : Chain) (c : Ctx) : Ctx :=
  { c with seg := { c.seg with chains := KMap.set Chain.closed c.seg.chains a h } }

/-- Write accumulator elements from element `k` on; whole elements lose their poison marks. -/
def putAcc (a k : Nat) (vals : List Elem) (c : Core) : Core :=
  { c with
    accBad := c.accBad.filter fun i => !(decide (a * 4096 + k ≤ i) && decide (i < a * 4096 + k + vals.length))
    ctx := { c.ctx with acc := KMap.setList 0 c.ctx.acc (a * 4096 + k) vals } }

/-- An accumulator as MZERO leaves it (R135). -/
def zeroAcc (a : Nat) (c : Core) : Core :=
  { c with
    accBad := c.accBad.filter fun i => i / 4096 != a
    ctx := putAccState a AccState.zero { c.ctx with acc := KMap.clearRange c.ctx.acc (a * 4096) (a * 4096 + 4096) } }

/-- Fold order as R141 packs it. -/
def orderBits (cls : BitVec 8) : Nat := (foldOrder cls).zipIdx.foldl (fun n p => n + p.1 * 4 ^ p.2) 0

/-- The report of an accumulator (R141). -/
def foldReport (c : Ctx) (a : Nat) : Word :=
  let st := accStateOf c a
  BitVec.ofNat 64 ((if st.mixed then 2 ^ 57 else 0) + (if st.reord then 2 ^ 56 else 0) + st.passes.toNat * 2 ^ 24
    + orderBits st.cls * 2 ^ 16 + a * 2 ^ 12 + foldDepth st.cls * 2 ^ 8 + st.cls.toNat)

/-- Add the sums of a pass into an accumulator, at the floor (R132). -/
def addPass (a : Nat) (ys : List Elem) (c : Core) : Core :=
  putAcc a 0 (ys.zipIdx.map fun y => addRne (KMap.get 0 c.ctx.acc (a * 4096 + y.2)) (f32 y.1)) c

/-- The elements of an accumulator. -/
def accAll (a : Nat) (c : Core) : List Elem := KMap.getList 0 c.ctx.acc (a * 4096) 4096

/-- A pass reaches the floor (R143). Inside a chain under a half-width fold map, the second pass of a pair is added
before the first: to what the accumulator held before the first, which the first's own landing, where it stands if
it stays unpaired, has changed meanwhile. -/
def floorAdd (a : Nat) (ys : List Elem) (c : Core) : Core :=
  let h := chainOf c.ctx a
  if !h.isOpen ∨ halfOf c.fold = 0 then addPass a ys c
  else if h.waiting.isEmpty then
    addPass a ys { c with ctx := putChain a { h with waiting := ys, before := accAll a c } c.ctx }
  else
    let c := addPass a h.waiting (addPass a ys (putAcc a 0 h.before c))
    let st := accStateOf c.ctx a
    { c with ctx := putChain a { h with waiting := [], before := [] } (putAccState a { st with reord := true } c.ctx) }

/-- Close a chain; an unpaired last pass has been added in its own landing (R143). -/
def closeChain (a : Nat) (c : Core) : Core := { c with ctx := putChain a Chain.closed c.ctx }

/-- Passes, class and FOLDREP after a pass (R132, R141). -/
def countPass (a : Nat) (c : Core) : Core :=
  let st := accStateOf c.ctx a
  let n := if st.passes = BitVec.allOnes 32 then st.passes else st.passes + 1
  let x := putAccState a { st with passes := n, cls := c.fold } c.ctx
  { c with ctx := { x with foldrep := foldReport x a } }

/-- The rows of a row group as MDRAIN and MSTORE scale them: D × 2^SCL, exact (R137). -/
def scaledRow (c : Ctx) (x : Issue) (a m : Nat) : List Val :=
  let k := sbitsAt x.raw (424 + 8) 8
  (List.range 64).map fun n => (f32 (accElem c a m n)).mul (.fin (pow2 k))

/-- One entry of the drain queue: 16 images of 256 bytes, and what it counts (R137). -/
def drainEntry (c : Ctx) (x : Issue) (a g : Nat) : List Elem × Count :=
  let st := x.sB
  let rows := (List.range 16).map fun i =>
    convRow st (stRowOrg st + 16 * g + i) (stColOrg st) (scaledRow c x a (16 * g + i))
  let image (r : List Nat × List Nat × Nat × Nat) : Nat :=
    packCodes (stFmt st).width r.1 + packCodes 8 r.2.1 * 2 ^ (8 * 192)
  (rows.flatMap fun r => (List.range 64).map fun k => BitVec.ofNat 32 (image r / 2 ^ (32 * k)),
    ⟨nameB x.raw, (rows.map fun r => r.2.2.1).sum, (rows.map fun r => r.2.2.2).sum⟩)

/-- The scratchpad bytes MSTORE writes for a row group, and what it counts (R139). -/
def mstoreBytes (c : Ctx) (x : Issue) (a g : Nat) : List (Nat × Byte) × Count :=
  let st := x.sD
  let t := posD x
  let i0 := stRowOrg st + 16 * g
  if stBlkAx st = 2 then
    let b := stBlk st
    let cols := (List.range 64).map fun n => (List.range (16 / b)).map fun q =>
      quantBlock (stFmt st) (stOvf st) ((List.range b).map fun i =>
        (divScale2 st (nth .nan (scaledRow c x a (16 * g + q * b + i)) n),
          stMode st (i0 + q * b + i) (stColOrg st + n)))
    let rows := (List.range 16).map fun i => cols.map fun qs =>
      nth 0 ((qs.flatMap Block.codes)) i
    let data := rows.zipIdx.flatMap fun r => rowWrites st t (16 * g + r.2) r.1
    let scales := cols.zipIdx.flatMap fun q => q.1.zipIdx.map fun k =>
      ((scaleAddr st t (16 * g + k.2 * b) q.2).toNat, BitVec.ofNat 8 k.1.scale)
    (data ++ scales,
      ⟨nameD x.raw, (cols.map fun qs => (qs.map Block.sat).sum).sum, (cols.map fun qs => (qs.filter Block.empty).length).sum⟩)
  else
    let rows := (List.range 16).map fun i => convRow st (i0 + i) (stColOrg st) (scaledRow c x a (16 * g + i))
    let data := rows.zipIdx.flatMap fun r => rowWrites st t (16 * g + r.2) r.1.1
    let scales := rows.zipIdx.flatMap fun r => r.1.2.1.zipIdx.map fun k =>
      ((scaleAddr st t (16 * g + r.2) (k.2 * stBlk st)).toNat, BitVec.ofNat 8 k.1)
    (data ++ scales, ⟨nameD x.raw, (rows.map fun r => r.2.2.1).sum, (rows.map fun r => r.2.2.2).sum⟩)

/-! ## The landing stage (R128, R142) -/

/-- The accumulator an MX issue acts on, and whether the record names it as D. -/
def mxAcc (x : Issue) : Nat × Bool :=
  if opOf x.raw = 4 ∨ opOf x.raw = 5 ∨ opOf x.raw = 6 then (accA x, false) else (accD x, true)

/-- Chain misuse of an issue, before its own opening or closing takes effect (R142). -/
def chainMisuse (c : Ctx) (x : Issue) : Bool :=
  let (a, asD) := mxAcc x
  let h := (chainOf c a).isOpen
  let opens := asD && x.first && recCB x.raw
  let closes := asD && x.last && recCE x.raw
  let op := opOf x.raw
  (opens && h) || (closes && !h && !opens) || (h && decide (2 ≤ op) && decide (op ≤ 6))

/-- What an issue from before the command window in force leaves to a replay of it: the chains and the drain queue
at the marker are the ones that such issues have made (DEDUCED, log entry 22). -/
def keepAtMarker (issued : Nat) (f : Marker → Core → Marker) (s : State) : State :=
  updCore (fun c =>
    let keep (m : Marker) : Marker := if issued < m.m then f m c else m
    { c with ctx := { c.ctx with seg := { c.ctx.seg with
      mark := keep c.ctx.seg.mark, atEnd := c.ctx.seg.atEnd.map fun w => (keep w.1, w.2) } } }) s

/-- Poison among the elements that an MX issue reads of its accumulator in the landing stage: a pass adds into them
all, and MDRAIN and MSTORE read the rows of their group (R128, R137, R139, R360). -/
def landBad (c : Core) (x : Issue) : List Flt :=
  let a := (mxAcc x).1
  if opOf x.raw = 0 ∨ opOf x.raw = 1 then accBadIn c a fun _ => true
  else if opOf x.raw = 4 ∨ opOf x.raw = 5 then accBadIn c a fun i => i / 1024 == rowGroup x
  else []

/-- The effect of an MX issue of the given cycle in its landing stage. -/
def mxLand (issued : Nat) (x : Issue) (vals : List Elem) (s : State) : State :=
  let c := curCore s
  let (a, asD) := mxAcc x
  let opens := asD && x.first && recCB x.raw
  let closes := asD && x.last && recCE x.raw
  if chainMisuse c.ctx x then pushFaults 1 (issuePc c x.seq) [(0x2D, 0)] s
  else
    let bad := landBad c x
    if !bad.isEmpty then pushFaults 1 (issuePc c x.seq) bad s
    else
      let s := if opens then updCore (fun c => { c with ctx := putChain a { Chain.closed with isOpen := true } c.ctx }) s else s
      let g := rowGroup x
      let s := match opOf x.raw with
        | 0x000 => updCore (fun c => countPass a (floorAdd a vals c)) s
        | 0x001 => updCore (fun c => countPass a (floorAdd a vals c)) s
        | 0x002 => updCore (zeroAcc a) s
        | 0x003 => updCore (fun c =>
            let c := putAcc a (1024 * g) vals c
            { c with ctx := putAccState a AccState.zero c.ctx }) s
        | 0x004 =>
          let (e, k) := drainEntry c.ctx x a g
          launchFrom issued x 2 (.push e k) s
        | 0x005 =>
          let (bs, k) := mstoreBytes c.ctx x a g
          launchFrom issued x 4 (.sp bs k) s
        | 0x006 =>
          let w := foldReport c.ctx a
          launchFrom issued x 1 (.vecRow (vecD x) (recMod x.raw 0 4)
            (w.setWidth 32 :: (w >>> 32).setWidth 32 :: List.replicate 62 0)) s
        | _ => s
      let s := if closes then updCore (closeChain a) s else s
      keepAtMarker issued (fun m c => { m with chains := c.ctx.seg.chains }) s

/-- LANDING_STAGE: one MX operation a cycle, in issue order (R128). -/
def execLandingStage (f : Flight) (s : State) : Out :=
  match f.kind with
  | .mx x vals => .next (mxLand f.issued x vals (dropFlight f s))
  | _ => .next s

/-- DRAIN_PUSH: an entry joins the drain queue; into a full queue it raises 0x2E (R137, R138). -/
def execDrainPush (f : Flight) (s : State) : Out :=
  match f.kind with
  | .push vals k =>
    let s := dropFlight f s
    if 8 ≤ (curCore s).drain.length then .next (pushFaults 1 (pcOf s) [(0x2E, 0)] s)
    else
      .next (keepAtMarker f.issued (fun m _ => { m with drain := m.drain ++ [vals] })
        (updCore (fun c => { c with drain := c.drain ++ [vals], ctx := addCount k c.ctx }) s))
  | _ => .next s

/-! ## Meanings -/

/-- First cycle MX allows its next issue (R127): under a half-width hop, two cycles after the last. -/
def mxFree (s : State) : Nat :=
  let c := curCore s
  let l := KMap.get 0 c.lastIssue 1
  if l = 0 then 0 else l + minII c.fold - 1

/-- MMA (R132): one folded pass added into D. -/
def execMma (x : Issue) (s : State) : Out := issueStep x (mxFree s) (passPerform false x) s
/-- MPASS (R131, R132): a pass of KT valid elements. -/
def execMpass (x : Issue) (s : State) : Out := issueStep x (mxFree s) (passPerform true x) s
/-- MZERO (R135). -/
def execMzero (x : Issue) (s : State) : Out := issueStep x (mxFree s) (landOnly x) s
/-- MLOAD (R136). -/
def execMload (x : Issue) (s : State) : Out := issueStep x (mxFree s) (mloadPerform x) s
/-- MDRAIN (R137). -/
def execMdrain (x : Issue) (s : State) : Out := issueStep x (mxFree s) (landOnly x) s
/-- MSTORE (R139). -/
def execMstore (x : Issue) (s : State) : Out := issueStep x (mxFree s) (mstorePerform x) s
/-- MREP (R140). -/
def execMrep (x : Issue) (s : State) : Out := issueStep x (mxFree s) (landOnly x) s
/-- MCHAIN (R142): changes nothing but the chain its record opens or closes. -/
def execMchain (x : Issue) (s : State) : Out := issueStep x (mxFree s) (landOnly x) s

end Sys2Proof.Machine
end

