-- ==== Sys2Proof/Machine/Vector.lean ====
section
/-! DEFINITION. The vector columns VA and VB (chapter 07, R148 to R172): modifier fields, forward
conditions, arithmetic on elements, and the meaning of every operation of their map but those of
chapter 08, which are in `Sys2Proof.Machine.Special`. -/

namespace Sys2Proof.Machine

/-! ## Modifier fields (R153) -/

def vTy (r : Line) : Nat := recMod r 0 3
def vRnd (r : Line) : Nat := recMod r 3 3
def vOpx (r : Line) : Nat := recMod r 6 4
def vIdx (r : Line) : Nat := recMod r 10 6
def vRg (r : Line) : Nat := recMod r 16 2
def vCv (r : Line) : Bool := modBit r 18
def vOpf (r : Line) : Bool := modBit r 19
def vSh (r : Line) : Nat := recMod r 20 5
def vLen (r : Line) : Nat := recMod r 25 5

/-- VSPL's own layout (R160). -/
def splVal (r : Line) : Elem := r.extractLsb' 424 32
def splSrc (r : Line) : Nat := recMod r 32 2
def splRow (r : Line) : Nat := recMod r 34 4
def splCol (r : Line) : Nat := recMod r 38 6
def splTy (r : Line) : Nat := recMod r 44 3

/-! ## Forward conditions (R152, R153, R154, R162 to R170) -/

def vOrImm (n : Nat) : Bool := isVec n || isImm n
def tyOk (r : Line) : Bool := decide (vTy r ≤ 2)
/-- RND is used under binary32 only (R156). -/
def rndOk (r : Line) : Bool := vTy r != 0 || decide (vRnd r ≤ 3)

/-- VLD's and VST's conditions on stream and modifiers (R169, R170). -/
def loadOk (r x : Line) : Bool :=
  stSpace x == 0 && !(vCv r && stFmt x == .e8) && !(vOpf r && (vCv r || vRg r != 0))

/-- What a record of column VA or VB must meet at forward: kinds of names, modifier values, streams. -/
def vectorRecordOk (r sD sA sB : Line) : Bool :=
  let d := isVec (nameD r)
  let a := isVec (nameA r)
  let b := vOrImm (nameB r)
  match opOf r with
  | 0x000 => d && a && b && tyOk r && rndOk r
  | 0x001 => d && a && b && tyOk r && rndOk r
  | 0x002 => d && a && b && tyOk r && rndOk r
  | 0x003 => d && a && b && tyOk r && rndOk r
  | 0x004 => d && a && b && tyOk r
  | 0x005 => d && a && b && tyOk r
  | 0x006 => d && a && tyOk r
  | 0x007 => d && a && tyOk r
  | 0x010 => d && a && b
  | 0x011 => d && a && b
  | 0x012 => d && a && b
  | 0x013 => d && a
  | 0x014 => d && a && b
  | 0x015 => d && a && b
  | 0x016 => d && a && b
  | 0x017 => d && a
  | 0x018 => d && a && isVec (nameB r)
  | 0x019 => d && a
  | 0x01A => d && a
  | 0x020 => d && a && b && tyOk r && decide (vOpx r ≤ 5)
  | 0x021 => d && a && b
  | 0x022 => d && vOrImm (nameA r) && tyOk r
  | 0x023 => d && (match splSrc r with
      | 0 => isImm (nameA r) && decide (splTy r ≤ 2)
      | 1 => true
      | 2 => a
      | _ => false)
  | 0x024 => d && isImm (nameA r) && tyOk r
  | 0x030 => d && a && isStream (nameB r) && tyOk r && stBlkAx sB == 0 && stFmt sB != .e8
  | 0x031 => d && a && isStream (nameB r) && tyOk r && stBlkAx sB == 1 && (stFmt sB).isNarrow
  | 0x032 => d && a && isStream (nameB r) && stBlkAx sB != 2 && stFmt sB != .e8
  | 0x040 => d && a && b
  | 0x041 => d && a && b
  | 0x042 => d && a
  | 0x043 => d && a && decide (vIdx r ≤ 15)
  | 0x044 => d && a && tyOk r && decide (vOpx r ≤ 2)
  | 0x045 => d && a && tyOk r && decide (vOpx r ≤ 2)
  | 0x046 => d && a && tyOk r && decide (vOpx r ≤ 2)
  | 0x047 => d && a && tyOk r && decide (vOpx r ≤ 2)
  | 0x048 => d && a
  | 0x050 => d && isStream (nameA r) && loadOk r sA
  | 0x051 => isStream (nameD r) && a && loadOk r sD && !(vCv r && stBlkAx sD == 2)
  | 0x055 => d
  | _ => false

/-! ## Elements -/

def nanBits : Elem := 0x7FC00000

/-- An immediate operand as `ty` reads it (R152): binary32 of the integer, or the integer. -/
def immElem (ty : Nat) (n : Nat) : Elem := if ty = 0 then rneF32 (Val.ofInt (immOf n)) else BitVec.ofInt 32 (immOf n)

/-- The value of an element as `ty` reads it. -/
def elemAs (ty : Nat) (e : Elem) : Val :=
  match ty with
  | 0 => f32 e
  | 1 => Val.ofInt e.toInt
  | _ => Val.ofInt e.toNat

/-- Rounding mode of an arithmetic operation; SR is not available (R155). -/
def arithMode (r : Line) : Mode := Mode.ofCode (vRnd r % 4) 0

/-- The exact sum rounded under a mode (R155): an exact zero of unlike addends is −0 under RDN alone. -/
def addF (m : Mode) (a b : Val) : Elem := roundF32 m (Val.add (m == .rdn) a b)

/-- VADD, VSUB, VMUL and VFMA on one lane (R155, R156): D, A, b. -/
def arithLane (op : Nat) (ty : Nat) (m : Mode) (d a b : Elem) : Elem :=
  if ty = 0 then
    match op with
    | 0 => addF m (f32 a) (f32 b)
    | 1 => addF m (f32 a) (f32 b).neg
    | 2 => roundF32 m ((f32 a).mul (f32 b))
    | _ => addF m (f32 d) ((f32 a).mul (f32 b))
  else
    match op with
    | 0 => a + b
    | 1 => a - b
    | 2 => a * b
    | _ => d + a * b

/-- Order of binary32 values that are not NaN, with −0 below +0 (R156). -/
def f32Key (e : Elem) : Int := if bitAt e 31 then -(bitsAt e 0 31 : Int) - 1 else bitsAt e 0 31

/-- VMIN and VMAX on one lane (R156). -/
def minMaxLane (isMax : Bool) (ty : Nat) (a b : Elem) : Elem :=
  let lt := match ty with
    | 0 => decide (f32Key a < f32Key b)
    | 1 => a.slt b
    | _ => a.ult b
  if ty = 0 ∧ ((f32 a).isNan ∨ (f32 b).isNan) then nanBits
  else if lt = isMax then b else a

/-- VABS and VNEG on one lane (R156). -/
def absLane (ty : Nat) (a : Elem) : Elem :=
  match ty with
  | 0 => a &&& 0x7FFFFFFF#32
  | 1 => if a.msb then -a else a
  | _ => a
def negLane (ty : Nat) (a : Elem) : Elem := if ty = 0 then a ^^^ 0x80000000#32 else -a

/-- VCMP on one lane (R158). -/
def cmpLane (opx ty : Nat) (a b : Elem) : Elem :=
  let nan := decide (ty = 0) && ((f32 a).isNan || (f32 b).isNan)
  let zeros := decide (ty = 0) && (f32 a).isZero && (f32 b).isZero
  let eq := zeros || a == b
  let lt := !zeros && (match ty with
    | 0 => decide (f32Key a < f32Key b)
    | 1 => a.slt b
    | _ => a.ult b)
  let holds := match opx with
    | 0 => eq
    | 1 => !eq
    | 2 => lt
    | 3 => lt || eq
    | 4 => !lt && !eq
    | _ => !lt
  if (if nan then opx == 1 else holds) then BitVec.allOnes 32 else 0

/-- Logic and shifts on one lane (R157). -/
def logicLane (op : Nat) (a b : Elem) : Elem :=
  let s := bitsAt b 0 5
  match op with
  | 0x10 => a &&& b
  | 0x11 => a ||| b
  | 0x12 => a ^^^ b
  | 0x14 => a <<< s
  | 0x15 => a >>> s
  | _ => a.sshiftRight s

/-- The bit field of VBFX and VLUT (R157, R185). -/
def fieldLane (sh len : Nat) (a : Elem) : Elem := (a >>> sh) &&& BitVec.ofNat 32 (2 ^ (len + 1) - 1)

/-! ## Reading operands -/

/-- The lanes of operand D, A or B: a vector register, or the immediate in every lane. -/
def lanesD (c : Core) (x : Issue) : List Elem := vecAll c.ctx (vecD x)
def lanesA (c : Core) (x : Issue) : List Elem := vecAll c.ctx (vecA x)
def lanesB (c : Core) (x : Issue) (ty : Nat) : List Elem :=
  if isImm (nameB x.raw) then List.replicate 1024 (immElem ty (nameB x.raw)) else vecAll c.ctx (vecB x)

/-- Poison among the vector registers an issue reads (R360). -/
def poisonDAB (c : Core) (x : Issue) (d a b : Bool) : List Flt :=
  ((if d then vecBad c (vecD x) else []) ++ (if a then vecBad c (vecA x) else [])
    ++ (if b && isVec (nameB x.raw) then vecBad c (vecB x) else [])).take 1

def noCount : Count := ⟨0, 0, 0⟩

/-- An operation that writes a vector register `lat` cycles on, from elements whose poison is `bad` (R150). -/
def vecWrite (bad : Core → List Flt) (x : Issue) (lat : Nat) (f : Core → List Elem) (s : State) : Perf :=
  checked (bad (curCore s)) (.ok (launchFlight x lat (.vec (vecD x) (f (curCore s)) noCount) s))

/-- An operation that reads vector registers whole and writes one, `lat` cycles on. -/
def vecPerform (d a b : Bool) (x : Issue) (lat : Nat) (f : Core → List Elem) (s : State) : Perf :=
  vecWrite (fun c => poisonDAB c x d a b) x lat f s

/-- One issue of an element-lane operation. -/
def vecStep (d a b : Bool) (x : Issue) (lat : Nat) (f : Core → List Elem) (s : State) : Out :=
  issueStep x 0 (vecPerform d a b x lat f) s

/-- One issue of an element-lane operation that reads part of register A. -/
def partStep (read : Nat → Bool) (x : Issue) (lat : Nat) (f : Core → List Elem) (s : State) : Out :=
  issueStep x 0 (vecWrite (fun c => vecBadIn c (vecA x) read) x lat f) s

/-- One issue of an element-lane operation that reads register A whole, and of b the given elements. -/
def partBStep (read : Nat → Bool) (x : Issue) (lat : Nat) (f : Core → List Elem) (s : State) : Out :=
  issueStep x 0 (vecWrite (fun c =>
    (vecBad c (vecA x) ++ if isVec (nameB x.raw) then vecBadIn c (vecB x) read else []).take 1) x lat f) s

/-- Operation on A alone, lane by lane. -/
def unary (x : Issue) (lat : Nat) (f : Elem → Elem) (s : State) : Out :=
  vecStep false true false x lat (fun c => (lanesA c x).map f) s

/-- Operation on A and b, lane by lane; `ty` says how an immediate is read. -/
def binary (x : Issue) (ty lat : Nat) (f : Elem → Elem → Elem) (s : State) : Out :=
  vecStep false true true x lat (fun c => List.zipWith f (lanesA c x) (lanesB c x ty)) s

/-- A multiply-class issue: the column's multiply lanes are held for 4 cycles, nullified issues
included (R149). -/
def mulStep (x : Issue) (perform : State → Perf) (s : State) : Out :=
  issueStep x (KMap.get 0 (curCore s).mulUntil x.col) perform
    (updCore (fun c => { c with mulUntil := KMap.set 0 c.mulUntil x.col (c.ctime.toNat + 4) }) s)

/-- Lane (r, c) of a list of 1,024 elements. -/
def laneAt (v : List Elem) (r c : Nat) : Elem := nth 0 v (64 * r + c)

/-- A register's elements from a function of row and column. -/
def lanesOf (f : Nat → Nat → Elem) : List Elem := (List.range 16).flatMap fun r => (List.range 64).map fun c => f r c

/-! ## Arithmetic (R155, R156) -/

def arithStep (op : Nat) (x : Issue) (s : State) : Out :=
  let ty := vTy x.raw
  binary x ty (if ty = 0 then 4 else 2) (arithLane op ty (arithMode x.raw) 0) s

def mulClass (op : Nat) (x : Issue) (s : State) : Out :=
  let ty := vTy x.raw
  mulStep x (vecPerform (op == 3) true true x 8 fun c =>
    List.zipWith (fun d p => arithLane op ty (arithMode x.raw) d p.1 p.2) (lanesD c x)
      ((lanesA c x).zip (lanesB c x ty))) s

/-- VADD (R155, R156). -/
def execVadd (x : Issue) (s : State) : Out := arithStep 0 x s
/-- VSUB (R155, R156). -/
def execVsub (x : Issue) (s : State) : Out := arithStep 1 x s
/-- VMUL (R155, R156). -/
def execVmul (x : Issue) (s : State) : Out := mulClass 2 x s
/-- VFMA (R155, R156): D + A × b, rounded once. -/
def execVfma (x : Issue) (s : State) : Out := mulClass 3 x s
/-- VMIN (R156). -/
def execVmin (x : Issue) (s : State) : Out := binary x (vTy x.raw) 2 (minMaxLane false (vTy x.raw)) s
/-- VMAX (R156). -/
def execVmax (x : Issue) (s : State) : Out := binary x (vTy x.raw) 2 (minMaxLane true (vTy x.raw)) s
/-- VABS (R156). -/
def execVabs (x : Issue) (s : State) : Out := unary x 2 (absLane (vTy x.raw)) s
/-- VNEG (R156). -/
def execVneg (x : Issue) (s : State) : Out := unary x 2 (negLane (vTy x.raw)) s

/-! ## Logic, shifts, bit fields (R157) -/

/-- VAND (R157). -/
def execVand (x : Issue) (s : State) : Out := binary x 1 2 (logicLane 0x10) s
/-- VOR (R157). -/
def execVor (x : Issue) (s : State) : Out := binary x 1 2 (logicLane 0x11) s
/-- VXOR (R157). -/
def execVxor (x : Issue) (s : State) : Out := binary x 1 2 (logicLane 0x12) s
/-- VNOT (R157). -/
def execVnot (x : Issue) (s : State) : Out := unary x 2 (fun a => ~~~a) s
/-- VSHL (R157). -/
def execVshl (x : Issue) (s : State) : Out := binary x 1 2 (logicLane 0x14) s
/-- VSHR (R157). -/
def execVshr (x : Issue) (s : State) : Out := binary x 1 2 (logicLane 0x15) s
/-- VSAR (R157). -/
def execVsar (x : Issue) (s : State) : Out := binary x 1 2 (logicLane 0x16) s
/-- VBFX (R157). -/
def execVbfx (x : Issue) (s : State) : Out := unary x 2 (fieldLane (vSh x.raw) (vLen x.raw)) s
/-- VFSH (R157): the pair A, B shifted right. -/
def execVfsh (x : Issue) (s : State) : Out := binary x 1 2 (fun a b => ((a ++ b) >>> vSh x.raw).setWidth 32) s
/-- VPOPC (R157). -/
def execVpopc (x : Issue) (s : State) : Out := unary x 2 (fun a => BitVec.ofNat 32 (popNat 32 a.toNat)) s
/-- VCLZ (R157). -/
def execVclz (x : Issue) (s : State) : Out := unary x 2 (fun a => BitVec.ofNat 32 (clzNat 32 a.toNat)) s

/-! ## Compare, select and moves (R158 to R160) -/

/-- VCMP (R158). -/
def execVcmp (x : Issue) (s : State) : Out := binary x (vTy x.raw) 3 (cmpLane (vOpx x.raw) (vTy x.raw)) s

/-- VSEL (R159): A where D's bits are not zero, else b. -/
def execVsel (x : Issue) (s : State) : Out :=
  vecStep true true true x 2 (fun c =>
    List.zipWith (fun d p => if d ≠ 0 then p.1 else p.2) (lanesD c x) ((lanesA c x).zip (lanesB c x 1))) s

/-- VMOV (R159). -/
def execVmov (x : Issue) (s : State) : Out :=
  vecStep false (isVec (nameA x.raw)) false x 2 (fun c =>
    if isImm (nameA x.raw) then List.replicate 1024 (immElem (vTy x.raw) (nameA x.raw)) else lanesA c x) s

/-- VSPL (R160): an immediate, the value VAL, or one element of A, in every lane. -/
def execVspl (x : Issue) (s : State) : Out :=
  let src := splSrc x.raw
  partStep (fun i => src == 2 && i == 64 * splRow x.raw + splCol x.raw) x 2 (fun c => List.replicate 1024 (
    if src = 0 then immElem (splTy x.raw) (nameA x.raw)
    else if src = 1 then splVal x.raw
    else vecElem c.ctx (vecA x) (64 * splRow x.raw + splCol x.raw))) s

/-- VIOTA (R159): the immediate plus the lane number. -/
def execViota (x : Issue) (s : State) : Out :=
  vecStep false false false x 2 (fun _ => (List.range 1024).map fun (p : Nat) =>
    let i := immOf (nameA x.raw) + Int.ofNat p
    if vTy x.raw = 0 then rneF32 (Val.ofInt i) else BitVec.ofInt 32 i) s

/-! ## Conversion and quantisation (R161 to R164) -/

/-- A row of a packed row image as 64 elements (R161). -/
def rowElems (image : Nat) : List Elem := (List.range 64).map fun k => BitVec.ofNat 32 (image / 2 ^ (32 * k))

/-- Lanes converted to a stream's format, row by row, and what that counts (R161 to R163). -/
def convertLanes (x : Issue) (st : Line) (vs : List Elem) : List Elem × Count :=
  let rows := (List.range 16).map fun r =>
    convRow st (stRowOrg st + r) (stColOrg st) (((vs.drop (64 * r)).take 64).map (elemAs (vTy x.raw)))
  let w := (stFmt st).width
  (rows.flatMap fun r =>
      if w = 32 then r.1.map (BitVec.ofNat 32) else rowElems (packCodes w r.1 + packCodes 8 r.2.1 * 2 ^ (8 * 192)),
    ⟨nameB x.raw, (rows.map fun r => r.2.2.1).sum, (rows.map fun r => r.2.2.2).sum⟩)

/-- Issue of VCVT or VQNT. -/
def convertPerform (lat : Nat) (x : Issue) (s : State) : Perf :=
  let c := curCore s
  checked (poisonDAB c x false true false) (
    let (vals, k) := convertLanes x x.sB (lanesA c x)
    .ok (launchFlight x lat (.vec (vecD x) vals k) s))

/-- VCVT (R162). -/
def execVcvt (x : Issue) (s : State) : Out := issueStep x 0 (convertPerform 4 x) s
/-- VQNT (R163). -/
def execVqnt (x : Issue) (s : State) : Out := issueStep x 0 (convertPerform 6 x) s

/-- The 32-bit element that a wide format's code becomes (R164). -/
def wideElem (f : Fmt) (code : Nat) : Elem :=
  match f with
  | .i8 => (BitVec.ofNat 8 code).signExtend 32
  | .u8 => BitVec.ofNat 32 code
  | .i32 => BitVec.ofNat 32 code
  | f => BitVec.ofNat 32 (widenF32 f code)

/-- Element (r, c) of a packed row image, decoded through a stream (R164). -/
def dqElem (st : Line) (image : Nat) (c : Nat) : Elem :=
  let f := stFmt st
  let code := image / 2 ^ (c * f.width) % 2 ^ f.width
  if f.isNarrow then
    let v := f.decode code
    let v := if stBlkAx st = 1 then
        v.mul (Fmt.decode .e8 (image / 2 ^ (8 * (192 + c / stBlk st)) % 256)) else v
    rneF32 (if stL2sc st then v.mul (f32 (stScale2 st)) else v)
  else wideElem f code

/-- Whether element `k` of a row holds codes or scales of a packed row image (R161, R164). -/
def dqReads (st : Line) (k : Nat) : Bool :=
  decide (k < 2 * (stFmt st).width)
    || (stBlkAx st == 1 && decide (48 ≤ k) && decide (k < 48 + ceilDiv (ceilDiv 64 (stBlk st)) 4))

/-- VDQ (R164). -/
def execVdq (x : Issue) (s : State) : Out :=
  partStep (fun i => dqReads x.sB (i % 64)) x 4 (fun c =>
    (List.range 16).flatMap fun r =>
      let image := vecImageBits c.ctx (vecA x) (2048 * r) 2048
      (List.range 64).map (dqElem x.sB image)) s

/-! ## Row and column axes (R165 to R168) -/

/-- VROTR (R165). -/
def execVrotr (x : Issue) (s : State) : Out :=
  partBStep (fun i => i % 64 == 0) x 3 (fun c =>
    let a := lanesA c x
    let b := lanesB c x 1
    lanesOf fun r k => laneAt a r ((k + 64 - bitsAt (laneAt b r 0) 0 6) % 64)) s

/-- VROTC (R165). -/
def execVrotc (x : Issue) (s : State) : Out :=
  partBStep (fun i => decide (i < 64)) x 5 (fun c =>
    let a := lanesA c x
    let b := lanesB c x 1
    lanesOf fun r k => laneAt a ((r + 16 - bitsAt (laneAt b 0 k) 0 4) % 16) k) s

/-- VBCR (R165). -/
def execVbcr (x : Issue) (s : State) : Out :=
  partStep (fun i => i % 64 == vIdx x.raw) x 2 (fun c =>
    let a := lanesA c x
    lanesOf fun r _ => laneAt a r (vIdx x.raw)) s

/-- VBCC (R165). -/
def execVbcc (x : Issue) (s : State) : Out :=
  partStep (fun i => i / 64 == vIdx x.raw) x 4 (fun c =>
    let a := lanesA c x
    lanesOf fun _ k => laneAt a (vIdx x.raw) k) s

/-- The operation of a reduction or scan (R166). -/
def foldOp (opx ty : Nat) (a b : Elem) : Elem :=
  match opx with
  | 0 => if ty = 0 then addF .rne (f32 a) (f32 b) else a + b
  | 1 => minMaxLane false ty a b
  | _ => minMaxLane true ty a b

/-- One level of the tree of R166. -/
def pairUp (f : Elem → Elem → Elem) : List Elem → List Elem
  | a :: b :: r => f a b :: pairUp f r
  | l => l

/-- The tree of R166 over a list of 2^n elements. -/
def treeFold (f : Elem → Elem → Elem) (n : Nat) (l : List Elem) : Elem :=
  nth 0 ((List.range n).foldl (fun l _ => pairUp f l) l) 0

/-- One step of the scan of R167. -/
def scanStep (f : Elem → Elem → Elem) (k : Nat) (l : List Elem) : List Elem :=
  l.take k ++ List.zipWith f l (l.drop k)

/-- The inclusive scan of R167 over 2^n elements. -/
def scanFold (f : Elem → Elem → Elem) (n : Nat) (l : List Elem) : List Elem :=
  (List.range n).foldl (fun l i => scanStep f (2 ^ i) l) l

def rowLanes (v : List Elem) (r : Nat) : List Elem := (v.drop (64 * r)).take 64
def colLanes (v : List Elem) (c : Nat) : List Elem := (List.range 16).map fun r => laneAt v r c

/-- VREDR (R166). -/
def execVredr (x : Issue) (s : State) : Out :=
  vecStep false true false x 8 (fun c =>
    let a := lanesA c x
    (List.range 16).flatMap fun r =>
      List.replicate 64 (treeFold (foldOp (vOpx x.raw) (vTy x.raw)) 6 (rowLanes a r))) s

/-- VREDC (R166). -/
def execVredc (x : Issue) (s : State) : Out :=
  vecStep false true false x 6 (fun c =>
    let a := lanesA c x
    let y := (List.range 64).map fun k => treeFold (foldOp (vOpx x.raw) (vTy x.raw)) 4 (colLanes a k)
    (List.range 16).flatMap fun _ => y) s

/-- VSCANR (R167). -/
def execVscanr (x : Issue) (s : State) : Out :=
  vecStep false true false x 10 (fun c =>
    let a := lanesA c x
    (List.range 16).flatMap fun r => scanFold (foldOp (vOpx x.raw) (vTy x.raw)) 6 (rowLanes a r)) s

/-- VSCANC (R167). -/
def execVscanc (x : Issue) (s : State) : Out :=
  vecStep false true false x 8 (fun c =>
    let a := lanesA c x
    let y := (List.range 64).map fun k => scanFold (foldOp (vOpx x.raw) (vTy x.raw)) 4 (colLanes a k)
    (List.range 16).flatMap fun r => y.map fun l => nth 0 l r) s

/-- VTRB (R168). -/
def execVtrb (x : Issue) (s : State) : Out :=
  vecStep false true false x 4 (fun c =>
    let a := lanesA c x
    lanesOf fun r k => laneAt a (k % 16) (k / 16 * 16 + r)) s

/-! ## Loads and stores (R169, R170) -/

/-- The bounds of bytes 0 to n − 1 of a row of a space-0 tile (R113). -/
def spanBound (x : Line) (t : Int) (r n : Nat) : List Flt :=
  let a := rowStart x t r
  if n = 0 then []
  else if a < 0 then [(0x06, addrInfo a)]
  else if (spSize : Int) < a + (n : Int) then [(0x06, addrInfo (max a (spSize : Int)))]
  else []

/-- Row group of VLD and VST, the tile rows an issue touches, and the bytes of each (R169): pairs of
register row (matrix row in operand form) and tile row. -/
def vRows (x : Issue) (st : Line) : List (Nat × Nat) :=
  if vOpf x.raw then (List.range (min (stRows st) 64)).map fun m => (m, m)
  else
    let g := (vRg x.raw + x.i0) % 4
    ((List.range 16).map fun r => (r, 16 * g + r)).filter fun p => decide (p.2 < stRows st)

/-- Bytes of a tile row that an issue reads or writes: of a converting form, those of elements 0 to 63 (R169, R170). -/
def vRowBytes (x : Issue) (st : Line) : Nat :=
  if vCv x.raw then ceilDiv (min (stCols st) 64 * (stFmt st).width) 8
  else min (stRowBytes st) (if vOpf x.raw then 64 else 256)

/-- Scale bytes of the elements of a row that a converting load or store touches (R114). -/
def rowScales (st : Line) (t : Int) (r : Nat) : List Int :=
  if stBlkAx st = 0 then [] else ((List.range (min (stCols st) 64)).map fun c => scaleAddr st t r c).eraseDups

/-- Bounds of an issue's rows and, for a converting form, of their scales. -/
def vBounds (x : Issue) (st : Line) (t : Int) : List Flt :=
  firstFault ((vRows x st).flatMap fun p =>
    spanBound st t p.2 (vRowBytes x st) :: if vCv x.raw then (rowScales st t p.2).map scaleBound else [])

/-- The scratchpad bytes an issue of VLD reads. -/
def vReadBytes (x : Issue) (st : Line) (t : Int) : List Nat :=
  (vRows x st).flatMap fun p =>
    rowBytesAt st t p.2 (vRowBytes x st) ++ if vCv x.raw then (rowScales st t p.2).map Int.toNat else []

/-- An element as a converting load reads it (R164, R169). -/
def loadElem (c : Core) (st : Line) (t : Int) (r k : Nat) : Elem :=
  if (stFmt st).isNarrow then rneF32 (elemVal c st true t r k) else wideElem (stFmt st) (elemAt c st t r k)

/-- The elements of one tile row, raw: its bytes from byte 0, the rest zero. The pad bits of its last byte come with that
byte (R102, R169; DEDUCED, log entry 95). -/
def rawRow (c : Core) (st : Line) (t : Int) (r n width : Nat) : List Elem :=
  let v := ofLeBytes ((rowBytesAt st t r n).map fun a => KMap.get 0 c.sp a)
  (List.range width).map fun k => BitVec.ofNat 32 (v / 2 ^ (32 * k))

/-- What VLD puts into its register. -/
def loadLanes (c : Core) (x : Issue) (st : Line) (t : Int) : List Elem :=
  let rows := vRows x st
  if vOpf x.raw then
    (List.range 64).flatMap fun m =>
      if m < rows.length then rawRow c st t m (vRowBytes x st) 16 else List.replicate 16 0
  else
    (List.range 16).flatMap fun r =>
      match rows.find? fun p => p.1 == r with
      | none => List.replicate 64 0
      | some p =>
        if vCv x.raw then
          (List.range 64).map fun k => if k < min (stCols st) 64 then loadElem c st t p.2 k else 0
        else rawRow c st t p.2 (vRowBytes x st) 64

/-- The causes that VLD's source raises. -/
def loadFaults (x : Issue) (s : State) : List Flt :=
  let b := vBounds x x.sA (posA x)
  b ++ readFaults (curCore s) (some (nameA x.raw)) x.first (if b.isEmpty then vReadBytes x x.sA (posA x) else [])

/-- Issue of VLD. -/
def loadPerform (x : Issue) (s : State) : Perf :=
  checked (loadFaults x s) (.ok (launchFlight x 6 (.vec (vecD x) (loadLanes (curCore s) x x.sA (posA x)) noCount) s))

/-- The bytes VST writes, and what it counts; the pad bits of a row's last byte are written as zero (R102). -/
def storeBytes (c : Core) (x : Issue) (st : Line) (t : Int) : List (Nat × Byte) × Count :=
  let a := lanesA c x
  let rows := vRows x st
  if vCv x.raw then
    let conv := rows.map fun p =>
      (p, convRow st (stRowOrg st + p.2) (stColOrg st) (((rowLanes a p.1).take (min (stCols st) 64)).map f32))
    (conv.flatMap fun q =>
        rowWrites st t q.1.2 q.2.1 ++ q.2.2.1.zipIdx.map fun k =>
          ((scaleAddr st t q.1.2 (k.2 * stBlk st)).toNat, BitVec.ofNat 8 k.1),
      ⟨nameD x.raw, (conv.map fun q => q.2.2.2.1).sum, (conv.map fun q => q.2.2.2.2).sum⟩)
  else
    let w := if vOpf x.raw then 16 else 64
    (rows.flatMap fun p =>
        let v := ((a.drop (w * p.1)).take w).foldr (fun e n => e.toNat + 2 ^ 32 * n) 0 % 2 ^ (stCols st * (stFmt st).width)
        (leBytes (vRowBytes x st) v).zipIdx.map fun b => (rowByte st t p.2 b.2, b.1),
      noCount)

/-- Whether VST reads element `i` of its register (R170). -/
def storeReads (x : Issue) (st : Line) (i : Nat) : Bool :=
  let w := if vOpf x.raw then 16 else 64
  (vRows x st).any fun p => p.1 == i / w
    && decide (i % w < if vCv x.raw then min (stCols st) 64 else ceilDiv (vRowBytes x st) 4)

/-- The causes that VST's rows and register raise. -/
def storeFaults (x : Issue) (s : State) : List Flt :=
  vBounds x x.sD (posD x) ++ vecBadIn (curCore s) (vecA x) (storeReads x x.sD)

/-- Issue of VST: the write performs three cycles on (R170). -/
def storePerform (x : Issue) (s : State) : Perf :=
  checked (storeFaults x s) (
    let (bs, k) := storeBytes (curCore s) x x.sD (posD x)
    .ok (launchFlight x 3 (.sp bs k) s))

/-- VLD (R169). -/
def execVld (x : Issue) (s : State) : Out := issueStep x 0 (loadPerform x) s
/-- VST (R170). -/
def execVst (x : Issue) (s : State) : Out := issueStep x 0 (storePerform x) s

/-- Issue of VPOP: the head entry leaves the drain queue, or 0x09 (R171). -/
def popPerform (x : Issue) (s : State) : Perf :=
  match (curCore s).drain with
  | [] => .error [(0x09, 0)]
  | e :: r => .ok (launchFlight x 2 (.vec (vecD x) e noCount) (updCore (fun c => { c with drain := r }) s))

/-- VPOP (R171). -/
def execVpop (x : Issue) (s : State) : Out := issueStep x 0 (popPerform x) s

/-! ## Landings (R150, R151) -/

/-- VECTOR_LANDING: a vector result takes its place; of two in one cycle the higher column lands last. -/
def execVectorLanding (f : Flight) (s : State) : Out :=
  match f.kind with
  | .vec v vals k => .next (updCore (fun c => let c := putVec v vals c; { c with ctx := addCount k c.ctx }) (dropFlight f s))
  | _ => .next s

end Sys2Proof.Machine
end

