-- ==== Sys2Proof/Machine/Special.lean ====
section
/-! DEFINITION. Chapter 08: the special-function column SF (R173 to R176), and the partition, gather,
scatter, table, high-product and atomic operations of the vector columns (R177 to R190). -/

namespace Sys2Proof.Machine

/-! ## Functions to fixed point

Approximations of the real functions of R174. They serve only to enclose the exact result, which tells whether a
binary32 value lies within its bound. -/

/-- One, in fixed point. -/
def fxOne : Nat := 2 ^ 160
/-- ln 2 in fixed point; π times 2^320. -/
def ln2Fx : Nat := 0xb17217f7d1cf79abc9e3b39803f2f6af40f34326
def piFx320 : Nat := 0x3243f6a8885a308d313198a2e03707344a4093822299f31d0082efa98ec4e6c89452821e638d01377

def toFx (q : Rat) : Int := (q * (fxOne : Rat)).floor
def ofFx (i : Int) : Rat := (i : Rat) / (fxOne : Rat)

/-- Sum of the series whose term k + 1 is term k × `num` ÷ (`den k`), in fixed point. -/
def seriesFx (n : Nat) (first num : Int) (den : Nat → Int) : Int :=
  ((List.range n).foldl (fun (a : Int × Int) (k : Nat) =>
    let t := a.2 * num / (fxOne : Int) / den k
    (a.1 + t, t)) (first, first)).1

/-- e^t for a fixed-point t of small magnitude. -/
def expFx (t : Int) : Int := seriesFx 60 fxOne t fun k => (k : Int) + 1

/-- 2^q of a rational, by the whole and the fractional part. -/
def exp2Approx (q : Rat) : Rat :=
  let n := q.floor
  ofFx (expFx (toFx (q - (n : Rat)) * (ln2Fx : Int) / (fxOne : Int))) * pow2 n

/-- e^(−y) for y ≥ 0; beyond 200 it is below every bound. -/
def expNegApprox (y : Rat) : Rat :=
  if 200 < y then 0 else exp2Approx (-(y / ofFx ln2Fx))

/-- log2 of a positive rational. -/
def log2Approx (q : Rat) : Rat :=
  let e := floorLog2 q
  let m := q / pow2 e
  let z := toFx ((m - 1) / (m + 1))
  let z2 := z * z / (fxOne : Int)
  let s := ((List.range 60).foldl (fun (a : Int × Int) (k : Nat) =>
    (a.1 + a.2 / (2 * (k : Int) + 1), a.2 * z2 / (fxOne : Int))) (0, z)).1
  (e : Rat) + ofFx (2 * s) / ofFx ln2Fx

/-- x mod 2π of a binary32 value, in fixed point: every binary32 value is a whole multiple of 2^−149. -/
def reduceFx (q : Rat) : Int :=
  (q * ((2 ^ 320 : Nat) : Rat)).floor % (2 * (piFx320 : Int)) / (fxOne : Int)

def sinApprox (q : Rat) : Rat :=
  let x := reduceFx q
  ofFx (seriesFx 60 x (-(x * x / (fxOne : Int))) fun k => (2 * (k : Int) + 2) * (2 * (k : Int) + 3))
def cosApprox (q : Rat) : Rat :=
  let x := reduceFx q
  ofFx (seriesFx 60 fxOne (-(x * x / (fxOne : Int))) fun k => (2 * (k : Int) + 1) * (2 * (k : Int) + 2))

/-- Where an exact result lies: at a bound where both are the same, and strictly between them otherwise. -/
abbrev Range := Rat × Rat

/-- The range of the opposite of a value. -/
def Range.opposite (r : Range) : Range := (-r.2, -r.1)

/-- An approximation that is off by less than 2^−140, and one that is off by less than 2^−150 of itself. -/
def nearRange (e : Rat) : Range := (e - pow2 (-140), e + pow2 (-140))
def nearRangeRel (e : Rat) : Range := (e - absQ e * pow2 (-150), e + absQ e * pow2 (-150))

/-- Inputs near zero, whose results the first terms of the series enclose. -/
def tinyInput (q : Rat) : Bool := decide (absQ q < pow2 (-30))

def sinRange (q : Rat) : Range :=
  if tinyInput q then
    let x := absQ q
    let r : Range := (x - x ^ 3 / 6, x - x ^ 3 / 6 + x ^ 5 / 120)
    if q < 0 then r.opposite else r
  else nearRange (sinApprox q)

def cosRange (q : Rat) : Range :=
  if tinyInput q then (1 - q ^ 2 / 2, 1 - q ^ 2 / 2 + q ^ 4 / 24) else nearRange (cosApprox q)

/-- A result that 1 bounds from above, and misses by less than 2^−110. -/
def nearOne : Range := (1 - pow2 (-110), 1)

def tanhRange (q : Rat) : Range :=
  let x := absQ q
  let r : Range :=
    if tinyInput q then (x - x ^ 3 / 3, x - x ^ 3 / 3 + 2 * x ^ 5 / 15)
    else if 40 < x then nearOne
    else
      let e := expNegApprox (2 * x)
      nearRange ((1 - e) / (1 + e))
  if q < 0 then r.opposite else r

def sigRange (q : Rat) : Range :=
  if tinyInput q then
    let x := absQ q
    let d : Range := (x / 4 - x ^ 3 / 48, x / 4)
    let d := if q < 0 then d.opposite else d
    (1 / 2 + d.1, 1 / 2 + d.2)
  else if 80 < q then nearOne
  else
    let e := expNegApprox (absQ q)
    nearRangeRel (if q < 0 then e / (1 + e) else 1 / (1 + e))

/-- The square root of a positive rational: to 200 bits, and whether it is exact. -/
def sqrtParts (q : Rat) : Rat × Bool :=
  let e := 200 - floorLog2 q / 2
  let n := (q * pow2 (2 * e)).floor.toNat
  let k := Nat.sqrt n
  ((k : Rat) / pow2 e, decide (k * k = n) && decide ((n : Rat) = q * pow2 (2 * e)))

def sqrtRange (q : Rat) : Range :=
  let (r, exact) := sqrtParts q
  (r, if exact then r else r + r * pow2 (-198))

/-! ## Results (R174, R175) -/

/-- The binary32 grid spacing at a magnitude (R108). -/
def ulpF32 (q : Rat) : Rat := pow2 (max (floorLog2 (absQ q)) (-126) - 23)

/-- The nearest value to a result below the normal range, which is never flushed: halfway to zero, the least
subnormal (R175; log entry 80). -/
def nearestSmall (e : Rat) : Elem :=
  if absQ e = pow2 (-150) then (if e < 0 then 0x80000001 else 1) else rneF32 (Val.ofRat e)

/-- Whether a value lies within `b` of an exact result. -/
def admitted (r : Range) (b y : Rat) : Bool := decide (y - b ≤ r.1) && decide (r.2 ≤ y + b)

/-- Whether an exact result lies below the normal range. -/
def belowNormal (r : Range) : Bool :=
  let u := absQ r.1
  let v := absQ r.2
  decide (max u v ≤ pow2 (-126)) && decide (min u v < pow2 (-126))

/-- A result within `b` of the exact one: the free choice where the bound admits it, else the nearest value, which beyond
the greatest finite value is an infinity (DESIGN CHOICE, log entry 80). A result below the normal range is the nearest
(R175). -/
def withinBound (op : Nat) (x : Elem) (r : Range) (b : Rat) : Elem :=
  let y := BitVec.ofInt 32 (Config.sfChoice op x)
  let ok := match f32 y with
    | .fin q => admitted r b q
    | .zero _ => admitted r b 0
    | _ => false
  if belowNormal r then nearestSmall r.1 else if ok then y else rneF32 (Val.ofRat r.1)

/-- A result within one ulp (R174). -/
def withinUlp (op : Nat) (x : Elem) (r : Range) : Elem := withinBound op x r (ulpF32 r.1)

/-- The result at a finite, non-zero input (R174). The exact 0 of FLOG2 at 1 is +0 (DESIGN CHOICE, log entry 93). -/
def sfFinite (op : Nat) (x : Elem) (q : Rat) : Elem :=
  match op with
  | 0 => withinUlp 0 x (1 / q, 1 / q)
  | 1 => if q < 0 then nanBits else withinUlp 1 x (sqrtRange (1 / q))
  | 2 => if q < 0 then nanBits else
      let (r, exact) := sqrtParts q
      rneF32 (.fin (if exact then r else r + r / ((2 ^ 190 : Nat) : Rat)))
  | 3 =>
    if 128 ≤ q then rneF32 (.inf false)
    else if q < -150 then 0
    else if q.den = 1 then (if q < -126 then nearestSmall (pow2 q.num) else rneF32 (.fin (pow2 q.num)))
    else withinUlp 3 x (nearRangeRel (exp2Approx q))
  | 4 => if q < 0 then nanBits else
      let e := floorLog2 q
      if q = pow2 e then rneF32 (Val.ofInt e)
      else
        let r := nearRange (log2Approx q)
        if 1 / 2 ≤ q ∧ q ≤ 2 then withinBound 4 x r (pow2 (-22)) else withinUlp 4 x r
  | 5 => withinBound 5 x (sinRange q) (pow2 (-22))
  | 6 => withinBound 6 x (cosRange q) (pow2 (-22))
  | 7 => withinBound 7 x (tanhRange q) (pow2 (-22))
  | _ => withinBound 8 x (sigRange q) (pow2 (-23))

/-- Bits of 1, −1, 0.5 and the infinities. -/
def oneBits : Elem := 0x3F800000
def infBits (neg : Bool) : Elem := if neg then 0xFF800000 else 0x7F800000

/-- The result at ±0 (R175). -/
def sfZero (op : Nat) (x : Elem) : Elem :=
  match op with
  | 0 => infBits (bitAt x 31)
  | 1 => infBits (bitAt x 31)
  | 2 => x
  | 3 => oneBits
  | 4 => infBits true
  | 5 => x
  | 6 => oneBits
  | 7 => x
  | _ => 0x3F000000

/-- The result at ±∞ (R175). -/
def sfInf (op : Nat) (neg : Bool) : Elem :=
  match op with
  | 0 => if neg then 0x80000000 else 0
  | 1 => if neg then nanBits else 0
  | 2 => if neg then nanBits else infBits false
  | 3 => if neg then 0 else infBits false
  | 4 => if neg then nanBits else infBits false
  | 5 => nanBits
  | 6 => nanBits
  | 7 => if neg then 0xBF800000 else oneBits
  | _ => if neg then 0 else oneBits

/-- The result of SF operation `op` for an input (R174, R175): a fixed function of its bits. -/
def sfValue (op : Nat) (x : Elem) : Elem :=
  match f32 x with
  | .nan => nanBits
  | .inf neg => sfInf op neg
  | .zero _ => sfZero op x
  | .fin q => sfFinite op x q

/-- What an SF record must meet at forward (R173). -/
def sfRecordOk (r : Line) : Bool := isVec (nameD r) && isVec (nameA r) && decide (opOf r ≤ 8)

/-- Latencies of R174. -/
def sfLatency (op : Nat) : Nat := nth 24 [12, 14, 16, 14, 16, 20, 20, 22, 24] op

/-- One SF issue: it holds the lanes for 4 cycles (R173). -/
def sfStep (op : Nat) (x : Issue) (s : State) : Out :=
  mulStep x (vecPerform false true false x (sfLatency op) fun c => (lanesA c x).map (sfValue op)) s

/-- FRCP (R174). -/
def execFrcp (x : Issue) (s : State) : Out := sfStep 0 x s
/-- FRSQ (R174). -/
def execFrsq (x : Issue) (s : State) : Out := sfStep 1 x s
/-- FSQRT (R174). -/
def execFsqrt (x : Issue) (s : State) : Out := sfStep 2 x s
/-- FEXP2 (R174). -/
def execFexp2 (x : Issue) (s : State) : Out := sfStep 3 x s
/-- FLOG2 (R174). -/
def execFlog2 (x : Issue) (s : State) : Out := sfStep 4 x s
/-- FSIN (R174). -/
def execFsin (x : Issue) (s : State) : Out := sfStep 5 x s
/-- FCOS (R174). -/
def execFcos (x : Issue) (s : State) : Out := sfStep 6 x s
/-- FTANH (R174). -/
def execFtanh (x : Issue) (s : State) : Out := sfStep 7 x s
/-- FSIG (R174). -/
def execFsig (x : Issue) (s : State) : Out := sfStep 8 x s

/-! ## Chapter 08 on VA and VB: forward conditions (R178 to R180, R186, R187) -/

def vFill (r : Line) : Bool := modBit r 31
def vInv (r : Line) : Bool := modBit r 30
def vClass (r : Line) : BitVec 4 := r.extractLsb' 456 4

/-- The conditions common to flat streams: ROT, BLKAX and L2SC zero, and BASE aligned (R180). -/
def flatOk (st : Line) : Bool :=
  stRot st == 0 && stBlkAx st == 0 && !stL2sc st && stBase st % ((stFmt st).width / 8) == 0

def lutFmt (f : Fmt) : Bool :=
  f == .i8 || f == .u8 || f == .f16 || f == .bf16 || f == .f32 || f == .i32

/-- What a record of these operations must meet at forward. -/
def specialRecordOk (r sD _sA sB : Line) : Bool :=
  let d := isVec (nameD r)
  let a := isVec (nameA r)
  let word (st : Line) : Bool := stSpace st == 0 && (stFmt st == .f32 || stFmt st == .i32) && flatOk st
  match opOf r with
  | 0x008 => d && a && vOrImm (nameB r) && (vTy r == 1 || vTy r == 2)
  | 0x052 => d && a && isStream (nameB r) && word sB
  | 0x053 => isStream (nameD r) && a && isVec (nameB r) && word sD
  | 0x054 => d && a && isStream (nameB r) && stSpace sB == 0 && lutFmt (stFmt sB) && flatOk sB
  | 0x060 => d && a && vOrImm (nameB r)
  | 0x061 => d && a
  | 0x070 =>
    isStream (nameD r) && a && isVec (nameB r) && decide (stSpace sD ≤ 2) && stFmt sD == .i32 && flatOk sD
      && (vTy r == 1 || vTy r == 2) && decide (vOpx r ≤ 4)
  | _ => false

/-! ## High product, partition and count (R181, R182, R186) -/

/-- High 32 bits of the product (R186). -/
def mulHighLane (ty : Nat) (a b : Elem) : Elem :=
  if ty = 1 then ((a.signExtend 64 * b.signExtend 64) >>> 32).setWidth 32
  else ((a.setWidth 64 * b.setWidth 64) >>> 32).setWidth 32

/-- VMULH (R186). -/
def execVmulh (x : Issue) (s : State) : Out :=
  mulStep x (vecPerform false true true x 8 fun c =>
    List.zipWith (mulHighLane (vTy x.raw)) (lanesA c x) (lanesB c x (vTy x.raw))) s

/-- Whether a lane is selected (R181, R182). -/
def selected (inv : Bool) (a : Elem) : Bool := (a == 0) == inv

/-- VPART (R181): the selected lanes' values in ascending order, then the tail. -/
def execVpart (x : Issue) (s : State) : Out :=
  vecStep false true true x 6 (fun c =>
    let imm := isImm (nameB x.raw)
    let b := if imm then [] else vecAll c.ctx (vecB x)
    let val (p : Nat) : Elem := if imm then BitVec.ofInt 32 ((p : Int) + immOf (nameB x.raw)) else nth 0 b p
    let lanes := (lanesA c x).zipIdx
    let yes := (lanes.filter fun e => selected (vInv x.raw) e.1).map fun e => val e.2
    let no := (lanes.filter fun e => !selected (vInv x.raw) e.1).map fun e => val e.2
    yes ++ if vFill x.raw then no.map fun _ => BitVec.allOnes 32 else no) s

/-- VCNT (R182). -/
def execVcnt (x : Issue) (s : State) : Out :=
  vecStep false true false x 3 (fun c =>
    List.replicate 1024 (BitVec.ofNat 32 ((lanesA c x).filter (selected (vInv x.raw))).length)) s

/-! ## Flat element addresses (R177, R180) -/

def active (i : Elem) : Bool := i != BitVec.allOnes 32
def flatAddr (st : Line) (t : Int) (i : Elem) : Int :=
  (stBase st : Int) + t * (stTilePitch st : Int) + (i.toNat * ((stFmt st).width / 8) : Nat)

/-- The first active access outside core scratchpad (R180). -/
def flatBound (st : Line) (t : Int) (idx : List Elem) : List Flt :=
  let w : Int := ((stFmt st).width / 8 : Nat)
  match idx.find? fun i => active i && (decide (flatAddr st t i < 0) || decide ((spSize : Int) < flatAddr st t i + w)) with
  | some i => let a := flatAddr st t i; [(0x06, addrInfo (if a < 0 then a else max a (spSize : Int)))]
  | none => []

/-- The scratchpad bytes of the active accesses. -/
def flatBytes (st : Line) (t : Int) (idx : List Elem) : List Nat :=
  (idx.filter active).flatMap fun i =>
    (List.range ((stFmt st).width / 8)).map fun k => (flatAddr st t i).toNat + k

/-- The code of the element at an index. -/
def flatElem (c : Core) (st : Line) (t : Int) (i : Elem) : Nat :=
  ofLeBytes (spRead c (flatAddr st t i).toNat ((stFmt st).width / 8))

/-! ## Gather, scatter and table lookup (R183 to R185) -/

/-- The causes that VGATH's elements and register raise. -/
def gatherFaults (x : Issue) (s : State) : List Flt :=
  let c := curCore s
  let idx := lanesA c x
  let b := flatBound x.sB (posB x) idx
  b ++ poisonDAB c x false true false
    ++ readFaults c (some (nameB x.raw)) x.first (if b.isEmpty then flatBytes x.sB (posB x) idx else [])

/-- Issue of VGATH. -/
def gatherPerform (x : Issue) (s : State) : Perf :=
  let c := curCore s
  checked (gatherFaults x s)
    (.ok (launchFlight x 6 (.vec (vecD x) ((lanesA c x).map fun i =>
      if active i then BitVec.ofNat 32 (flatElem c x.sB (posB x) i) else 0) noCount) s))

/-- VGATH (R183). -/
def execVgath (x : Issue) (s : State) : Out := issueStep x 0 (gatherPerform x) s

/-- The causes that VSCAT's elements and registers raise. -/
def scatterFaults (x : Issue) (s : State) : List Flt :=
  let c := curCore s
  flatBound x.sD (posD x) (vecAll c.ctx (vecB x)) ++ poisonDAB c x false true true

/-- Issue of VSCAT: the writes perform four cycles on, in ascending lane order. -/
def scatterPerform (x : Issue) (s : State) : Perf :=
  let c := curCore s
  checked (scatterFaults x s) (
    .ok (launchFlight x 4 (.sp (((lanesA c x).zip (vecAll c.ctx (vecB x))).flatMap fun p =>
      if active p.2 then (leBytes 4 p.1.toNat).zipIdx.map fun b => ((flatAddr x.sD (posD x) p.2).toNat + b.2, b.1)
      else []) noCount) s))

/-- VSCAT (R184). -/
def execVscat (x : Issue) (s : State) : Out := issueStep x 0 (scatterPerform x) s

/-- The indices of VLUT: a field of each lane of A. -/
def lutIndex (c : Core) (x : Issue) : List Elem := (lanesA c x).map (fieldLane (vSh x.raw) (vLen x.raw))

/-- The causes that VLUT's elements and register raise. Every lane is active, the all-ones field included. -/
def lutFaults (x : Issue) (s : State) : List Flt :=
  let c := curCore s
  let idx := lutIndex c x
  let t := posB x
  let n := (stFmt x.sB).width / 8
  match idx.find? fun i => decide (flatAddr x.sB t i < 0) || decide ((spSize : Int) < flatAddr x.sB t i + (n : Int)) with
  | some i =>
    let a := flatAddr x.sB t i
    [(0x06, addrInfo (if a < 0 then a else max a (spSize : Int)))]
  | none =>
    poisonDAB c x false true false ++ readFaults c (some (nameB x.raw)) x.first
      (idx.flatMap fun i => (List.range n).map fun k => (flatAddr x.sB t i).toNat + k)

/-- Issue of VLUT. -/
def lutPerform (x : Issue) (s : State) : Perf :=
  let c := curCore s
  checked (lutFaults x s) (.ok (launchFlight x 5
    (.vec (vecD x) ((lutIndex c x).map fun i => wideElem (stFmt x.sB) (flatElem c x.sB (posB x) i)) noCount) s))

/-- VLUT (R185). -/
def execVlut (x : Issue) (s : State) : Out := issueStep x 0 (lutPerform x) s

/-! ## Engine accesses to memory: translation (R24, R35, R244, R248) -/

/-- The first address of each 4 KiB piece of a virtual range. -/
def pageStarts (r : Nat × Nat) : List Nat :=
  ((List.range (r.2 / 4096 + 2)).map fun k => max r.1 (r.1 / 4096 * 4096 + 4096 * k)).filter fun v => decide (v < r.1 + r.2)

/-- The addresses of a range whose page the die's translation cache does not hold. -/
def missing (s : State) (r : Nat × Nat) : List Nat :=
  (pageStarts r).filter fun v => (findTlb s (curDie s) (curCtx s).asid v).isNone && !isMailbox v

/-- The fault of an engine access to virtual ranges: of the places that do not translate, the one of lowest code
(R366). In a gang segment a page that needs a walk is a fault as well (R35; DEDUCED, log entry 18). -/
def engineFault (s : State) (col : Nat) (wr : Bool) (ranges : List (Nat × Nat)) : List Flt :=
  match lowestFault (ranges.flatMap fun r =>
      match accessFaults s wr r.1 r.2 with
      | [] => if segGang s then ((missing s r).take 1).map fun v => (v, 0x10, 3) else []
      | l => l) with
  | some (v, c, l) => [(c, transInfo l col v wr)]
  | none => []

/-- Whether every page of ranges is a host page or a LOCK page: the host holds no sector of them (R396). -/
def hostHoldsNone (s : State) (ranges : List (Nat × Nat)) : Bool :=
  (ranges.flatMap pageStarts).all fun v => match translate s (curDie s) (curCtx s).asid v false with
    | .ok p _ => p.host || pageLocked s (curCtx s).asid v
    | .fault _ _ => true

/-- The walks that an engine access to ranges that translate needs: the pages enter the translation cache. With them,
the cycles for which the core holds: while the longest walk runs, and while the host gives up what it holds (R248, R396). -/
def engineWalks (ranges : List (Nat × Nat)) (s : State) : Nat × State :=
  let need := ranges.flatMap (missing s)
  let (w, s) := if need.isEmpty then (0, s)
    else walkLength (need.foldl (fun s v => noteWalk (curDie s) (curCtx s).asid v s) s)
  let (b, s) := backInvalidate (hostHoldsNone s ranges) s
  (w + b, s)

/-- Perform an engine access to ranges that translate: at once where it needs no walk, else in the first cycle after the
hold (R24, R248). In a window replay, whose results land as their cycles pass again, it is performed at once (DESIGN
CHOICE, log entry 42). -/
def afterWalks (x : Issue) (ranges : List (Nat × Nat)) (perform : State → Perf) (s : State) : Perf :=
  let (n, s) := engineWalks ranges s
  if n = 0 then perform s
  else
    let s := pushEvent 0x100 x.col (BitVec.ofNat 64 n) (pcOf s) s
    if (curCore s).hold = .none then .ok (keepIssue x s) else perform s

/-! ## Vector atomics (R187, R188) -/

/-- The new element of one lane (R187). -/
def vamoLane (opx ty : Nat) (old a : Elem) : Elem :=
  match opx with
  | 0 => old + a
  | 1 => minMaxLane false ty old a
  | 2 => minMaxLane true ty old a
  | 3 => old ||| a
  | _ => old ^^^ a

/-- VAMO issues of space 1 or 2 that have not been acknowledged (R188). -/
def vamoPending (c : Core) : Nat :=
  (c.flights.filter fun f => match f.kind with
    | .vamo _ _ _ => true
    | _ => false).length

/-- The active lanes' virtual or LS ranges of a VAMO. -/
def vamoRanges (x : Issue) (idx : List Elem) : List (Nat × Nat) :=
  (idx.filter active).map fun i => ((flatAddr x.sD (posD x) i % (2 ^ 64 : Nat)).toNat, 4)

/-- Bounds of a VAMO in LS space (R187, R220). -/
def vamoLsBound (c : Ctx) (x : Issue) (idx : List Elem) : List Flt :=
  match idx.find? fun i => active i &&
      (decide (flatAddr x.sD (posD x) i < 0) || decide ((lsSize c : Int) < flatAddr x.sD (posD x) i + 4)) with
  | some i =>
    let a := flatAddr x.sD (posD x) i
    [(0x0D, addrInfo (if a < 0 then a else max a (lsSize c : Int)))]
  | none => []

/-- Whether a line of an active lane is not homed in this package's DRAM (R188). -/
def vamoAway (s : State) (ranges : List (Nat × Nat)) : Bool :=
  ranges.any fun r => (piecesOf r.1 r.2).any fun p => notHomed s p.1

/-- The causes that VAMO's elements and registers raise. Poison of the words it reads in memory or LS space is met
at the slice. -/
def vamoFaults (x : Issue) (s : State) : List Flt :=
  let c := curCore s
  let idx := vecAll c.ctx (vecB x)
  let bad := poisonDAB c x false true true
  match stSpace x.sD with
  | 0 =>
    let b := flatBound x.sD (posD x) idx
    b ++ bad ++ readFaults c (some (nameD x.raw)) x.first (if b.isEmpty then flatBytes x.sD (posD x) idx else [])
  | 1 => (if 4 ≤ vamoPending c then [(0x0A, 0)] else []) ++ vamoLsBound c.ctx x idx ++ bad
  | _ =>
    let ranges := vamoRanges x idx
    let tr := engineFault s x.col true ranges
    let away := if tr.isEmpty && vamoAway s ranges then [(0x0B, (0 : Word))] else []
    (if 4 ≤ vamoPending c then [(0x0A, 0)] else []) ++ tr ++ away ++ bad

/-- Issue of VAMO. -/
def vamoPerform (x : Issue) (s : State) : Perf :=
  let vals := lanesA (curCore s) x
  let idx := vecAll (curCtx s) (vecB x)
  checked (vamoFaults x s) (
    let send (s : State) : Perf :=
      let (n, s) := drawOracle s
      .ok (launchFlight x (1 + n % 600) (.vamo x vals idx) s)
    if stSpace x.sD = 0 then .ok (launchFlight x 4 (.vamoSp x vals idx) s)
    else if stSpace x.sD = 1 then send s
    else afterWalks x (vamoRanges x idx) send s)

/-- VAMO (R187, R188): in space 1 or 2 it holds the column's atomic port for 16 cycles, nullified issues
included. -/
def execVamo (x : Issue) (s : State) : Out :=
  if stSpace x.sD = 0 then issueStep x 0 (vamoPerform x) s
  else
    issueStep x (KMap.get 0 (curCore s).atomUntil x.col) (vamoPerform x)
      (updCore (fun c => { c with atomUntil := KMap.set 0 c.atomUntil x.col (c.ctime.toNat + 16) }) s)

/-- The scratchpad bytes that a VAMO of space 0 writes: its lanes applied in ascending order (R187). -/
def vamoSpBytes (c : Core) (x : Issue) (vals idx : List Elem) : List (Nat × Byte) :=
  ((vals.zip idx).foldl (fun (a : Core × List (Nat × Byte)) p =>
    if active p.2 then
      let at_ := (flatAddr x.sD (posD x) p.2).toNat
      let old := BitVec.ofNat 32 (ofLeBytes (spRead a.1 at_ 4))
      let new := leBytes 4 (vamoLane (vOpx x.raw) (vTy x.raw) old p.1).toNat
      (spWriteBytes (new.zipIdx.map fun b => (at_ + b.2, b.1)) a.1, a.2 ++ new.zipIdx.map fun b => (at_ + b.2, b.1))
    else a) (c, [])).2

/-- One lane of a VAMO performs at the slices of its bytes (R187). Translations were checked at the issue; a page that
has gone since takes no update. -/
def vamoOne (x : Issue) (a i : Elem) (s : State) : State :=
  let at_ := (flatAddr x.sD (posD x) i % (2 ^ 64 : Nat)).toNat
  let c := curCtx s
  let die := curDie s
  let new (old : List Byte) : List Byte :=
    leBytes 4 (vamoLane (vOpx x.raw) (vTy x.raw) (BitVec.ofNat 32 (ofLeBytes old)) a).toNat
  if stSpace x.sD = 1 then
    if (piecesOf at_ 4).any fun p => lsBadAt s die c p.1 then pushFaults x.col (pcOf s) [(0x42, 0)] s
    else lsWrite die c at_ (new (lsRead s die c at_ 4)) s
  else if (piecesOf at_ 4).any fun p => match heldTr s die c.asid p.1 true with
      | .ok _ _ => false
      | .fault _ _ => true then s
  else
    let (old, bad) := readVa s die c.asid at_ 4
    if bad then pushFaults x.col (pcOf s) [(0x42, 0)] s else writeVa die c.asid at_ (new old) false s

/-- The lanes of a VAMO from its first active one on. -/
def firstActive : List Elem → List Elem → Option (Elem × Elem × List Elem × List Elem)
  | v :: vs, i :: is => if active i then some (v, i, vs, is) else firstActive vs is
  | _, _ => none

/-- Whether a lane waits for an earlier issue of its class: the lanes of one class perform in the order of their
issue (R259, R260). -/
def vamoWaits (l : List Flight) (f : Flight) : Bool :=
  match f.kind with
  | .vamo x _ _ => l.any fun g => match g.kind with
    | .vamo y _ _ => decide (g.seq < f.seq) && vClass y.raw == vClass x.raw
    | _ => false
  | _ => false

/-- VAMO_ACKNOWLEDGEMENT (R187, R188): the next active lane performs; with the last one the issue is
acknowledged. The cycle of each lane is open up to issue + 600: the oracle chooses (DESIGN CHOICE, log entry 46). An issue
with no active lane counts as long (R188; DESIGN CHOICE, log entry 97). -/
def execVamoAcknowledgement (f : Flight) (s : State) : Out :=
  match f.kind with
  | .vamo x vals idx =>
    let s := dropFlight f s
    match firstActive vals idx with
    | none => .next s
    | some (v, i, vs, is) =>
      let s := vamoOne x v i s
      if is.any active then
        let (n, s) := drawOracle s
        let due := min (f.due + n) (f.issued + 600)
        .next (updCore (fun c => { c with flights := c.flights ++ [{ f with due := due, kind := .vamo x vs is }] }) s)
      else .next s
  | _ => .next s

/-! ## Other landings -/

/-- ENGINE_ACCESS_PERFORM (R146): scratchpad bytes, one row of a vector register, a space-0 VAMO (which
reads after every write performed before its cycle, and writes in it), or the sectors of CPY.D and CPY.W
perform. A watch, tag or poison mark of a sector stays but where a whole sector is written (R208, R360). -/
def spLanding (bytes : List (Nat × Byte)) (k : Count) (c : Core) : Core :=
  let c := spWriteBytes bytes c
  let whole := (sectorsOf (bytes.map Prod.fst)).filter fun q =>
    c.spBad.contains q && (List.range 64).all fun i => bytes.any fun b => b.1 == 64 * q + i
  { c with
    spBad := c.spBad.filter fun q => !whole.contains q
    ctx := addCount k c.ctx }

end Sys2Proof.Machine
end

