-- ==== Sys2Proof/Machine/Copy.lean ====
section
/-! DEFINITION. The block-transfer column (chapter 09, R191 to R211): forward conditions, the rows a
command moves, its path and landing cycle, and the meanings of the CP operations, of COPY_LANDING,
ENGINE_ACCESS_PERFORM and LOOSE_COPY_OVERRUN. -/

namespace Sys2Proof.Machine

/-! ## Modifier fields (R193, R200 to R204) -/

def cpErc (r : Line) : Bool := modBit r 63
def cpTag (r : Line) : BitVec 7 := r.extractLsb' 480 7
def cpCls (r : Line) : BitVec 4 := r.extractLsb' 476 4
def cpPair (r : Line) : Option Nat := if modBit r 51 then some (recMod r 45 6) else none
def cpxForm (r : Line) : Bool := modBit r 51
def cpxPull (r : Line) : Bool := modBit r 50
def cpxIdx (r : Line) : Nat := recMod r 43 7
def cpxPkg (r : Line) : Nat := recMod r 0 16
/-- CPY.L: images, stride, padding, image and output sizes (R202). -/
def cplImages (r : Line) : Nat := recMod r 44 8 + 1
def cplStride (r : Line) : Nat := recMod r 42 2 + 1
def cplPadL (r : Line) : Nat := recMod r 39 3
def cplPadT (r : Line) : Nat := recMod r 36 3
def cplIH (r : Line) : Nat := recMod r 27 9 + 1
def cplIW (r : Line) : Nat := recMod r 18 9 + 1
def cplOH (r : Line) : Nat := recMod r 9 9 + 1
def cplOW (r : Line) : Nat := recMod r 0 9 + 1

/-! ## Forward conditions (R192 to R194, R202, R204, R206, R402) -/

/-- The conditions on the two tiles of a copy (R194). -/
def tilesOk (rows : Bool) (d a : Line) : Bool :=
  (stSpace d == 0 || stSpace a == 0) && stRowBytes d == stRowBytes a && (!rows || stRows d == stRows a)

/-- What a record of column CP must meet at forward, given the machine's feature bits, package number and
whether the segment is a gang segment. -/
def copyRecordOk (feat0 : Word) (pkg : BitVec 16) (gang : Bool) (r sD sA : Line) : Bool :=
  let d := isStream (nameD r)
  let a := isStream (nameA r)
  let marked := cpErc r || cpTag r != 0
  let dest (sp : Bool) : Bool := sp || !marked
  match opOf r with
  | 0x000 => d && a && tilesOk true sD sA && dest (stSpace sD == 0)
  | 0x001 => d && a && vOrImm (nameB r) && stSpace sD == 0 && stRot sA == 0 && tilesOk false sD sA
  | 0x002 => d && a && isVec (nameB r) && tilesOk true sD sA && dest (stSpace sD == 0)
  | 0x003 => d && a && isVec (nameB r) && tilesOk true sD sA && dest (stSpace sD == 0)
  | 0x004 =>
    let far := if cpxPull r then sA else sD
    let near := if cpxPull r then sD else sA
    d && a && tilesOk true sD sA && stSpace near == 0
      && (if cpxForm r then gang && stSpace far == 0 && (cpxPull r || cpTag r == 0)
          else bitAt feat0 1 && stSpace far == 2 && cpxPkg r != pkg.toNat && dest (cpxPull r))
  | 0x005 => d && vOrImm (nameB r) && dest (stSpace sD == 0)
  | 0x006 => d && stSpace sD == 2 && !marked
  | 0x007 => d && stSpace sD == 2 && !marked
  | _ => false

/-! ## Rows (R194, R200 to R203) -/

/-- Address of flat row `r` of tile `t` in the stream's space. -/
def rowAddr (st : Line) (t : Int) (r : Nat) : Nat := (rowStart st t r % (2 ^ 64 : Nat)).toNat

/-- The bytes of a row, each with whether its unit is poisoned (R360). `k` is the core whose scratchpad a
space-0 row lies in. -/
def readRow (s : State) (k : Nat) (st : Line) (t : Int) (r n : Nat) : List (Byte × Bool) :=
  let die := curDie s
  let c := curCtx s
  let a := rowAddr st t r
  match stSpace st with
  | 0 =>
    let core := getCore s k
    (rowBytesAt st t r n).map fun b => (KMap.get 0 core.sp b, core.spBad.contains (b / 64))
  | 1 => (lsRead s die c a n).zipIdx.map fun b => (b.1, lsBadAt s die c (a + b.2))
  | _ => (piecesOf a n).flatMap fun p =>
      let (bs, bad) := readVa s die c.asid p.1 p.2
      bs.map fun b => (b, bad)

/-- The runs that write a row, one for each 64-byte sector, and their poison. -/
def destRuns (k : Nat) (st : Line) (t : Int) (r : Nat) (bs : List (Byte × Bool)) : List ((Dest × List Byte) × Bool) :=
  let a := rowAddr st t r
  (piecesOf a bs.length).map fun p =>
    let part := (bs.drop (p.1 - a)).take p.2
    let d : Dest := match stSpace st with
      | 0 => .sp k (rotate st r p.1)
      | 1 => .ls p.1
      | _ => .va p.1
    ((d, part.map Prod.fst), part.any Prod.snd)

/-- What fills a row of the destination: a flat row of A, or given bytes. -/
inductive RowSrc where
  | row (r : Nat)
  | bytes (bs : List (Byte × Bool))
  deriving DecidableEq, Repr

/-- The rows of a command: flat rows of A it reads, and for each row of D what fills it, in order. -/
structure Plan where
  reads : List Nat
  writes : List (Nat × RowSrc)
  /-- Tail mask of D, where the command sets it (R203). -/
  tail : Option Word
  /-- Bytes counted for the landing. -/
  bytes : Nat
  deriving DecidableEq, Repr

/-- Lane k of the index list (R201). -/
def indexLane (c : Core) (x : Issue) (k : Nat) : Elem := vecElem c.ctx (vecB x) k

/-- CPY and CPY.X: row by row; rows masked by the pair's tail mask are not written (R200). -/
def planCopy (c : Core) (x : Issue) : Plan :=
  let n := stRows x.sD
  let mask : Word := match (if opOf x.raw = 0 then cpPair x.raw else none) with
    | some p => KMap.get 0 c.ctx.tm p
    | none => 0
  { reads := List.range n
    writes := ((List.range n).filter fun r => !bitAt mask r).map fun r => (r, .row r)
    tail := none, bytes := n * stRowBytes x.sD }

/-- CPY.G (R201). -/
def planGather (c : Core) (x : Issue) : Plan :=
  let n := stRows x.sD
  let idx := (List.range n).map fun k => indexLane c x k
  let zero : RowSrc := .bytes (List.replicate (stRowBytes x.sD) (0, false))
  { reads := (idx.filter active).map BitVec.toNat
    writes := idx.zipIdx.map fun i => (i.2, if active i.1 then .row i.1.toNat else zero)
    tail := none, bytes := n * stRowBytes x.sD }

/-- CPY.S (R201): of two lanes that name one row, the higher is written last. -/
def planScatter (c : Core) (x : Issue) : Plan :=
  let n := stRows x.sA
  let idx := (List.range n).map fun k => indexLane c x k
  { reads := List.range n
    writes := (idx.zipIdx.filter fun i => active i.1).map fun i => (i.1.toNat, .row i.2)
    tail := none, bytes := n * stRowBytes x.sA }

/-- The fill of CPY.L's pad and CPY.Z (R202, R205). -/
def fillRow (c : Core) (x : Issue) (n : Nat) : List (Byte × Bool) :=
  if isImm (nameB x.raw) then List.replicate n (BitVec.ofInt 8 (immOf (nameB x.raw)), false)
  else
    let bad := !(vecBadIn c (vecB x) fun i => decide (4 * i < n)).isEmpty
    (leBytes n (vecImageBits c.ctx (vecB x) 0 (8 * n))).map fun b => (b, bad)

/-- Where position `p` of CPY.L takes its row from (R203): none past the batch, a pad, or a row of A. -/
def lowerRow (x : Issue) (pad : List (Byte × Bool)) (p : Nat) : Option RowSrc :=
  let r := x.raw
  let oh := cplOH r
  let ow := cplOW r
  let l := stRowOrg x.sA + stRows x.sD * x.i2 + p
  let n := l / (oh * ow)
  let q := l % (oh * ow)
  let y : Int := (q / ow * cplStride r + x.i1 : Nat) - (cplPadT r : Int)
  let z : Int := (q % ow * cplStride r + x.i0 : Nat) - (cplPadL r : Int)
  if cplImages r ≤ n then none
  else if y < 0 ∨ (cplIH r : Int) ≤ y ∨ z < 0 ∨ (cplIW r : Int) ≤ z then some (.bytes pad)
  else some (.row ((n * cplIH r + y.toNat) * cplIW r + z.toNat))

/-- CPY.L (R203). -/
def planLower (c : Core) (x : Issue) : Plan :=
  let n := stRows x.sD
  let rb := stRowBytes x.sD
  let pad := fillRow c x rb
  let rows := (List.range n).map fun p => lowerRow x pad p
  { reads := rows.filterMap fun r => match r with
      | some (.row k) => some k
      | _ => none
    writes := rows.zipIdx.map fun r => (r.2, r.1.getD (.bytes (List.replicate rb (0, false))))
    tail := some (BitVec.ofNat 64 ((rows.zipIdx.filter fun r => r.1.isNone).foldl (fun a r => a + 2 ^ r.2) 0))
    bytes := n * rb }

/-- CPY.Z (R205). -/
def planFill (c : Core) (x : Issue) : Plan :=
  let n := stRows x.sD
  let row : RowSrc := .bytes (fillRow c x (stRowBytes x.sD))
  { reads := [], writes := (List.range n).map fun r => (r, row), tail := none, bytes := n * stRowBytes x.sD }

def planOf (c : Core) (x : Issue) : Plan :=
  match opOf x.raw with
  | 1 => planLower c x
  | 2 => planGather c x
  | 3 => planScatter c x
  | 5 => planFill c x
  | _ => planCopy c x

/-! ## Faults of a start -/

/-- The virtual ranges of rows of a space-2 stream. -/
def rowRanges (st : Line) (t : Int) (rows : List Nat) : List (Nat × Nat) :=
  if stSpace st = 2 then rows.map fun r => (rowAddr st t r, stRowBytes st) else []

/-- Bounds or translation of the rows of one end (R113, R220, R244). -/
def endFaults (s : State) (st : Line) (t : Int) (rows : List Nat) (wr : Bool) : List Flt :=
  let n := stRowBytes st
  match stSpace st with
  | 0 => firstFault (rows.map fun r => spanBound st t r n)
  | 1 =>
    let top : Int := lsSize (curCtx s)
    firstFault (rows.map fun r =>
      let a := rowStart st t r
      if a < 0 then [(0x0D, addrInfo a)] else if top < a + (n : Int) then [(0x0D, addrInfo (max a top))] else [])
  | _ => engineFault s 5 wr (rowRanges st t rows)

/-- Scratchpad bytes of rows of a space-0 stream. -/
def rowsBytes (st : Line) (t : Int) (rows : List Nat) : List Nat :=
  rows.flatMap fun r => rowBytesAt st t r (stRowBytes st)

/-! ## Paths and landing (R195 to R197, R207) -/

/-- Homes of the lines of virtual ranges. -/
def homesOf (s : State) (ranges : List (Nat × Nat)) : List Phys :=
  ranges.flatMap fun r => (pageStarts r).filterMap fun v =>
    match translate s (curDie s) (curCtx s).asid v false with
    | .ok p _ => some p
    | .fault _ _ => none

/-- The path of a command whose far end is in memory: the slowest of its homes (R195). -/
def memoryPath (s : State) (homes : List Phys) : Path :=
  if homes.any Phys.host then .host else if homes.any fun p => homeDie p.pa != curDie s then .remote else .dram

/-- The refresh term: the largest latched for a stack that homes a line (R196). (DEDUCED, log entry 45.) -/
def refreshTerm (c : Ctx) (die : Nat) (homes : List Phys) : Nat :=
  let ds := if homes.isEmpty then [die] else homes.map fun p => homeDie p.pa
  if ds.any fun d => bitAt c.latched d then 24 else 12

/-- Port number, slots of 64 bytes a cycle, base, hop (R196). -/
def pathPort : Path → Nat
  | .ss => 0
  | .ls => 1
  | .dram => 2
  | _ => 3
def pathWidth (c : Ctx) : Path → Nat
  | .ss => 512
  | .ls => 512
  | .dram => 64 * c.q
  | _ => 64 * c.m
def pathBase : Path → Nat
  | .ss => 6
  | .ls => 40
  | .dram => 110
  | _ => 110 + 48

/-- Cycles from start to landing on a path that is not loose (R196). -/
def landLatency (c : Ctx) (p : Path) (bytes refresh : Nat) : Nat :=
  pathBase p + ceilDiv bytes (pathWidth c p) + (if p = .dram ∨ p = .remote then refresh else 0)

def isLoose (p : Path) : Bool := p == .host || p == .package

/-- Loose commands that have not landed (R207). -/
def looseCount (c : Core) : Nat :=
  (c.flights.filter fun f => match f.kind with
    | .copy cp => isLoose cp.path
    | .clean _ _ => false
    | _ => false).length

/-- The copy fault's subcause that a path raises at a start (R197, R207). -/
def pathFaults (c : Core) (p : Path) : List Flt :=
  if isLoose p then (if 16 ≤ looseCount c then [(0x0C, 5)] else [])
  else if pathWidth c.ctx p = 0 ∨ c.ctime.toNat < KMap.get 0 c.ports (pathPort p) then [(0x0C, 3)]
  else []

/-- Occupy a path's port (R197). -/
def takePort (p : Path) (bytes : Nat) (c : Core) : Core :=
  if isLoose p then c
  else { c with ports := KMap.set 0 c.ports (pathPort p) (c.ctime.toNat + ceilDiv bytes (pathWidth c.ctx p)) }

/-- The range an early-read watch covers: the least and the greatest byte written (R210). -/
def watchRange (writes : List Nat) : Option (Nat × Nat) :=
  match writes with
  | [] => none
  | b :: r => some (r.foldl min b, r.foldl max b)

/-- The key of a watch: the command's flight number, told apart by the core that issued it. -/
def watchKey (core seq : Nat) : Nat := core * 2 ^ 40 + seq

/-- Set the watch of a command on the core whose scratchpad it writes (R210). -/
def setWatch (x : Issue) (core : Nat) (bytes : List Nat) (s : State) : State :=
  if !cpErc x.raw then s
  else match watchRange bytes with
    | none => s
    | some (lo, hi) =>
      updCoreAt core (fun c => { c with watches := c.watches ++ [⟨watchKey s.cur (curCore s).nextId, lo, hi⟩] }) s

/-- A seventeenth command under watch (R210). -/
def watchFaults (s : State) (x : Issue) (core : Nat) : List Flt :=
  if cpErc x.raw && decide (16 ≤ (getCore s core).watches.length) then [(0x0C, 4)] else []

/-- A copy fault of several subcauses reports the first given (R210: early read before a tag). -/
def oneCopyFault (fs : List Flt) : List Flt :=
  match fs.find? fun f => f.1 == 0x0C with
  | some f => f :: fs.filter fun g => g.1 != 0x0C
  | none => fs

/-! ## Starting a command (R199) -/

/-- The runs of a plan, with the source rows read now. -/
def planRuns (s : State) (src dst : Nat) (x : Issue) (p : Plan) : List ((Dest × List Byte) × Bool) :=
  p.writes.flatMap fun w =>
    let bs := match w.2 with
      | .row r => readRow s src x.sA (posA x) r (stRowBytes x.sA)
      | .bytes bs => bs
    destRuns dst x.sD (posD x) w.1 bs

def copyOf (x : Issue) (path : Path) (runs : List ((Dest × List Byte) × Bool)) (tagged : Bool) : Copy :=
  { path := path, runs := runs.map Prod.fst, poison := runs.map Prod.snd, tag := cpTag x.raw, cls := cpCls x.raw
    tagged := tagged, peer := 0, pull := false, cmdid := 0, through := false }

/-- When a loose host command lands is not stated: the oracle chooses (R207). (DESIGN CHOICE, log entry 8.) -/
def hostLanding (s : State) : Nat × State :=
  let (n, s) := drawOracle s
  (1 + n, s)

/-- Rows of D that a copy writes. -/
def copyRows (s : State) (x : Issue) : List Nat := (planOf (curCore s) x).writes.map Prod.fst

/-- Whether the far end of a copy is A: a source that is not in scratchpad. -/
def farIsA (x : Issue) : Bool := decide (opOf x.raw ≠ 5) && stSpace x.sA != 0

/-- The virtual ranges that a copy reads or writes in memory. -/
def copyRanges (s : State) (x : Issue) : List (Nat × Nat) :=
  if farIsA x then rowRanges x.sA (posA x) (planOf (curCore s) x).reads else rowRanges x.sD (posD x) (copyRows s x)

/-- The virtual ranges of a copy's far end, by which its timing goes: rows that PAIREN masks count (R200). -/
def farRanges (s : State) (x : Issue) : List (Nat × Nat) :=
  if opOf x.raw = 0 && !farIsA x then rowRanges x.sD (posD x) (List.range (stRows x.sD)) else copyRanges s x

/-- The path of a copy (R195). -/
def copyPath (s : State) (x : Issue) : Path :=
  match stSpace (if farIsA x then x.sA else x.sD) with
  | 0 => .ss
  | 1 => .ls
  | _ => memoryPath s (homesOf s (farRanges s x))

/-- The causes that the start of a copy raises. -/
def copyFaults (s : State) (x : Issue) : List Flt :=
  let c := curCore s
  let p := planOf c x
  let usesA := decide (opOf x.raw ≠ 5)
  let fa := if usesA then endFaults s x.sA (posA x) p.reads false else []
  let bounds := fa ++ endFaults s x.sD (posD x) (copyRows s x) true
  let read := if usesA && stSpace x.sA == 0 && fa.isEmpty then
      (readFaults c (some (nameA x.raw)) x.first (rowsBytes x.sA (posA x) p.reads)).filter fun f => f.1 != 0x42
    else []
  let watch := if stSpace x.sD = 0 then watchFaults s x s.cur else []
  let pf := if bounds.isEmpty then pathFaults c (copyPath s x) else []
  oneCopyFault (bounds ++ read ++ watch ++ pf)

/-- What a copy changes at its start: the watch on the bytes it writes, its path's port, and the tail mask of D where
it sets it. -/
def copyStarted (x : Issue) (p : Plan) (path : Path) (s : State) : State :=
  let s := if stSpace x.sD = 0 then setWatch x s.cur (rowsBytes x.sD (posD x) (p.writes.map Prod.fst)) s else s
  let s := updCore (takePort path p.bytes) s
  match p.tail with
  | some t => updCtx (fun c => { c with tm := KMap.set 0 c.tm (nameD x.raw) t }) s
  | none => s

/-- Start of CPY, CPY.L, CPY.G, CPY.S or CPY.Z. -/
def copyPerform (x : Issue) (s : State) : Perf :=
  let c := curCore s
  let p := planOf c x
  let ranges := copyRanges s x
  let homes := homesOf s (farRanges s x)
  let path := copyPath s x
  checked (copyFaults s x) (afterWalks x ranges (fun s =>
    let runs := planRuns s s.cur s.cur x p
    let cp := copyOf x path runs (stSpace x.sD == 0)
    let (lat, s) := if isLoose path then hostLanding s
      else (landLatency c.ctx path p.bytes (refreshTerm c.ctx (curDie s) homes), s)
    .ok (launchFlight x lat (.copy cp) (copyStarted x p path s))) s)

/-! ## CPY.X (R204) -/

/-- The core on which the member of the segment's gang with a spatial index runs. -/
def gangMember (s : State) (idx : Nat) : Option Nat :=
  let c := curCtx s
  (List.range nCores).find? fun k =>
    let x := getCore s k
    x.resident && x.ctx.task == c.task && x.ctx.spidx == idx
      && (x.ctx.seg.phase == .running || x.ctx.seg.phase == .closing)
      && segGang (focus k s) && bitsAt x.ctx.seg.hdr 144 12 == bitsAt c.seg.hdr 144 12

/-- The causes that the start of CPY.X to or from the scratchpad of core `k` raises (DEDUCED, log entry 35). A pull
reads later, and meets watches then (R204, R210). -/
def cpxScratchFaults (s : State) (x : Issue) (k : Nat) : List Flt :=
  let c := curCore s
  let p := planCopy c x
  let pull := cpxPull x.raw
  let bounds := endFaults s x.sA (posA x) p.reads false ++ endFaults s x.sD (posD x) p.reads true
  let source := if pull then { getCore s k with ctx := c.ctx, watches := [] } else c
  let read := if bounds.isEmpty then
      (readFaults source (some (nameA x.raw)) x.first (rowsBytes x.sA (posA x) p.reads)).filter fun f => f.1 != 0x42
    else []
  oneCopyFault (bounds ++ read ++ watchFaults s x (if pull then s.cur else k) ++ pathFaults c .remoteSp)

/-- Start of CPY.X in its scratchpad form. -/
def cpxScratch (x : Issue) (s : State) : Perf :=
  let c := curCore s
  let p := planCopy c x
  let pull := cpxPull x.raw
  match gangMember s (cpxIdx x.raw) with
  | none => .error [(0x0C, 7)]
  | some k =>
    checked (cpxScratchFaults s x k) (
      let lat := landLatency c.ctx .remoteSp p.bytes 0
      let s := setWatch x (if pull then s.cur else k) (rowsBytes x.sD (posD x) p.reads) s
      let s := updCore (takePort .remoteSp p.bytes) s
      if pull then .ok (launchFlight x 55 (.pull x k) s)
      else .ok (launchFlight x lat (.copy (copyOf x .remoteSp (planRuns s s.cur k x p) true)) s))

/-- The pull reads the target's bytes, 55 cycles after its start, and lands at its cycle; a byte under watch on the
target is an early read (R204, R210). -/
def pullRead (f : Flight) (x : Issue) (k : Nat) (s : State) : State :=
  let c := curCore s
  let p := planCopy c x
  let cp := copyOf x .remoteSp (planRuns s k s.cur x p) true
  if earlyRead (getCore s k) (rowsBytes x.sA (posA x) p.reads) then pushFaults 5 (pcOf s) [(0x0C, 2)] s
  else updCore (fun c => { c with flights := c.flights ++
    [{ f with due := f.issued + landLatency c.ctx .remoteSp p.bytes 0, kind := .copy cp }] }) s

/-- The frames of a push: as many whole rows in each as fit in 4,096 bytes (R405). -/
def pushFrames (f : Frame) (st : Line) (t : Int) (rows : List (List Byte)) : List Frame :=
  let rb := stRowBytes st
  let per := max 1 (4096 / rb)
  (chunks per (ceilDiv rows.length per) rows).zipIdx.map fun g =>
    { f with
      op := 1, va := rowAddr st t (g.2 * per) % 2 ^ 57, rowPitch := stRowPitch st, rowBytes := rb
      nRows := g.1.length, firstRow := g.2 * per, totalRows := rows.length, data := g.1.flatten }

/-- Bounds of the near tile of a memory-form CPY.X. -/
def cpxMemoryBounds (s : State) (x : Issue) : List Flt :=
  let pull := cpxPull x.raw
  endFaults s (if pull then x.sD else x.sA) (if pull then posD x else posA x) (planCopy (curCore s) x).reads pull

/-- The causes that the start of a memory-form CPY.X raises. -/
def cpxMemoryFaults (s : State) (x : Issue) : List Flt :=
  let c := curCore s
  let pull := cpxPull x.raw
  let bounds := cpxMemoryBounds s x
  let read := if !pull && bounds.isEmpty then
      (readFaults c (some (nameA x.raw)) x.first (rowsBytes x.sA (posA x) (planCopy c x).reads)).filter fun f => f.1 != 0x42
    else []
  oneCopyFault (bounds ++ read ++ (if pull then watchFaults s x s.cur else []) ++ pathFaults c .package)

/-- Start of CPY.X in its memory form (R204, R207, R405, R408). A far address is cut to the 57 bits that a frame holds
(DESIGN CHOICE, log entry 103). -/
def cpxMemory (x : Issue) (s : State) : Perf :=
  let c := curCore s
  let p := planCopy c x
  let pull := cpxPull x.raw
  let pkg := cpxPkg x.raw
  let near := if pull then x.sD else x.sA
  let tn := if pull then posD x else posA x
  let far := if pull then x.sA else x.sD
  let tf := if pull then posA x else posD x
  match KMap.get none s.peers (c.ctx.asid * 65536 + pkg), inDomain s pkg with
  | some asid, true =>
    checked (cpxMemoryFaults s x) (
      let f : Frame := { frameTo s pkg 1 with cls := (cpCls x.raw).toNat, srcCore := s.cur, cmdId := c.cmdid, asid := asid }
      let rows := p.reads.map fun r => readRow s s.cur near tn r (stRowBytes near)
      let runs := if pull then p.reads.flatMap fun r =>
          destRuns s.cur near tn r (List.replicate (stRowBytes near) (0, true)) else []
      let cp : Copy := { copyOf x .package runs pull with peer := pkg, pull := pull, cmdid := c.cmdid }
      let s := if pull then setWatch x s.cur (rowsBytes near tn p.reads) s else s
      let s := launchFlight x (2 ^ 60) (.copy cp) (updCore (fun c => { c with cmdid := (c.cmdid + 1) % 2 ^ 32 }) s)
      let frames := if pull then
          [{ f with op := 2, va := rowAddr far tf 0 % 2 ^ 57, rowPitch := stRowPitch far, rowBytes := stRowBytes far
                    nRows := 0, firstRow := 0, totalRows := p.reads.length }]
        else pushFrames f far tf (rows.map fun r => r.map Prod.fst)
      .ok (frames.foldl (fun s f => sendData pkg f s) s))
  | _, _ => .error (cpxMemoryBounds s x ++ [(0x0C, 8)])

/-! ## CPY.D and CPY.W (R206) -/

/-- Ascending runs of bytes, each from its first byte to the one after its last, joined where they touch. -/
def joinRuns (l : List (Nat × Nat)) : List (Nat × Nat) :=
  (l.foldl (fun acc r => match acc with
    | [] => [r]
    | q :: rest => if q.1 ≤ r.1 ∧ r.1 ≤ q.2 then (q.1, max q.2 r.2) :: rest else r :: acc) []).reverse

/-- The 64-byte sectors wholly inside the rows of tile D, as spans of bytes: rows that adjoin cover a sector
together. -/
def innerSpans (x : Issue) : List (Nat × Nat) :=
  (joinRuns ((List.range (stRows x.sD)).map fun r =>
    let a := rowAddr x.sD (posD x) r
    (a, a + stRowBytes x.sD))).filterMap fun q =>
    let lo := (q.1 + 63) / 64 * 64
    let hi := q.2 / 64 * 64
    if lo < hi then some (lo, hi - lo) else none

/-- Sectors of spans whose home satisfies a test. -/
def spansAt (s : State) (p : Phys → Bool) (spans : List (Nat × Nat)) : List (Nat × Nat) :=
  (spans.flatMap fun q => piecesOf q.1 q.2).filter fun q =>
    match translate s (curDie s) (curCtx s).asid q.1 false with
    | .ok h _ => p h
    | .fault _ _ => false

/-- The virtual ranges of the rows of tile D. -/
def tileRanges (x : Issue) : List (Nat × Nat) := rowRanges x.sD (posD x) (List.range (stRows x.sD))

/-- The causes that the start of CPY.D raises. -/
def dropFaults (s : State) (x : Issue) : List Flt :=
  let f := endFaults s x.sD (posD x) (List.range (stRows x.sD)) true
  f ++ if f.isEmpty && (homesOf s (tileRanges x)).any Phys.host then [(0x01, (0 : Word))] else []

/-- Start of CPY.D. -/
def dropPerform (x : Issue) (s : State) : Perf :=
  checked (dropFaults s x) (afterWalks x (tileRanges x) (fun s =>
    let spans := innerSpans x
    let near := spansAt s (fun h => homeDie h.pa == curDie s) spans
    let away := spansAt s (fun h => homeDie h.pa != curDie s) spans
    let s := if near.isEmpty then s else launchFlight x 40 (.drop near (cpCls x.raw)) s
    .ok (if away.isEmpty then s else launchFlight x 88 (.drop away (cpCls x.raw)) s)) s)

/-- The causes that the start of CPY.W raises. -/
def cleanFaults (s : State) (x : Issue) : List Flt :=
  let f := endFaults s x.sD (posD x) (List.range (stRows x.sD)) true
  let path := memoryPath s (homesOf s (tileRanges x))
  f ++ if !f.isEmpty then []
    else if path = .host then [(0x01, (0 : Word))]
    else pathFaults (curCore s) path

/-- Start of CPY.W. -/
def cleanPerform (x : Issue) (s : State) : Perf :=
  let c := curCore s
  let homes := homesOf s (tileRanges x)
  let bytes := stRows x.sD * stRowBytes x.sD
  let path := memoryPath s homes
  checked (cleanFaults s x) (afterWalks x (tileRanges x) (fun s =>
    let s := updCore (takePort path bytes) s
    .ok (launchFlight x (landLatency c.ctx path bytes (refreshTerm c.ctx (curDie s) homes))
      (.clean (innerSpans x) (cpCls x.raw)) s)) s)

/-! ## Meanings -/

/-- CPY (R200). -/
def execCpy (x : Issue) (s : State) : Out := issueStep x 0 (copyPerform x) s
/-- CPY.L (R202, R203). -/
def execCpyL (x : Issue) (s : State) : Out := issueStep x 0 (copyPerform x) s
/-- CPY.G (R201). -/
def execCpyG (x : Issue) (s : State) : Out := issueStep x 0 (copyPerform x) s
/-- CPY.S (R201). -/
def execCpyS (x : Issue) (s : State) : Out := issueStep x 0 (copyPerform x) s
/-- CPY.X, memory form (R204). -/
def execCpyXMemory (x : Issue) (s : State) : Out := issueStep x 0 (cpxMemory x) s
/-- CPY.X, scratchpad form (R204). -/
def execCpyXScratchpad (x : Issue) (s : State) : Out := issueStep x 0 (cpxScratch x) s
/-- CPY.Z (R205). -/
def execCpyZ (x : Issue) (s : State) : Out := issueStep x 0 (copyPerform x) s
/-- CPY.D (R206). -/
def execCpyD (x : Issue) (s : State) : Out := issueStep x 0 (dropPerform x) s
/-- CPY.W (R206). -/
def execCpyW (x : Issue) (s : State) : Out := issueStep x 0 (cleanPerform x) s

/-! ## Landings -/

/-- The class of a copy in flight that writes host memory; none for any other flight. -/
def hostCopyClass (f : Flight) : Option (BitVec 4) :=
  match f.kind with
  | .copy cp => if cp.path = .host ∧ (cp.runs.any fun r => match r.1 with
      | .va _ => true
      | _ => false) then some cp.cls else none
  | _ => none

/-- Number at which an access of the core has been issued among its flights. -/
def accessSeq (a : Access) : Nat := a.id / nCores

/-- Whether a landing waits: a lane of a VAMO for an earlier issue of its class (R259), a write to host memory for
the earlier ones of its class (R395). -/
def landingWaits (c : Core) (f : Flight) : Bool :=
  vamoWaits c.flights f || match hostCopyClass f with
    | none => false
    | some k => (c.flights.any fun g => decide (g.seq < f.seq) && hostCopyClass g == some k)
      || c.pend.any fun a => a.kind == .store && a.host && a.cls == k && decide (accessSeq a < f.seq)

/-- Whether a store to host memory waits for an earlier copy of its class (R395). -/
def storeWaits (c : Core) (a : Access) : Bool :=
  a.kind == .store && a.host && c.flights.any fun g => decide (g.seq < accessSeq a) && hostCopyClass g == some a.cls

/-- A watch ends with its command's landing (R210), on whichever core it stands. -/
def endWatch (seq : Nat) (s : State) : State :=
  let key := watchKey s.cur seq
  forCores (fun k s =>
    if (getCore s k).watches.any fun w => w.flight == key then
      updCoreAt k (fun c => { c with watches := c.watches.filter fun w => w.flight != key }) s
    else s) s

/-- Write back the dirty sectors of spans; the lines stay cached and clean (R206). -/
def cleanSpans (spans : List (Nat × Nat)) (s : State) : State :=
  spans.foldl (fun s q => (rangeSectors s q.1 q.2).foldl
    (fun s p => cleanLine (p.2 / 256) (BitVec.ofNat 4 (2 ^ (p.2 / 64 % 4))) s) s) s

/-- The sectors that the runs of a copy write in memory. -/
def memoryRuns (cp : Copy) : List (Nat × Nat) :=
  cp.runs.filterMap fun r => match r.1 with
    | .va a => some (a, r.2.length)
    | _ => none

/-- A copy writes its destination bytes and its arrival tags (R199, R208): in memory, sector by sector (R269). -/
def landCopy (cp : Copy) (s : State) : State :=
  let ps := if (memoryRuns cp).isEmpty then cp.runs.zip cp.poison else copyParts cp
  let s := writeCopy (curDie s) (curCtx s) cp ps s
  if cp.through then cleanSpans (memoryRuns cp) s else s

/-- COPY_LANDING (R199, R206). -/
def execCopyLanding (f : Flight) (s : State) : Out :=
  match f.kind with
  | .copy cp => .next (endWatch f.seq (landCopy cp (dropFlight f s)))
  | .clean spans _ => .next (cleanSpans spans (dropFlight f s))
  | _ => .next s

/-- Nothing more of a cancelled memory-form command is sent (R207): its frames keep their places in the
sequence and carry no row. -/
def emptyFrames (core : Nat) (cp : Copy) (s : State) : State :=
  if cp.path ≠ .package then s
  else updConn cp.peer (fun c => { c with unacked := c.unacked.map fun g =>
    if g.srcCore = core ∧ g.cmdId = cp.cmdid ∧ (g.op = 1 ∨ g.op = 2) then { g with op := 1, nRows := 0, len := 32, data := [] } else g }) s

/-- LOOSE_COPY_OVERRUN (R207): a loose copy of the core in focus that has not landed 2^20 cycles after its
start is cancelled; its destination on this package is fixed sector by sector. -/
def execLooseCopyOverrun (s : State) : Out :=
  let late := (curCore s).flights.filter fun f => match f.kind with
    | .copy cp => isLoose cp.path && decide (f.issued + 2 ^ 20 ≤ now s)
    | _ => false
  .next (late.foldl (fun s f => match f.kind with
    | .copy cp =>
      pushFaults 5 (pcOf s) [(0x0C, 6)]
        (emptyFrames s.cur cp (endWatch f.seq (cutCopy (curDie s) (curCtx s) cp (dropFlight f s))))
    | _ => s) s)

end Sys2Proof.Machine
end

