-- ==== Sys2Proof/Machine/Optical.lean ====
section
/-! DEFINITION. The optical column (chapter 14, R292 to R315): apertures and their allotment, windows,
shots, masks, calibration and reference frames. What the manual computes digitally is exact here; the
detector codes are free values within the accuracy of R311. -/

namespace Sys2Proof.Machine

/-! ## Apertures (R292 to R295) -/

def getAperture (s : State) (a : Nat) : Aperture :=
  if a % 2 = 0 then (getDie s (a / 2)).ap0 else (getDie s (a / 2)).ap1
def updAperture (a : Nat) (f : Aperture → Aperture) (s : State) : State :=
  updDie (a / 2) (fun d => if a % 2 = 0 then { d with ap0 := f d.ap0 } else { d with ap1 := f d.ap1 }) s

/-- Whether a segment is a member of the gang that the segment `g` belongs to (R34). Until the gang is first released,
each context of the task may still reach its ALIGN, and counts as well (DEDUCED, log entry 19); afterwards its members are
those that released with it, and while it waits to release again those that it aborted. -/
def sameGang (g x : Seg) : Bool :=
  let same := bitAt x.hdr 136 && bitsAt x.hdr 144 12 == bitsAt g.hdr 144 12
  match g.phase with
  | .pre => !g.reReleased || (same && x.reReleased)
  | .waiting => !g.reReleased || (same && x.reReleased)
  | .aborting => same && x.reReleased
  | _ => same && (x.phase == .running || x.phase == .closing)

/-- Whether the context with a spatial index is a member of the gang in focus, on its die. -/
def gangHas (s : State) (i : Nat) : Bool :=
  let c := curCtx s
  ((List.range 16).map fun j => 16 * curDie s + j).any fun k =>
    let x := (getCore s k).ctx
    (getCore s k).resident && x.task == c.task && x.spidx == i && sameGang c.seg x.seg

/-- The apertures of the issuer's die that a record may name, in ascending physical number (R26, R294): those granted
to its context, in a gang segment those granted to any member of the gang. -/
def namedApertures (s : State) : List Nat :=
  let c := curCtx s
  [2 * curDie s, 2 * curDie s + 1].filter fun a =>
    match (getAperture s a).owner with
    | some (t, i) => t == c.task && (i == c.spidx || (segGang s && gangHas s i))
    | none => false

/-- The physical aperture of a logical number; none where it names none (0x50). -/
def apertureOf (s : State) (apt : Nat) : Option Nat := (namedApertures s)[apt]?

/-- Logical aperture of an OX record (R298, R299, R304, R308, R310). -/
def oxApt (r : Line) : Nat :=
  match opOf r with
  | 0 => recMod r 2 1
  | 1 => recMod r 2 1
  | 4 => recMod r 20 1
  | _ => recMod r 0 1

/-! ## Forward conditions (R296 to R299, R402) -/

/-- Stream of a shot, and of a flat run (R297). -/
def shotStreamOk (st : Line) : Bool :=
  stSpace st == 0 && stFmt st == .f32 && stRot st == 0 && stBlkAx st == 0 && !stL2sc st && stBase st % 8 == 0
def flatRunOk (st : Line) : Bool :=
  stSpace st == 0 && stFmt st == .u8 && stRot st == 0 && stBlkAx st == 0 && !stL2sc st && stBase st % 64 == 0

/-- OWIN's window fits the aperture (R298). -/
def windowOk (r : Line) : Bool :=
  let a := recMod r 0 3
  let b := recMod r 3 3
  decide (1 ≤ a) && decide (a ≤ 6) && decide (1 ≤ b) && decide (b ≤ 6)
    && decide (recMod r 6 6 + 2 ^ a ≤ 64) && decide (recMod r 12 6 + 2 ^ b ≤ 64)

/-- What a record of column OX must meet at forward. -/
def opticalRecordOk (feat0 : Word) (r sD sA : Line) : Bool :=
  let d := isStream (nameD r)
  let a := isStream (nameA r)
  bitAt feat0 2 && match opOf r with
    | 0 => d && a && shotStreamOk sD && shotStreamOk sA && recMod r 0 2 != 3
    | 1 => d && a && shotStreamOk sD && shotStreamOk sA && recMod r 0 2 != 3
    | 2 => a && flatRunOk sA
    | 3 => a && flatRunOk sA
    | 4 => windowOk r
    | 5 => d && flatRunOk sD
    | _ => false

/-! ## Busy paths (R302, R305) -/

/-- Whether an operation uses the mask port (OMASK), or the shot path (OXF, OXC, OCAL, OREF). -/
def usesMaskPort (op : Nat) : Bool := op == 2
def usesShotPath (op : Nat) : Bool := op == 0 || op == 1 || op == 3 || op == 5

/-- Whether another core's issue of this cycle, still to come, uses the same path of aperture `a` as an operation. -/
def sharedIssue (s : State) (a op : Nat) : Bool :=
  ((List.range 16).map fun j => 16 * curDie s + j).any fun k =>
    let c := getCore s k
    let p := c.ctx.seg.phase
    k != s.cur && c.hold == .none && (p == .running || p == .closing) && match dueRecords c 6 with
      | [q] => !q.x.nul && usesMaskPort (opOf q.x.raw) == usesMaskPort op && usesShotPath (opOf q.x.raw) == usesShotPath op
          && apertureOf (focus k s) (oxApt q.x.raw) == some a
      | _ => false

/-- What an issue finds on its path: it is busy, or another core's issue of the same cycle wants it (R302). -/
def pathBusy (s : State) (a op : Nat) : List Flt :=
  let ap := getAperture s a
  let (last, until_) := if usesMaskPort op then (ap.lastMask, ap.maskUntil) else (ap.lastShot, ap.shotUntil)
  if ap.clk < until_ ∨ (last.1 = ap.clk + 1 ∧ last.2 ≠ s.cur) ∨ sharedIssue s a op then [(0x51, 0)] else []

/-- The path has had an issue of this core in this cycle, refused or not: another core's of the cycle is refused. -/
def notePath (a op : Nat) (s : State) : State :=
  if usesMaskPort op then updAperture a (fun x => { x with lastMask := (x.clk + 1, s.cur) }) s
  else if usesShotPath op then updAperture a (fun x => { x with lastShot := (x.clk + 1, s.cur) }) s
  else s

def takeShot (a busy : Nat) (s : State) : State := updAperture a (fun x => { x with shotUntil := x.clk + busy }) s
def takeMask (a : Nat) (s : State) : State := updAperture a (fun x => { x with maskUntil := x.clk + 16 }) s

/-! ## A window's numbers (R298 to R300) -/

/-- The window entry in force: log2 height and width, first row and column. -/
structure Window where
  a : Nat
  b : Nat
  y0 : Nat
  x0 : Nat
  deriving DecidableEq, Repr

def windowAt (ap : Aperture) (n : Nat) : Window :=
  let w := KMap.get winReset ap.wins n
  ⟨bitsAt w 0 3, bitsAt w 3 3, bitsAt w 6 6, bitsAt w 12 6⟩

def oxMode (r : Line) : Nat := recMod r 0 2
def oxWin (r : Line) : Nat := recMod r 3 2
def oxInv (r : Line) : Bool := modBit r 5
def oxBank (r : Line) : Nat := recMod r 6 1
def oxOgs (r : Line) : Nat := recMod r 7 3
def oxIstep (r : Line) : Nat := recMod r 10 6 + 1
def oxOstep (r : Line) : Nat := recMod r 16 6 + 1

/-- Busy cycles and landing latency (R301). -/
def shotBusy (mode : Nat) : Nat := if mode = 1 then 12 else 3
def shotLatency (mode : Nat) : Nat := if mode = 1 then 69 else 60

/-- Address of complex element (r, c) (R297). -/
def cplxAddr (st : Line) (t : Int) (step r c : Nat) : Int :=
  (stBase st : Int) + t * (stTilePitch st : Int) + (r * stRowPitch st : Nat) + (8 * c * step : Nat)

/-- The bounds of 8-byte elements, or of a flat run. -/
def runBound (a : Int) (n : Nat) : List Flt :=
  if a < 0 then [(0x06, addrInfo a)]
  else if (spSize : Int) < a + (n : Int) then [(0x06, addrInfo (max a (spSize : Int)))] else []

def windowPoints (w : Window) : List (Nat × Nat) :=
  (List.range (2 ^ w.a)).flatMap fun r => (List.range (2 ^ w.b)).map fun c => (r, c)

/-! ## The exact transform -/

/-- A complex number with rational parts. -/
abbrev Cplx := Rat × Rat
def cAdd (x y : Cplx) : Cplx := (x.1 + y.1, x.2 + y.2)
def cMul (x y : Cplx) : Cplx := (x.1 * y.1 - x.2 * y.2, x.1 * y.2 + x.2 * y.1)
def cScale (k : Rat) (x : Cplx) : Cplx := (k * x.1, k * x.2)

/-- exp(2πi q), to far below every bound of R311. -/
def expTurn (q : Rat) : Cplx :=
  let x : Int := ((q - (q.floor : Rat)) * ((2 * piFx320 : Nat) : Rat)).floor / (fxOne : Int)
  let n := -(x * x / (fxOne : Int))
  (ofFx (seriesFx 60 fxOne n fun k => (2 * (k : Int) + 1) * (2 * (k : Int) + 2)),
    ofFx (seriesFx 60 x n fun k => (2 * (k : Int) + 2) * (2 * (k : Int) + 3)))

/-- Σ over the window of x(r, c) exp(s 2πi (ru ÷ P + cv ÷ Q)). -/
def dftAt (w : Window) (sgn : Int) (x : List Cplx) (u v : Nat) : Cplx :=
  ((windowPoints w).zip x).foldl (fun acc e =>
    cAdd acc (cMul e.2 (expTurn ((sgn : Rat) *
      (((e.1.1 * u : Nat) : Rat) / ((2 ^ w.a : Nat) : Rat) + ((e.1.2 * v : Nat) : Rat) / ((2 ^ w.b : Nat) : Rat)))))) (0, 0)

/-- The coded mask at a pixel (R304). -/
def maskAt (ap : Aperture) (bank p : Nat) : Cplx :=
  let al := (KMap.get 255 ap.amp (bank * 4096 + p)).toNat
  let ph := (KMap.get 0 ap.phase (bank * 4096 + p)).toNat
  cScale ((al : Rat) / 255) (expTurn ((ph : Rat) / 256))

/-- The exact transform of the window, in order of its points (R300, R311). -/
def exactTransform (ap : Aperture) (w : Window) (r : Line) (x : List Cplx) : List Cplx :=
  if opOf r = 0 then (windowPoints w).map fun p => dftAt w (if oxInv r then 1 else -1) x p.1 p.2
  else
    let y := (windowPoints w).map fun p =>
      cMul (maskAt ap (oxBank r) (64 * (w.y0 + p.1) + w.x0 + p.2)) (dftAt w (-1) x p.1 p.2)
    (windowPoints w).map fun p => cScale (1 / ((2 ^ (w.a + w.b) : Nat) : Rat)) (dftAt w 1 y p.1 p.2)

/-! ## Detector codes (R300, R307, R311) -/

/-- RNE of a rational to an integer. -/
def rneInt (q : Rat) : Int := roundInt .rne q

def clampInt (lo hi i : Int) : Int := max lo (min hi i)

/-- Binary32 sums and products (R307). -/
def fAdd (a b : Elem) : Elem := addF .rne (f32 a) (f32 b)
def fSub (a b : Elem) : Elem := addF .rne (f32 a) (f32 b).neg
def fMul (a b : Elem) : Elem := roundF32 .rne ((f32 a).mul (f32 b))

/-- The image of a calibration by the firmware (R306): its TREF is the temperature at which it was measured (R309),
the reserved bytes are zero, and the rest is open. -/
def firmwareImage (a n : Nat) (tref : BitVec 16) (off : Nat) : Byte :=
  if off = 0xA028 then tref.extractLsb' 0 8
  else if off = 0xA029 then tref.extractLsb' 8 8
  else if 0xA02A ≤ off then 0
  else Config.firmwareCal a n off

/-- The image of the calibration in force on aperture `a`, by offset: the context's, or a firmware's (R295, R309). -/
def calImage (a : Nat) (ap : Aperture) (off : Nat) : Byte :=
  match ap.cal with
  | some img => KMap.get 0 img off
  | none => match ap.lent with
    | some l => firmwareImage l.1 l.2.1 l.2.2 off
    | none => firmwareImage a ap.own ap.tref off

/-- Fields of a calibration image (R306). -/
def calWord (img : Nat → Byte) (off n : Nat) : Nat := ofLeBytes ((List.range n).map fun i => img (off + i))
def calSigned (img : Nat → Byte) (off : Nat) : Int := (BitVec.ofNat 16 (calWord img off 2)).toInt
def kernelAt (img : Nat → Byte) (j part : Nat) : Elem :=
  BitVec.ofNat 32 (widenF32 .f16 (calWord img (0xA000 + 4 * j + 2 * part) 2))

/-- The identity image (R306). -/
def isIdentity (img : KMap Byte) : Bool :=
  let at_ := KMap.get 0 img
  ((List.range 4096).all fun p => calWord at_ (2 * p) 2 == 0x4000 && calWord at_ (0x2000 + 2 * p) 2 == 0x4000)
    && ((List.range 9).all fun j => calWord at_ (0xA000 + 4 * j) 4 == if j == 4 then 0x3C00 else 0)
    && img.all fun e => decide (e.1 < 0x4000) || (decide (0xA000 ≤ e.1) && decide (e.1 < 0xA024))

/-- The input code of a part (R300): RNE at 2^(7 − e), clamped and not counted. -/
def inputCode (e : Int) (x : Rat) : Int := clampInt (-127) 127 (rneInt (x * pow2 (7 - e)))

/-- Step 1: the drive of a part at pixel `p`, four steps to an input code, by the pixel's gain (R307). -/
def drivePart (img : Nat → Byte) (p : Nat) (q : Int) : Int :=
  let g := calWord img (2 * p) 2
  if g = 0 then 0 else clampInt (-511) 511 (rneInt ((4 * q * 2 ^ 14 : Int) / (g : Rat)))

/-- Step 2: dark offsets leave with 4 fraction bits; `useQ` is false for an intensity frame. -/
def darkStep (img : Nat → Byte) (useQ : Bool) (p : Nat) (raw : Int × Int) : Elem × Elem :=
  (rneF32 (Val.ofRat ((raw.1 : Rat) - (calSigned img (0x6000 + 4 * p) : Rat) / 16)),
    if useQ then rneF32 (Val.ofRat ((raw.2 : Rat) - (calSigned img (0x6002 + 4 * p) : Rat) / 16)) else 0)

/-- Step 3: the convolution at window pixel (u, v), terms in ascending order of j. -/
def kernelStep (img : Nat → Byte) (useI : Bool) (w : Window) (xs : List (Elem × Elem)) (u v : Nat) : Elem × Elem :=
  (List.range 9).foldl (fun acc j =>
    let y : Int := (u + j / 3 : Nat) - 1
    let z : Int := (v + j % 3 : Nat) - 1
    let x : Elem × Elem :=
      if 0 ≤ y ∧ y < (2 ^ w.a : Nat) ∧ 0 ≤ z ∧ z < (2 ^ w.b : Nat) then
        nth (0, 0) xs (y.toNat * 2 ^ w.b + z.toNat) else (0, 0)
    let kr := kernelAt img j 0
    let ki := if useI then kernelAt img j 1 else 0
    (fAdd acc.1 (fSub (fMul kr x.1) (fMul ki x.2)), fAdd acc.2 (fAdd (fMul kr x.2) (fMul ki x.1)))) (0, 0)

/-- The angle of step 4 in units of 2^−26 of a turn, modulo a turn. -/
def phaseUnits (img : Nat → Byte) (tlatch : BitVec 16) (p : Nat) : Int :=
  let o : Int := (calWord img (0x4000 + 2 * p) 2 + calWord img 0xA024 2 : Nat)
  let d := calSigned img 0xA026 * ((tlatch.toNat : Int) - (calWord img 0xA028 2 : Int))
  (-(o * 1024 + d)) % (2 ^ 26 : Nat)

/-- The range of a cosine or sine of a whole number of units: 0 and 1 are exact. -/
def turnRange (v : Rat) : Range :=
  if absQ v < pow2 (-40) then (0, 0)
  else if 1 - pow2 (-60) < absQ v then (if v < 0 then (-1, -1) else (1, 1))
  else nearRange v

/-- Cosine and sine of step 4, each within one ulp: which value is open. -/
def phaseFactor (n : Int) : Elem × Elem :=
  let e := expTurn ((n : Rat) / ((2 ^ 26 : Nat) : Rat))
  (withinUlp 9 (BitVec.ofInt 32 n) (turnRange e.1), withinUlp 10 (BitVec.ofInt 32 n) (turnRange e.2))

/-- OGAIN of a pixel, exact in binary32. -/
def outGain (img : Nat → Byte) (p : Nat) : Elem := rneF32 (.ofRat ((calWord img (0x2000 + 2 * p) 2 : Rat) / ((2 ^ 14 : Nat) : Rat)))

/-- Step 4 on a recovered complex value. -/
def rotateStep (img : Nat → Byte) (tlatch : BitVec 16) (p : Nat) (x : Elem × Elem) : Elem × Elem :=
  let (c, s) := phaseFactor (phaseUnits img tlatch p)
  let g := outGain img p
  (fMul (fSub (fMul x.1 c) (fMul x.2 s)) g, fMul (fAdd (fMul x.1 s) (fMul x.2 c)) g)

/-- Step 5: RNE to a code; what is not finite leaves the code open at zero error. -/
def codeOf (x : Elem) : Int :=
  match f32 x with
  | .fin q => rneInt q
  | .inf neg => if neg then -4096 else 4096
  | _ => 0

/-- Pixel of a window point. -/
def pixelOf (w : Window) (p : Nat × Nat) : Nat := 64 * (w.y0 + p.1) + w.x0 + p.2

/-- A raw frame of the window under its drives: free 12-bit codes from counter `n` on (R307). -/
def rawFrame (drive : List Int) (n : Nat) (w : Window) : List (Int × Int) :=
  (List.range (2 ^ (w.a + w.b))).map fun k =>
    ((Config.opticalFrame drive (n + 2 * k)).toInt, (Config.opticalFrame drive (n + 2 * k + 1)).toInt)

/-- Steps 2 and 3 on one frame. -/
def frameSteps (img : Nat → Byte) (field : Bool) (w : Window) (raw : List (Int × Int)) : List (Elem × Elem) :=
  let d := ((windowPoints w).zip raw).map fun e => darkStep img field (pixelOf w e.1) e.2
  (windowPoints w).map fun p => kernelStep img field w d p.1 p.2

/-- The codes before the clamp under the calibration in force (R307): the raw codes are free, and in STEP4 so is the
reference amplitude, which the image does not hold. STEP4's differences, and their scaling by that amplitude, round in
binary32 each (DESIGN CHOICE, log entry 107). -/
def calibratedCodes (img : Nat → Byte) (tlatch : BitVec 16) (mode n : Nat) (w : Window) (drive : List Int) :
    List (Int × Int) :=
  let size := 2 * 2 ^ (w.a + w.b)
  let fr (k : Nat) : List (Elem × Elem) := frameSteps img (mode == 0) w (rawFrame drive (n + k * size) w)
  match mode with
  | 0 => ((windowPoints w).zip (fr 0)).map fun e =>
      let r := rotateStep img tlatch (pixelOf w e.1) e.2
      (codeOf r.1, codeOf r.2)
  | 1 =>
    let amp := rneF32 (Val.ofRat ((Config.referenceAmplitude n : Rat) / 65536))
    let re := List.zipWith (fun a b => fMul amp (fSub a.1 b.1)) (fr 0) (fr 2)
    let im := List.zipWith (fun a b => fMul amp (fSub a.1 b.1)) (fr 1) (fr 3)
    ((windowPoints w).zip (re.zip im)).map fun e =>
      let r := rotateStep img tlatch (pixelOf w e.1) e.2
      (codeOf r.1, codeOf r.2)
  | _ => ((windowPoints w).zip (fr 0)).map fun e => (codeOf (fMul e.2.1 (outGain img (pixelOf w e.1))), 0)

/-- The exact values of a window's parts in code steps, before any rounding (R300). -/
def exactSteps (mode : Nat) (f : Rat) (zs : List Cplx) : List (Rat × Rat) :=
  zs.map fun z =>
    if mode = 2 then ((z.1 * z.1 + z.2 * z.2) * 4096 / (f * f), 0) else (z.1 * 2048 / f, z.2 * 2048 / f)

/-- Largest magnitude of a code of a mode. -/
def codeMax (mode : Nat) : Int := if mode = 2 then 4095 else 2047
def codeMin (mode : Nat) : Int := if mode = 2 then 0 else -2047

/-- Squares of the rms bound and of the largest error of a part, in code steps (R311); none where there is no
per-part bound. An intensity code is 1/4,096 of F², a field code 1/2,048 of F. -/
def accuracy (mode : Nat) (identity : Bool) : Rat × Option Rat :=
  if identity then ((if mode = 2 then 256 * 256 else 64 * 64), none)
  else match mode with
    | 0 => (4 * 4, some (16 * 16))
    | 1 => (2, some 32)
    | _ => (16 * 16, some (64 * 64))

/-- Whether a code is one that the clamp of R300 leaves alone. -/
def codeFits (mode : Nat) (c : Int) : Bool := decide (codeMin mode ≤ c) && decide (c ≤ codeMax mode)

/-- Whether codes lie within the accuracy of R311 of the exact values. A part counts unless it is clamped, its exact
value too standing outside the codes; the rms is over the parts (an intensity has one, a field two). -/
def accurate (mode : Nat) (identity : Bool) (codes : List (Int × Int)) (exact : List (Rat × Rat)) : Bool :=
  let (ms, part) := accuracy mode identity
  let err (c : Int) (e : Rat) : List Rat := if codeFits mode c || codeFits mode (rneInt e) then [(c : Rat) - e] else []
  let errs := (codes.zip exact).flatMap fun e => err e.1.1 e.2.1 ++ if mode = 2 then [] else err e.1.2 e.2.2
  let sum := (errs.map fun e => e * e).foldl (· + ·) 0
  decide (sum ≤ ms * (((if mode = 2 then 1 else 2) * exact.length : Nat) : Rat))
    && (match part with
      | some b => errs.all fun e => decide (e * e ≤ b)
      | none => true)

/-- Whether codes keep to R300's promise that at OGS = 0 none is clamped. -/
def unclipped (mode ogs : Nat) (codes : List (Int × Int)) : Bool :=
  decide (ogs ≠ 0) || codes.all fun c => codeFits mode c.1 && codeFits mode c.2

/-- The codes of a window before the clamp, drawn from counter `n` on: those that the calibration in force makes of
the raw codes; where these would break the accuracy that the firmware's calibration or the identity image promises (R311),
or be clamped at OGS = 0 (R300), the nearest codes. The firmware's calibration keeps its accuracy outside the limits of
R309 as well (DESIGN CHOICE, log entry 106). -/
def windowCodes (a : Nat) (ap : Aperture) (mode ogs n : Nat) (w : Window) (drive : List Int) (exact : List (Rat × Rat)) :
    List (Int × Int) :=
  let near := exact.map fun e => (rneInt e.1, rneInt e.2)
  let c := calibratedCodes (calImage a ap) ap.tlatch mode n w drive
  let bounded : Bool := match ap.cal with
    | none => accurate mode false c exact
    | some img => !isIdentity img || accurate mode true c exact
  if bounded && unclipped mode ogs c then c else near

/-- Free values a window may take. -/
def windowDraws (w : Window) : Nat := 8 * 2 ^ (w.a + w.b)

/-- Output bytes of one complex element. -/
def cplxBytes (a : Int) (re im : Elem) : List (Nat × Byte) :=
  (leBytes 8 (re.toNat + 2 ^ 32 * im.toNat)).zipIdx.map fun b => (a.toNat + b.2, b.1)

/-- A code's value in binary32 (R300): one that rounds to zero is +0. -/
def codeValue (q : Rat) : Elem :=
  let e := rneF32 (Val.ofRat q)
  if e = 0x80000000 then 0 else e

/-- What a fired window of aperture `a` writes and counts (R300): every clamp that changes a code counts. -/
def windowOutput (a : Nat) (ap : Aperture) (x : Issue) (n : Nat) (w : Window) (vals : List (Val × Val)) :
    List (Nat × Byte) × Count :=
  let r := x.raw
  let mode := oxMode r
  let pts := windowPoints w
  let at_ (p : Nat × Nat) : Int := cplxAddr x.sD (posD x) (oxOstep r) p.1 p.2
  let flat := vals.flatMap fun v => [v.1, v.2]
  let fill (e : Elem) : List (Nat × Byte) := pts.flatMap fun p => cplxBytes (at_ p) e e
  if flat.any fun v => v.isNan || v == .inf true || v == .inf false then (fill nanBits, noCount)
  else
    let mx := flat.foldl (fun m v => max m (absQ v.toRat)) 0
    if mx = 0 then (fill 0, noCount)
    else
      let e := floorLog2 mx + 1
      let h : Int := if opOf r = 0 then (w.a + w.b + 1 : Nat) else ((w.a + w.b + 1) / 2 + 1 : Nat)
      let f := pow2 (e + h - (oxOgs r : Int))
      let xs : List Cplx := vals.map fun v => (v.1.toRat, v.2.toRat)
      let drive := (pts.zip xs).flatMap fun q =>
        let part (v : Rat) : Int := drivePart (calImage a ap) (pixelOf w q.1) (inputCode e v)
        [part q.2.1, part q.2.2]
      let codes := windowCodes a ap mode (oxOgs r) n w drive (exactSteps mode f (exactTransform ap w r xs))
      let cl := clampInt (codeMin mode) (codeMax mode)
      let unit := if mode = 2 then f * f / 4096 else f / 2048
      let val (c : Int) : Elem := codeValue ((c : Rat) * unit)
      let out := (pts.zip codes).flatMap fun q => cplxBytes (at_ q.1) (val (cl q.2.1)) (val (cl q.2.2))
      let clipped := (codes.filter fun c => cl c.1 != c.1).length + (codes.filter fun c => cl c.2 != c.2).length
      (out, ⟨nameD r, clipped, 0⟩)

/-! ## Issues -/

/-- One issue of an OX operation on the aperture it names: the causes it finds, or the state after it. -/
def oxStep (x : Issue) (f : Nat → State → List Flt × Perf) (s : State) : Out :=
  match apertureOf s (oxApt x.raw) with
  | none => issueStep x 0 (fun _ => .error [(0x50, 0)]) s
  | some a =>
    let (bf, _) := f a s
    let s := if collides (curCore s) x.col 0 || x.nul then s else notePath a (opOf x.raw) s
    issueStep x 0 (fun s => checked bf (f a s).2) s

/-- Issue of OXF or OXC (R300 to R303). -/
def shotIssue (x : Issue) (a : Nat) (s : State) : List Flt × Perf :=
  let c := curCore s
  let ap := getAperture s a
  let r := x.raw
  let w := windowAt ap (oxWin r)
  let busy := shotBusy (oxMode r)
  let bf := pathBusy s a (opOf x.raw)
  let pts := windowPoints w
  let src (p : Nat × Nat) : Int := cplxAddr x.sA (posA x) (oxIstep r) p.1 p.2
  let dst (p : Nat × Nat) : Int := cplxAddr x.sD (posD x) (oxOstep r) p.1 p.2
  let bounds := firstFault (pts.map fun p => runBound (src p) 8 ++ runBound (dst p) 8)
  let mask := if opOf r = 1 && decide (ap.clk < KMap.get 0 ap.settle (oxBank r)) then [(0x52, (0 : Word))] else []
  let reads := if bounds.isEmpty then
      readFaults c none false (pts.flatMap fun p => (List.range 8).map fun i => (src p).toNat + i) else []
  let vals := pts.map fun p =>
    (f32 (BitVec.ofNat 32 (ofLeBytes (spRead c (src p).toNat 4))), f32 (BitVec.ofNat 32 (ofLeBytes (spRead c ((src p).toNat + 4) 4))))
  let (out, k) := windowOutput a ap x s.free w vals
  let s := { s with free := s.free + windowDraws w }
  let s := takeShot a busy s
  let s := if opOf r = 1 then updAperture a (fun z => { z with used := KMap.set 0 z.used (oxBank r) (z.clk + busy) }) s else s
  (bf ++ bounds ++ mask ++ reads, .ok (launchFlight x (shotLatency (oxMode r)) (.optical out k) s))

/-- Flat run of an OMASK, OCAL or OREF (R297). -/
def flatBase (st : Line) (t : Int) : Int := (stBase st : Int) + t * (stTilePitch st : Int)

/-- Issue of OMASK (R304, R305). -/
def maskIssue (x : Issue) (a : Nat) (s : State) : List Flt × Perf :=
  let c := curCore s
  let ap := getAperture s a
  let bank := recMod x.raw 1 1
  let base := flatBase x.sA (posA x)
  let bf := pathBusy s a (opOf x.raw)
  let bounds := runBound base 8192
  let used := if ap.clk < KMap.get 0 ap.used bank then [(0x52, (0 : Word))] else []
  let reads := if bounds.isEmpty then readFaults c none false ((List.range 8192).map fun i => base.toNat + i) else []
  let px (k off : Nat) : Byte := KMap.get 0 c.sp (base.toNat + 2 * k + off)
  let s := takeMask a (updAperture a (fun z => { z with
    amp := KMap.setList 255 z.amp (bank * 4096) ((List.range 4096).map fun k => px k 0)
    phase := KMap.setList 0 z.phase (bank * 4096) ((List.range 4096).map fun k => px k 1)
    settle := KMap.set 0 z.settle bank (z.clk + 96) }) s)
  (bf ++ bounds ++ used ++ reads, .ok s)

/-- Whether a calibration image is malformed (R308). -/
def imageBad (img : List Byte) : Bool :=
  ((List.range 18).any fun k => ofLeBytes ((img.drop (0xA000 + 2 * k)).take 2) / 1024 % 32 == 31)
    || ((img.drop 0xA02A).take 22).any fun b => b != 0

/-- Issue of OCAL (R308): the shot path is busy until the new calibration serves. -/
def calIssue (x : Issue) (a : Nat) (s : State) : List Flt × Perf :=
  let c := curCore s
  let base := flatBase x.sA (posA x)
  let bf := pathBusy s a (opOf x.raw)
  let bounds := runBound base 41024
  let reads := if bounds.isEmpty then readFaults c none false ((List.range 41024).map fun i => base.toNat + i) else []
  let img := spRead c base.toNat 41024
  let bad := if bounds.isEmpty && imageBad img then [(0x53, (0 : Word))] else []
  let s := takeShot a 84 (updAperture a (fun z => { z with
    cal := some (KMap.setList 0 [] 0 img), epoch := z.epoch + 1 }) s)
  (bf ++ bounds ++ bad ++ reads, .ok s)

/-- Issue of OWIN (R298): the entry takes its value in the next cycle. -/
def winIssue (x : Issue) (a : Nat) (s : State) : List Flt × Perf :=
  ([], .ok (launchFlight x 1 (.win a (recMod x.raw 18 2) (x.raw.extractLsb' 424 18)) s))

/-- The bytes of an OREF frame (R310): the detector codes are free. -/
def frameBytes (ap : Aperture) (a n : Nat) : List Byte :=
  let code (i : Nat) : List Byte := leBytes 2 ((Config.opticalFrame [] i).signExtend 16).toNat
  leBytes 2 ap.temp.toNat ++ leBytes 2 ap.tlatch.toNat ++ leBytes 4 ap.epoch.toNat
    ++ [if ap.cal.isSome then 1 else 0, BitVec.ofNat 8 a] ++ List.replicate 54 0
    ++ (List.range 16384).flatMap fun k => code (n + k)

/-- Issue of OREF (R310). -/
def refIssue (x : Issue) (a : Nat) (s : State) : List Flt × Perf :=
  let ap := getAperture s a
  let base := flatBase x.sD (posD x)
  let bf := pathBusy s a (opOf x.raw)
  let bounds := runBound base 32832
  let bytes := (frameBytes ap a s.free).zipIdx.map fun b => (base.toNat + b.2, b.1)
  let s := takeShot a 6 { s with free := s.free + 16384 }
  (bf ++ bounds, .ok (launchFlight x 128 (.sp bytes noCount) s))

/-! ## Meanings -/

/-- OXF (R300). -/
def execOxf (x : Issue) (s : State) : Out := oxStep x (shotIssue x) s
/-- OXC (R300). -/
def execOxc (x : Issue) (s : State) : Out := oxStep x (shotIssue x) s
/-- OMASK (R304). -/
def execOmask (x : Issue) (s : State) : Out := oxStep x (maskIssue x) s
/-- OCAL (R308). -/
def execOcal (x : Issue) (s : State) : Out := oxStep x (calIssue x) s
/-- OWIN (R298). -/
def execOwin (x : Issue) (s : State) : Out := oxStep x (winIssue x) s
/-- OREF (R310). -/
def execOref (x : Issue) (s : State) : Out := oxStep x (refIssue x) s

/-- OPTICAL_OUTPUT_LANDING (R303). -/
def execOpticalOutputLanding (f : Flight) (s : State) : Out :=
  match f.kind with
  | .optical bytes k => .next (updCore (spLanding bytes k) (dropFlight f s))
  | _ => .next s

/-- ENGINE_ACCESS_PERFORM (R83, R139, R140, R170, R184, R187, R204, R206, R298, R310): a delayed engine access, or an
STS of a segment, performs. A space-0 VAMO comes before the other landings of its cycle: it reads after every write of an earlier one, and its write
lands among the others, by column (R151, R187). -/
def execEngineAccessPerform (f : Flight) (s : State) : Out :=
  let s' := dropFlight f s
  match f.kind with
  | .sp bytes k => .next (updCore (spLanding bytes k) s')
  | .sts off bytes => .next (updCore (spWrite off bytes) s')
  | .vecRow v row vals =>
    .next (updCore (fun c => { c with
      vBad := c.vBad.filter fun i => i / 64 != v * 16 + row
      ctx := { c.ctx with vregs := KMap.setList 0 c.ctx.vregs (v * 1024 + row * 64) vals } }) s')
  | .vamoSp x vals idx =>
    .next (updCore (fun c => { c with flights := c.flights ++
      [{ f with kind := .sp (vamoSpBytes c x vals idx) noCount }] }) s')
  | .pull x k => .next (pullRead f x k s')
  | .drop spans _ => .next (spans.foldl (fun s q => discardSpan q.1 (q.1 + q.2) s) s')
  | .win a n v => .next (updAperture a (fun z => { z with wins := KMap.set winReset z.wins n v }) s')
  | _ => .next s

end Sys2Proof.Machine
end

