-- ==== Sys2Proof/Machine/Stimulus.lean ====
section
/-! DEFINITION. What happens beside the rows of the opcode table: errors found in stored units (R360), temperatures of
apertures (R309), the host's stores into its own memory (R395), and the pairs and mailboxes of the firmware functions
(R387). `State.stimuli` lists them with the
tempo they come at. -/

namespace Sys2Proof.Machine

/-! ## Errors (R360) -/

/-- A cached line whose sector is marked poisoned. -/
def spoilLine (sector : Nat) (l : L2Line) : L2Line :=
  if l.phys = sector / 4 then { l with bad := l.bad ||| BitVec.ofNat 4 (2 ^ (sector % 4)) } else l

/-- A remote-data copy whose sector of a virtual address is marked poisoned. -/
def spoilCopy (asid va : Nat) (l : RdcLine) : RdcLine :=
  if l.asid = asid ∧ l.va = va / 256 then { l with bad := l.bad ||| BitVec.ofNat 4 (2 ^ (va / 64 % 4)) } else l

/-- An uncorrectable error is found in a unit: the unit is marked poisoned. -/
def poison (u : StoredUnit) (s : State) : State :=
  match u with
  | .dram q => { s with memBad := setBadMark true q s.memBad }
  | .l2 d q => updDie d (fun x => { x with l2 := x.l2.map (spoilLine q) }) s
  | .ls d q => updDie d (fun x => { x with lsBad := setBadMark true q x.lsBad }) s
  | .rdc d asid va => updDie d (fun x => { x with rdc := x.rdc.map (spoilCopy asid va) }) s
  | .sp k q => updCoreAt k (fun c => { c with spBad := setBadMark true q c.spBad }) s
  | .vec k i => updCoreAt k (fun c => { c with vBad := setBadMark true i c.vBad }) s
  | .acc k i => updCoreAt k (fun c => { c with accBad := setBadMark true i c.accBad }) s
  | .stream k n => updCoreAt k (fun c => { c with streamBad := setBadMark true n c.streamBad }) s
  | .tape k i => updCoreAt k (fun c => { c with tape := { c.tape with
      entries := c.tape.entries.zipIdx.map fun e => if e.2 = i then { e.1 with bad := true } else e.1 } }) s

/-! ## The firmware functions (R387) -/

def getFn (s : State) (n : Nat) : FwFunction := KMap.get FwFunction.none s.fw.fns n
def updFn (n : Nat) (f : FwFunction → FwFunction) (s : State) : State :=
  { s with fw := { s.fw with fns := KMap.set FwFunction.none s.fw.fns n (f (getFn s n)) } }

/-- Inbound slots of a function's mailbox. -/
def mailboxSlots : Nat := 64

/-- A message goes to a function: into a free slot, else it waits with its sender behind those that wait already. -/
def sendMessage (fn target : Nat) (m : BitVec 512) (s : State) : State :=
  updFn (target % 8) (fun f =>
    if f.inbox.length < mailboxSlots ∧ f.waiting.isEmpty then { f with inbox := f.inbox ++ [(fn, m)] }
    else { f with waiting := f.waiting ++ [(fn, m)] }) s

/-- A function takes its oldest message, and the first that waits takes the slot. -/
def receiveMessage (f : FwFunction) : FwFunction :=
  match f.inbox with
  | [] => f
  | _ :: r => { f with inbox := r ++ f.waiting.take 1, waiting := f.waiting.drop 1 }

/-- Whether a message of a function waits for room. -/
def senderWaits (s : State) (fn : Nat) : Bool := (List.range 8).any fun n => (getFn s n).waiting.any fun e => e.1 == fn

/-- An output of the first core of a pair stands until the second has put out the same; then a message goes. Another
one is a lockstep mismatch (R388). -/
def pairOutput (fn : Nat) (second : Bool) (o : Output) (s : State) : State :=
  if !second then updFn fn (fun f => { f with ahead := f.ahead ++ [o] }) s
  else if (getFn s fn).ahead.head? = some o then
    let s := updFn fn (fun f => { f with ahead := f.ahead.drop 1 }) s
    match o with
    | .store _ _ => s
    | .message t m => sendMessage fn t m s
  else { updFn fn (fun f => { f with ahead := [] }) s with inputs := s.inputs ++ [(tempoNow s, .lockstepMismatch fn)] }

/-! ## Their time -/

/-- A stimulus is an output of a firmware function. -/
def outputOf (fn : Nat) (x : Stimulus) : Bool :=
  match x with
  | .output n _ _ => n == fn
  | _ => false

/-- Whether a stimulus can come: a frozen complex puts nothing out and takes nothing (R388), and neither does a
function whose message waits, or of which an earlier output has not come. -/
def stimulusDue (s : State) (e : Nat × Stimulus) : Bool :=
  decide (e.1 ≤ tempoNow s) && match e.2 with
  | .output fn _ _ => complexRuns s && !senderWaits s fn
    && !((s.stimuli.takeWhile fun x => x != e).any fun x => decide (x.1 ≤ tempoNow s) && outputOf fn x.2)
  | .receive _ => complexRuns s
  | _ => true

/-- The effect of a stimulus. (DESIGN CHOICE, log entries 10
and 37.) -/
def applyStimulus (x : Stimulus) (s : State) : State :=
  match x with
  | .poison u => poison u s
  | .warm a t => updAperture a (fun x => { x with temp := t }) s
  | .hostStore a bs => { s with hostMem := KMap.setList 0 s.hostMem a bs }
  | .output fn second o => pairOutput fn second o s
  | .receive fn => updFn fn receiveMessage s

/-- The stimuli that have come have their effect, in order. -/
def applyStimuli (s : State) : State :=
  s.stimuli.foldl (fun s e =>
    if stimulusDue s e then applyStimulus e.2 { s with stimuli := s.stimuli.erase e } else s) s

end Sys2Proof.Machine
end

