-- ==== Sys2Proof/Machine/Complex.lean ====
section
/-! DEFINITION. The firmware complex while it does not dispatch (R387 to R391): what contexts do meanwhile, and how a
freeze or a live update goes on with the clock. -/

namespace Sys2Proof.Machine

/-- The core in focus stands at a pre-emption point (R367): loose code between two words, or a wait. -/
def atPoint (s : State) : Bool :=
  let c := curCore s
  c.resident && !c.ctx.inShadow && c.hold == .none && c.ctx.seg.phase == .loose && c.events.isEmpty && !c.play.on
    && (match c.ctx.wait with
      | .none => decide (c.ready ≤ c.ctime.toNat)
      | .waysDone _ => false
      | _ => true)

/-- Where a frozen complex lets the context of the core in focus stand (R388 step 2, R391 step 2): at a pre-emption
point, between two segments of a played tape, or in a translation fault whose request waits for its DONE. -/
def standsFrozen (s : State) : Bool :=
  let c := curCore s
  !c.resident || atPoint s
    || (c.play.on && c.ctx.seg.phase == .loose && c.hold == .none && c.events.isEmpty && !c.ctx.inShadow)
    || (c.ctx.inShadow && isTransFault (bitsAt c.ctx.trapCause 0 8) && s.mailbox.contains s.cur)

/-- Whether every context stands. -/
def allStand (s : State) : Bool := (List.range nCores).all fun k => standsFrozen (focus k s)

/-- Longest freeze: 20 ms (R388). -/
def freezeCycles : Nat := 30000000

/-- The image in the active slot (R389). -/
def activeImage (f : Firmware) : Image := if f.slotB then f.imageB else f.imageA

/-- An image that the security function accepts (R389): the public key is the one whose digest is fused, the signature
of 4,627 bytes over the header's other fields verifies under it, the body's digest matches the header, and SVN is no lower
than the fused minimum. -/
def imageOk (f : Firmware) (i : Image) : Bool :=
  digestOf f.key == f.keyDigest && mldsaVerify f.key (headerBytes i) i.signature && i.bodyDigest == digestOf i.body
    && i.bodyLength == i.body.length && decide (f.minSvn ≤ i.svn)

/-- Step 4 of R391: what the running image hands over, under its version. -/
def handoverOf (f : Firmware) : Handover :=
  ⟨(activeImage f).version, f.fns, f.cap, f.limits, f.nextTask, f.nextTest, f.turn⟩

/-- An image takes a handover structure: the firmware runs with what it holds (R391 steps 5 and 7). -/
def takeHandover (f : Firmware) : Firmware :=
  match f.handover with
  | none => f
  | some h => { f with
      fns := h.fns, cap := h.cap, limits := h.limits, nextTask := h.nextTask, nextTest := h.nextTest, turn := h.turn
      handover := none }

/-- A freeze ends once every context stands and its time is over, and after 20 ms at the latest (DESIGN CHOICE, log entry
110). After a mismatch the reloaded functions take up dispatch, and the error handler reports it (R388 steps 3 and 4). In
a live update the image is checked, the running image writes its handover structure, and the new one starts; where the
image or the version is refused, the old one resumes with nothing changed (R391 steps 3 to 5 and 7). -/
def endFreeze (s : State) : State :=
  match s.fw.complex with
  | .frozen t limit fn =>
    if (t ≤ tempoNow s ∧ allStand s) ∨ limit ≤ tempoNow s then
      report 4 0 fn 0 0 0 0 0 { s with fw := { s.fw with complex := .running, lastRestart := some (tempoNow s) } }
    else s
  | .checking image limit =>
    if !allStand s ∧ tempoNow s < limit then s
    else
      let h := handoverOf s.fw
      let back : State := { s with fw := { s.fw with complex := .running } }
      if !imageOk s.fw image then report 5 0 1 0 0 0 0 0 back
      else if h.version < image.oldest ∨ image.version < h.version then report 5 0 2 0 0 0 0 0 back
      else { s with fw := { s.fw with complex := .updating image (tempoNow s + 75000000), handover := some h } }
  | _ => s

/-- A wait that a frozen complex does not age (R388). -/
def ageFrozen (s : State) : State :=
  if complexRuns s then s
  else { s with tasks := s.tasks.map fun e =>
      if e.2.life = .ready then (e.1, { e.2 with since := e.2.since + 1 }) else e }

end Sys2Proof.Machine
end

