-- ==== Sys2Proof/Machine/Barrier.lean ====
section
/-! DEFINITION. Named barriers (chapter 13, R279 to R291) and WAYS (R217, R221 to R223). -/

namespace Sys2Proof.Machine

/-! ## State words (R281, R282) -/

def barPhase (w : Word) : Nat := bitsAt w 48 16
def barAhead (w : Word) : Nat := bitsAt w 32 8
def barArr (w : Word) : Nat := bitsAt w 24 8
def barExp (w : Word) : Nat := bitsAt w 16 8
def barScope (w : Word) : Nat := bitsAt w 8 2
def barMine (w : Word) : Bool := bitAt w 0

/-- A copy completes its phase where every participant has arrived (R282). -/
def barComplete (w : Word) : Word :=
  if barScope w ≠ 0 ∧ barArr w = barExp w then
    let w := putBits w 48 16 (barPhase w + 1)
    let w := putBits w 24 8 (barAhead w)
    putBits (putBits w 32 8 0) 0 1 0
  else w

/-- An arrival counts by its tag (R282). -/
def barCount (phase : BitVec 16) (w : Word) : Word :=
  if phase.toNat = barPhase w then barComplete (putBits w 24 8 (barArr w + 1))
  else if phase.toNat = (barPhase w + 1) % 2 ^ 16 then putBits w 32 8 (barAhead w + 1)
  else w

def barWord (c : Ctx) (n : Nat) : Word := KMap.get 0 c.bars n
def putBar (n : Nat) (w : Word) (c : Ctx) : Ctx := { c with bars := KMap.set 0 c.bars n w }

/-- Participants of a scope: number (R280). -/
def participants (s : State) (scope : Nat) : Nat :=
  let t := getTask s (curCtx s).task
  if scope = 1 then t.group else t.contexts

/-- The other participants' spatial indices. -/
def others (s : State) (scope : Nat) : List Nat :=
  let c := curCtx s
  let t := getTask s c.task
  let g := t.group
  ((if scope = 1 then (List.range g).map fun i => c.spidx / g * g + i else List.range t.contexts)).filter
    fun i => i != c.spidx

/-- The writes issued before that have not performed, and those the context has observed: an arrival is a release at
the barrier's scope over every class (R284, R263). -/
def writesPending (scope : Nat) (s : State) : List Nat :=
  ((curCore s).pend.filter fun a => accWrites a.kind).map Access.id
    ++ (owedStores (curCore s) (curCtx s).inShadow scope).filter (accessPending s)

/-- A message whose writes have all performed leaves its core in this cycle (R284). -/
def departArrival (s : State) (m : Arrival) : Arrival :=
  if m.waits.isEmpty || m.waits.any (accessPending s) then m
  else { m with waits := [], due := tempoNow s + m.lat }

/-- The end of a cycle for the messages on their way. -/
def departArrivals (s : State) : State := { s with arrivals := s.arrivals.map (departArrival s) }

/-- The arrival takes effect (R284): its own copy counts it, and every other participant is told. -/
def arriveNow (n : Nat) (s : State) : State :=
  let w := barWord (curCtx s) n
  let scope := barScope w
  let phase := w.extractLsb' 48 16
  let lat := if scope = 1 then 20 else 60
  let task := (curCtx s).task
  let waits := writesPending scope s
  let s := { s with arrivals := s.arrivals ++
    (others s scope).map fun i => ⟨tempoNow s + lat, task, i, n, phase, s.cur, waits, lat⟩ }
  updCore (fun c => { c with
    barOwed := KMap.set [] c.barOwed n waits
    ctx := putBar n (barComplete (putBits (putBits w 24 8 (barArr w + 1)) 0 1 1)) c.ctx }) s

/-- Barrier misuse, with its subcause (R291). -/
def misuse (sub : Nat) (s : State) : Out := raise 0x0F (BitVec.ofNat 64 sub) s

/-- The checks every BAR word shares: it is a word of the main context (R355), and its barrier is declared. -/
def barChecked (n : BitVec 10) (s : State) (k : Out) : Out :=
  mainOnly s (if (curCtx s).barriers ≤ n.toNat then misuse 1 s else k)

/-! ## Meanings -/

/-- BAR.INIT (R283). -/
def execBarInit (a : BitVec 5) (n : BitVec 10) (s : State) : Out :=
  mainOnly s (looseOnly s (barChecked n s (
    let sc := bitsAt (readG s a) 0 2
    let w := barWord (curCtx s) n.toNat
    if sc = 0 ∨ sc = 3 then misuse 3 s
    else if barScope w ≠ 0 ∧ barScope w ≠ sc ∧ (barArr w ≠ 0 ∨ barAhead w ≠ 0 ∨ barMine w) then misuse 3 s
    else
      let w := putBits (putBits w 8 2 sc) 16 8 (participants s sc)
      .next (retire 4 2 (updCtx (putBar n.toNat (barComplete w)) (spoil 0x20 s))))))

/-- BAR.ARRIVE (R284): in loose code now, in a solo segment when SEGE completes. -/
def execBarArrive (n : BitVec 10) (s : State) : Out :=
  barChecked n s (
    let w := barWord (curCtx s) n.toNat
    if barScope w = 0 then misuse 2 s
    else if barMine w then misuse 4 s
    else if inSegment s then
      if segGang s then misuse 5 s
      else if (curCtx s).seg.arrivals.contains n.toNat then misuse 4 s
      else .next (retire 4 1 (updSeg (fun g => { g with arrivals := g.arrivals ++ [n.toNat] }) (spoil 0x20 s)))
    else .next (retire 4 1 (arriveNow n.toNat (spoil 0x20 s))))

/-- Whether a BAR.WAIT of the core in focus still waits: for its copy (R285), and for the writes that its own arrival
is a release of (R287; DEDUCED, log entry 101). -/
def barWaits (n : Nat) (s : State) : Bool :=
  barMine (barWord (curCtx s) n) || (KMap.get [] (curCore s).barOwed n).any (accessPending s)

/-- The wait is over: an acquire at the barrier's scope, and d takes the state word of the cycle in which it is over; the
8 or 72 cycles of R288 run from that cycle, or from the word's own issue where that comes later (R285; DESIGN CHOICE,
log entry 105). -/
def barDone (d n : Nat) (s : State) : State :=
  let w := barWord (curCtx s) n
  let cyc := if barScope w = 1 then 8 else 72
  let s := acquire (barScope w) 0xFFFF s
  setReady cyc (retire 4 1 (setBusy d cyc (writeG (BitVec.ofNat 5 d) w (updCtx (fun c => { c with wait := .none }) s))))

/-- BAR.WAIT (R285). -/
def execBarWait (d : BitVec 5) (n : BitVec 10) (s : State) : Out :=
  mainOnly s (looseOnly s (barChecked n s (
    let w := barWord (curCtx s) n.toNat
    if barScope w = 0 then misuse 2 s
    else
      let s := spoil 0x20 s
      if barWaits n.toNat s then .next (setReady 1 (updCtx (fun c => { c with wait := .bar d.toNat n.toNat }) s))
      else .next (barDone d.toNat n.toNat s))))

/-- BAR_WAIT_COMPLETION (R285): the context's copy has completed the phase. -/
def execBarWaitCompletion (s : State) : Out :=
  match (curCtx s).wait with
  | .bar d n => .next (if barWaits n s then s else barDone d n s)
  | _ => .next s

/-- BAR.TEST (R286), in two cycles (R288). -/
def execBarTest (d : BitVec 5) (n : BitVec 10) (s : State) : Out :=
  mainOnly s (looseOnly s (barChecked n s (
    let w := barWord (curCtx s) n.toNat
    .next (retire 4 2 (setBusy d.toNat 2 (writeG d w (spoil 0x20 s)))))))

/-- BARRIER_ARRIVAL (R282, R289, R290): the message reaches its target's copy, wherever that stands. -/
def execBarrierArrival (m : Arrival) (s : State) : Out :=
  let s := { s with arrivals := s.arrivals.erase m }
  let t := getTask s m.task
  .next (match KMap.get .unplaced t.places m.spidx with
    | .resident k => updCoreAt k (fun c => { c with ctx := putBar m.bar (barCount m.phase (barWord c.ctx m.bar)) c.ctx }) s
    | .saved => updTask m.task (fun t => { t with
        saved := t.saved.map fun e => if e.1 = m.spidx then
          (e.1, { e.2 with ctx := putBar m.bar (barCount m.phase (barWord e.2.ctx m.bar)) e.2.ctx }) else e }) s
    | .unplaced => updTask m.task (fun t =>
        let key := m.spidx * 1024 + m.bar
        { t with bars := KMap.set 0 t.bars key (barCount m.phase (KMap.get 0 t.bars key)) }) s
    | .ended => s)

/-! ## WAYS (R221, R222) -/

/-- The cores on which the scratch group of the core in focus is resident. -/
def groupCores (s : State) : List Nat :=
  let t := (curCtx s).task
  ((List.range 16).map fun i => curDie s * 16 + i).filter fun k => (getCore s k).resident && (getCore s k).ctx.task == t

/-- WAYS (R221): the arrive step. -/
def execWays (a : BitVec 5) (s : State) : Out :=
  mainOnly s (looseOnly s (
    let w := readG s a
    if 16 < w.toNat then raise 0x0E 1 s
    else .next (setReady 1 (updCtx (fun c => { c with wait := .ways w.toNat (tempoNow s) }) (spoil 0x20 s)))))

/-- The value a waiting member gave; it has arrived once its WAYS, a full fence at core scope, is met (R416; DEDUCED, log
entry 67), and a member resumed in this cycle counts from the next (R221). -/
def waysAsked (s : State) (k : Nat) : Option Nat :=
  match (getCore s k).ctx.wait with
  | .ways w t => if coreFenced (focus k s) ∧ t ≤ tempoNow s then some w else none
  | _ => none

/-- Whether a core's context waits in WAYS before the change. -/
def waysWaits (s : State) (k : Nat) : Bool :=
  match (getCore s k).ctx.wait with
  | .ways _ _ => true
  | _ => false

/-- Whether every member of the group is resident and has arrived (R221). -/
def waysReady (s : State) : Bool :=
  let ks := groupCores s
  ks.length == groupSize (curCtx s) && ks.all fun k => (waysAsked s k).isSome

/-- L2 lines above a core that a shrinking of the cache empties. -/
def waysLines (s : State) (k w : Nat) : List L2Line :=
  (getDie s (dieOf k)).l2.filter fun l => l.slice / 32 == k % 16 && decide (w ≤ l.way)

def dirtyCount (ls : List L2Line) : Nat := (ls.map fun l => popNat 4 l.dirty.toNat).sum

/-- Cost of a change (R222). -/
def waysCost (s : State) (ks : List Nat) (w wo : Nat) : Nat :=
  if wo ≤ w then 128
  else
    let all := ks.flatMap fun k => waysLines s k w
    let slices := (all.map L2Line.slice).eraseDups
    let dmax := (slices.map fun x => dirtyCount (all.filter fun l => l.slice == x)).foldl max 0
    let q := (ks.map fun k => (getCore s k).ctx.q).sum
    128 + max (2 * dmax) (ceilDiv (dirtyCount all) (shareOr1 q))

/-- Change the ways of the slices above one core: lines that lose their way go to DRAM, and the LS bytes
of every way that changes hands are gone, with their poison marks. -/
def changeWays (w wo k : Nat) (s : State) : State :=
  let s := emptyWays k w s
  let lo := min w wo
  let hi := max w wo
  let base (j : Nat) : Nat := (firstSlice k + j) * 65536
  let s := updDie (dieOf k) (fun d => { d with
    ls := (List.range 32).foldl (fun m j => KMap.clearRange m (base j + lo * 4096) (base j + hi * 4096)) d.ls
    lsBad := d.lsBad.filter fun x => !(x / 1024 / 32 == k % 16 && decide (lo ≤ x / 64 % 16) && decide (x / 64 % 16 < hi)) }) s
  updCoreAt k (fun c => { c with ctx := { c.ctx with w := BitVec.ofNat 5 w } }) s

/-- Whether a member of the group in focus has retired END, so that a member in WAYS has no partner (R221). (DEDUCED, log entry 62.) -/
def waysOrphaned (s : State) : Bool :=
  let c := curCtx s
  let t := getTask s c.task
  (List.range (groupSize c)).any fun m => KMap.get .unplaced t.places (c.spidx / t.group * t.group + m) == .ended

/-- The members of some cores that still wait in WAYS raise 0x0E with a subcause; one abort of their task stops
them all (R365). -/
def waysMisuse (sub : Word) (ks : List Nat) (s : State) : State :=
  ks.foldl (fun s k => if waysWaits s k then onCore k (fun s =>
    preciseTrap 0x0E sub (pcOf s) (updCtx (fun c => { c with wait := .none }) s)) s else s) s

/-- WAYS_CHANGE (R221): in the cycle in which the last member of the group in focus has arrived. Members that
wait with no partner raise 0x0E, subcause 3. -/
def execWaysChange (s : State) : Out :=
  let ks := groupCores s
  if waysOrphaned s then .next (waysMisuse 3 ks s)
  else if !waysReady s then .next s
  else
    let ws := ks.filterMap (waysAsked s)
    let w := ws.headD 0
    if ws.any fun v => v != w then .next (waysMisuse 2 ks s)
    else
      let wo := (curCtx s).w.toNat
      let cost := waysCost s ks w wo
      let s := ks.foldl (fun s k => changeWays w wo k s) s
      .next (ks.foldl (fun s k => updCoreAt k (fun c =>
        { c with ctx := { c.ctx with wait := .waysDone (tempoNow s + cost) } }) s) s)

/-- WAYS_RETIRE (R221, R222): the members retire together, each with the acquire of its fence (R416). -/
def execWaysRetire (s : State) : Out :=
  match (curCtx s).wait with
  | .waysDone t =>
    .next (if t ≤ tempoNow s then retire 4 1 (updCtx (fun c => { c with wait := .none }) (acquireBy false 0 0xFFFF s)) else s)
  | _ => .next s

end Sys2Proof.Machine
end

