-- ==== Sys2Proof/Machine/NearBank.lean ====
section
/-! DEFINITION. The near-bank column (chapter 15, R316 to R326): the scoring layout, NB.SCORE with its
list, NB.SEL, NB.PUT and NB.STAT. -/

namespace Sys2Proof.Machine

/-! ## Modifier fields (R319) -/

def nbCls (r : Line) : BitVec 4 := r.extractLsb' 476 4
def nbCap (r : Line) : Nat := recMod r 32 16 + 1
def nbBlocks (r : Line) : Nat := recMod r 16 16 + 1
def nbMean (r : Line) : Bool := modBit r 6
def nbK (r : Line) : Nat := recMod r 0 6 + 1

/-! ## Forward conditions (R317, R318, R319, R402) -/

/-- The scoring layout (R317). -/
def layoutOk (st : Line) : Bool :=
  let f := stFmt st
  stSpace st == 2 && (f == .bf16 || f == .i8 || (f.isNarrow && f.width == 8)) && stRows st == 16
    && stTilePitch st == 16384 && stBase st % 16384 == 0 && decide (stRowBytes st ≤ stRowPitch st)
    && decide (16 * stRowPitch st ≤ 8192) && stBlkAx st == 0 && !stL2sc st && stRot st == 0

def nbSpOk (st : Line) : Bool := stSpace st == 0 && stBase st % 8 == 0

/-- What a record of column NB must meet at forward. -/
def nearBankRecordOk (feat0 : Word) (r sD sA sB : Line) : Bool :=
  let d := isStream (nameD r)
  let a := isStream (nameA r)
  bitAt feat0 3 && match opOf r with
    | 0 =>
      d && a && isStream (nameB r) && nbSpOk sD && nbSpOk sA && stRows sA == 1 && stFmtCode sA == stFmtCode sB
        && stCols sA == stCols sB && layoutOk sB && decide (nbBlocks r ≤ nbCap r)
    | 1 =>
      d && a && isStream (nameB r) && nbSpOk sD && nbSpOk sA && stRows sD == 16 && stRowBytes sD == stRowBytes sB
        && layoutOk sB
    | 2 => d && a && layoutOk sD && nbSpOk sA && stRows sA == 16 && stRowBytes sA == stRowBytes sD
    | 3 => isVec (nameD r)
    | _ => false

/-! ## Blocks -/

/-- Address of row `r` of a block; `value` is 8,192 bytes higher for the values. -/
def blockRow (st : Line) (j : Int) (r : Nat) (value : Bool) : Nat :=
  ((rowStart st j r + if value then 8192 else 0) % (2 ^ 64 : Nat)).toNat

/-- The rows of a block, keys or values, as virtual ranges. -/
def blockRanges (st : Line) (j : Int) (value : Bool) : List (Nat × Nat) :=
  (List.range 16).map fun r => (blockRow st j r value, stRowBytes st)

/-- Whether the pages of ranges are die-pinned to this die and of 2 MiB or 1 GiB (R317). -/
def pinned (s : State) (ranges : List (Nat × Nat)) : Bool :=
  ranges.all fun r => (pageStarts r).all fun v =>
    match lookupLeaf s (curCtx s).asid v with
    | .leaf l => !bitAt l.pte 11 && !bitAt l.pte 7 && decide (2 ^ 21 ≤ l.size) && homeDie (leafPhys l v).pa == curDie s
    | .fail _ _ => true

/-- Faults that a command's region raises at its start: translation, then the layout (R317). -/
def regionFaults (s : State) (wr : Bool) (ranges : List (Nat × Nat)) : List Flt :=
  let f := engineFault s 7 wr ranges
  if f.isEmpty && !pinned s ranges then [(0x54, 0)] else f

/-! ## NB.SCORE (R320 to R322) -/

/-- Codes of the first n elements of a row image. -/
def rowCodes (f : Fmt) (n : Nat) (bs : List Byte) : List Nat := unpackCodes f.width n (ofLeBytes bs)

/-- s(j, r): the exact sum of products, one rounding. -/
def tokenScore (f : Fmt) (q k : List Nat) : Elem :=
  rneF32 (sumVals (List.zipWith (fun a b => (f.decode a).mul (f.decode b)) q k))

/-- The greatest of scores that are not NaN; −0 equals +0 (R320). -/
def maxScore (l : List Elem) : Elem :=
  match l with
  | [] => nanBits
  | e :: r =>
    let m := r.foldl (fun a b => if f32Key a < f32Key b then b else a) e
    if (f32 m).isZero && l.any (fun x => x == 0x80000000#32) && l.any (fun x => x == 0#32) then
      (if Config.zeroScoreNeg then 0x80000000 else 0)
    else m

/-- score(j). -/
def blockScore (mean : Bool) (l : List Elem) : Elem :=
  if l.any fun e => (f32 e).isNan then nanBits
  else if mean then rneF32 ((sumVals (l.map f32)).mul (.fin (1 / 16)))
  else maxScore l

/-- Order of ranks: higher score first, equal scores by index; zeros are equal. -/
def rankKey (e : Elem) : Int := if (f32 e).isZero then 0 else f32Key e

def rankInsert (e : Nat × Elem) : List (Nat × Elem) → List (Nat × Elem)
  | [] => [e]
  | x :: r => if rankKey x.2 < rankKey e.2 then e :: x :: r else x :: rankInsert e r

/-- The result list and the number of NaN blocks. -/
def scoreList (f : Fmt) (mean : Bool) (k : Nat) (query : List Nat) (blocks : List (List (List Nat))) :
    List Byte × Nat :=
  let scores := blocks.map fun rows => blockScore mean (rows.map (tokenScore f query))
  let good := (scores.zipIdx.filter fun e => !(f32 e.1).isNan).map fun e => (e.2, e.1)
  let ranked := good.foldl (fun l e => rankInsert e l) []
  let entry (i : Nat) : List Byte :=
    match ranked[i]? with
    | some e => leBytes 4 e.1 ++ leBytes 4 e.2.toNat
    | none => leBytes 4 0xFFFFFFFF ++ leBytes 4 nanBits.toNat
  ((List.range k).flatMap entry, scores.length - good.length)

/-- Cycles from start to landing (R321). -/
def scoreLatency (r : Line) (rowBytes : Nat) (doubled : Bool) : Nat :=
  150 + ceilDiv (nbCap r) 128 * (4 + ceilDiv (16 * rowBytes) 64) + 2 * nbK r + if doubled then 24 else 12

/-- Where a virtual address of this region lies in DRAM. -/
def dramAddr (s : State) (va : Nat) : Nat :=
  match translate s (curDie s) (curCtx s).asid va false with
  | .ok p _ => p.pa
  | .fault _ _ => 0

/-- The key rows of the blocks that NB.SCORE scores, counted from B's nest position (DESIGN CHOICE, log entry 109). -/
def scoreRanges (x : Issue) : List (Nat × Nat) :=
  (List.range (nbBlocks x.raw)).flatMap fun (j : Nat) => blockRanges x.sB (posB x + (j : Int)) false

/-- The causes that NB.SCORE raises at its start. One that finds the port taken performs nothing, and consumes no
poison (R321, R360). The port is free in the landing cycle of the one before (DESIGN CHOICE, log entry 108). -/
def scoreFaults (s : State) (x : Issue) : List Flt :=
  let c := curCore s
  let rb := stRowBytes x.sB
  let ranges := scoreRanges x
  let bounds := firstFault [spanBound x.sA (posA x) 0 rb, runBound (flatBase x.sD (posD x)) (8 * nbK x.raw)]
  let reads := if bounds.isEmpty then readFaults c none false (rowBytesAt x.sA (posA x) 0 rb) else []
  let region := regionFaults s false ranges
  let bad := if region.isEmpty && ranges.any (fun r => (piecesOf r.1 r.2).any fun p => s.memBad.contains (dramAddr s p.1 / 64))
    then [(0x42, (0 : Word))] else []
  if c.ctime.toNat < c.scoreUntil then [(0x55, (0 : Word))] ++ bounds ++ region else bounds ++ reads ++ region ++ bad

/-- Issue of NB.SCORE: the keys are read from DRAM, not through L2; a DRAM update before the landing is seen or missed
sector by sector (R322). -/
def scorePerform (x : Issue) (s : State) : Perf :=
  let c := curCore s
  let st := x.sB
  let rb := stRowBytes st
  let ta := posA x
  let ranges := scoreRanges x
  checked (scoreFaults s x) (afterWalks x ranges (fun s =>
    let query := rowCodes (stFmt st) (stCols st) ((rowBytesAt x.sA ta 0 rb).map fun a => KMap.get 0 c.sp a)
    let rows := ranges.map fun r => let pa := dramAddr s r.1; (pa, KMap.getList 0 s.dram pa rb)
    let lat := scoreLatency x.raw rb (bitAt c.ctx.latched (curDie s))
    .ok (updCore (fun c => { c with scoreUntil := c.ctime.toNat + lat }) (launchFlight x lat (.nbList x query rows) s))) s)

/-- NB_SCORE_LANDING (R320, R321, R325): the list is written and the counters grow. -/
def execNbScoreLanding (f : Flight) (s : State) : Out :=
  match f.kind with
  | .nbList x query rows =>
    let s := dropFlight f s
    let st := x.sB
    let seen := rows.map fun r => rowCodes (stFmt st) (stCols st) r.2
    let blocks := chunks 16 (nbBlocks x.raw) seen
    let (list, nan) := scoreList (stFmt st) (nbMean x.raw) (nbK x.raw) query blocks
    let base := (flatBase x.sD (posD x)).toNat
    let sat (v : BitVec 32) (k : Nat) : BitVec 32 := BitVec.ofNat 32 (min (v.toNat + k) (2 ^ 32 - 1))
    .next (updCore (fun c =>
      let c := spLanding (list.zipIdx.map fun b => (base + b.2, b.1)) noCount c
      { c with ctx := { c.ctx with
          blks := sat c.ctx.blks (nbBlocks x.raw), nanb := sat c.ctx.nanb nan, scores := sat c.ctx.scores 1 } }) s)
  | _ => .next s

/-! ## NB.SEL, NB.PUT and NB.STAT (R323 to R325) -/

/-- Bytes of a block row, through the home slices. -/
def blockBytes (s : State) (st : Line) (j : Int) (value : Bool) (r : Nat) : List (Byte × Bool) :=
  (piecesOf (blockRow st j r value) (stRowBytes st)).flatMap fun p =>
    let (bs, bad) := readVa s (curDie s) (curCtx s).asid p.1 p.2
    bs.map fun b => (b, bad)

/-- Index i of a result list. -/
def listIndex (c : Core) (base i : Nat) : Elem := BitVec.ofNat 32 (ofLeBytes (spRead c (base + 8 * i) 4))

/-- The block numbers of NB.SEL's list. -/
def selIndex (c : Core) (x : Issue) : List Elem :=
  (List.range (nbK x.raw)).map fun i => listIndex c (flatBase x.sA (posA x)).toNat i

/-- The rows of the blocks NB.SEL reads, counted from B's nest position (DESIGN CHOICE, log entry 109). -/
def selRanges (c : Core) (x : Issue) : List (Nat × Nat) :=
  ((selIndex c x).filter active).flatMap fun i =>
    blockRanges x.sB (posB x + (i.toNat : Int)) false ++ blockRanges x.sB (posB x + (i.toNat : Int)) true

/-- What reading NB.SEL's list meets: poison of it poisons what is written (R360). -/
def selReads (c : Core) (x : Issue) : List Flt :=
  readFaults c none false ((List.range (8 * nbK x.raw)).map fun i => (flatBase x.sA (posA x)).toNat + i)

/-- The causes that NB.SEL raises at its start. -/
def selFaults (s : State) (x : Issue) : List Flt :=
  let c := curCore s
  let k := nbK x.raw
  let bounds := firstFault (runBound (flatBase x.sA (posA x)) (8 * k) ::
    (List.range (2 * k)).flatMap fun (t : Nat) =>
      (List.range 16).map fun r => spanBound x.sD (posD x + (t : Int)) r (stRowBytes x.sB))
  let reads := if bounds.isEmpty then selReads c x else []
  let region := if bounds.isEmpty then regionFaults s false (selRanges c x) else []
  oneCopyFault (bounds ++ (reads.filter fun f => f.1 != 0x42) ++ region ++ pathFaults c .dram)

/-- Issue of NB.SEL, which performs as a copy: its landing has column number 5 (R199). (DEDUCED, log entry 44.) -/
def selPerform (x : Issue) (s : State) : Perf :=
  let c := curCore s
  let k := nbK x.raw
  let rb := stRowBytes x.sB
  let idx := selIndex c x
  let block (i : Elem) : Int := posB x + (i.toNat : Int)
  let ranges := selRanges c x
  checked (selFaults s x) (afterWalks x ranges (fun s =>
    let bad := (selReads c x).any fun f => f.1 == 0x42
    let runs := idx.zipIdx.flatMap fun e => [false, true].flatMap fun v => (List.range 16).flatMap fun r =>
      let bs := if active e.1 then blockBytes s x.sB (block e.1) v r else List.replicate rb (0, false)
      destRuns s.cur x.sD (posD x + ((2 * e.2 + if v then 1 else 0 : Nat) : Int)) r (bs.map fun b => (b.1, b.2 || bad))
    let cp : Copy := { copyOf x .dram runs false with tag := 0, cls := nbCls x.raw }
    let bytes := 32 * rb * k
    .ok (launchFlight { x with col := 5 } (landLatency c.ctx .dram bytes (refreshTerm c.ctx (curDie s) [])) (.copy cp)
      (updCore (takePort .dram bytes) s))) s)

/-- Tile of A that NB.PUT takes the keys from, and the next one, the values. -/
def putTile (x : Issue) (v : Bool) : Int := 2 * posA x + if v then 1 else 0

/-- The rows of the block NB.PUT writes. -/
def putRanges (x : Issue) : List (Nat × Nat) := blockRanges x.sD (posD x) false ++ blockRanges x.sD (posD x) true

/-- The causes that NB.PUT raises at its start. -/
def putFaults (s : State) (x : Issue) : List Flt :=
  let c := curCore s
  let rb := stRowBytes x.sD
  let bounds := firstFault ([false, true].flatMap fun v => (List.range 16).map fun r => spanBound x.sA (putTile x v) r rb)
  let bytes := [false, true].flatMap fun v => (List.range 16).flatMap fun r => rowBytesAt x.sA (putTile x v) r rb
  let reads := if bounds.isEmpty then (readFaults c none false bytes).filter fun f => f.1 != 0x42 else []
  oneCopyFault (bounds ++ reads ++ regionFaults s true (putRanges x) ++ pathFaults c .dram)

/-- Issue of NB.PUT, whose landing among copies is one of theirs (R199, R324). -/
def putPerform (x : Issue) (s : State) : Perf :=
  let c := curCore s
  let rb := stRowBytes x.sD
  let j := posD x
  let tile (v : Bool) : Int := putTile x v
  let ranges := putRanges x
  checked (putFaults s x) (afterWalks x ranges (fun s =>
    let runs := [false, true].flatMap fun v => (List.range 16).flatMap fun r =>
      let bs := (rowBytesAt x.sA (tile v) r rb).map fun a => (KMap.get 0 c.sp a, c.spBad.contains (a / 64))
      let a := blockRow x.sD j r v
      (piecesOf a rb).map fun p =>
        let part := (bs.drop (p.1 - a)).take p.2
        ((Dest.va p.1, part.map Prod.fst), part.any Prod.snd)
    let cp : Copy := { copyOf x .dram runs false with tag := 0, cls := nbCls x.raw, through := true }
    let n := 32 * rb
    .ok (launchFlight { x with col := 5 } (landLatency c.ctx .dram n (refreshTerm c.ctx (curDie s) [])) (.copy cp)
      (updCore (takePort .dram n) s))) s)

/-- Issue of NB.STAT: the counters as they stand at its issue (DESIGN CHOICE, log entry 111). -/
def statPerform (x : Issue) (s : State) : Perf :=
  let c := (curCore s).ctx
  let own : Elem := if bitAt c.latched (curDie s) then 1 else 0
  .ok (launchFlight x 2 (.vecRow (vecD x) (recMod x.raw 0 4)
    ([c.blks, c.nanb, c.scores, 128, own] ++ List.replicate 59 0)) s)

/-- NB.SCORE (R320). -/
def execNbScore (x : Issue) (s : State) : Out := issueStep x 0 (scorePerform x) s
/-- NB.SEL (R323). -/
def execNbSel (x : Issue) (s : State) : Out := issueStep x 0 (selPerform x) s
/-- NB.PUT (R324). -/
def execNbPut (x : Issue) (s : State) : Out := issueStep x 0 (putPerform x) s
/-- NB.STAT (R325). -/
def execNbStat (x : Issue) (s : State) : Out := issueStep x 0 (statPerform x) s

end Sys2Proof.Machine
end

