-- ==== Sys2Proof/Machine/Forward.lean ====
section
/-! DEFINITION. The record forward (R36 to R38, R57 to R65, R330): substitution, the checks in their order,
nullification, the queue and what a recording keeps; and the records of column CC and of the hint region. -/

namespace Sys2Proof.Machine

/-! ## Header fields (R31) -/

def hdrCycles (h : Line) : Nat := bitsAt h 0 21
def hdrFold (h : Line) : BitVec 8 := h.extractLsb' 24 8
def hdrSig (h : Line) : BitVec 32 := h.extractLsb' 32 32
def hdrStream (h : Line) (n : Nat) : Bool := bitAt h (64 + n)
def hdrSegnum (h : Line) : Nat := bitsAt h 128 6
def hdrRefmin (h : Line) : Bool := bitAt h 135
def hdrGang (h : Line) : Bool := bitAt h 136
def hdrGangsize (h : Line) : Nat := bitsAt h 137 7
def hdrGangid (h : Line) : Nat := bitsAt h 144 12

/-! ## Substitution (R60) -/

/-- A record with slots applied, and the totals of its operands' offsets. -/
structure Applied where
  raw : Line
  offD : Int
  offA : Int
  offB : Int
  deriving DecidableEq, Repr

def slotCode (r : Line) (j : Nat) : Nat := bitsAt r (80 + 4 * j) 4
def slotReg (r : Line) (j : Nat) : Nat := bitsAt r (488 + 5 * j) 5

/-- The effect of one slot code with the value of its source. -/
def applyCode (code : Nat) (v : Word) (a : Applied) : Applied :=
  if code = 1 then { a with raw := putBits a.raw 32 32 (recStamp a.raw + bitsAt v 0 32) }
  else if 2 ≤ code ∧ code ≤ 5 then { a with raw := putBits a.raw (96 + 16 * (code - 2)) 16 (bitsAt v 0 16) }
  else if code = 6 then { a with offD := a.offD + sbitsAt v 0 20 }
  else if code = 7 then { a with offA := a.offA + sbitsAt v 0 20 }
  else if code = 8 then { a with offB := a.offB + sbitsAt v 0 20 }
  else if code = 9 then { a with raw := putBits a.raw 424 32 (bitsAt v 0 32) }
  else a

/-- Apply, in order, the slots that `use` picks, with the values `v` gives them. -/
def applySlots (use : Nat → Bool) (v : Nat → Word) (a : Applied) : Applied :=
  (List.range 4).foldl (fun b j => if use j then applyCode (slotCode a.raw j) (v j) b else b) a

/-- Two slots that replace one field. -/
def repeatsField (r : Line) : Bool :=
  let codes := ((List.range 4).map (slotCode r)).filter fun c => (decide (2 ≤ c) && decide (c ≤ 5)) || c == 9
  codes.eraseDups.length != codes.length

def offsetOk (o : Int) : Bool := decide (-524288 ≤ o) && decide (o ≤ 524287)

/-! ## Operands an operation uses (R58, R129, R154, R173, R192, R296, R317) -/

/-- Whether a vector operation uses name B. -/
def vectorUsesB (op : Nat) : Bool :=
  decide (op ≤ 5) || op == 8 || (decide (0x10 ≤ op) && decide (op ≤ 0x12)) || (decide (0x14 ≤ op) && decide (op ≤ 0x16))
    || op == 0x18 || op == 0x20 || op == 0x21 || (decide (0x30 ≤ op) && decide (op ≤ 0x32)) || op == 0x40 || op == 0x41
    || (decide (0x52 ≤ op) && decide (op ≤ 0x54)) || op == 0x60 || op == 0x70

/-- Which of D, A and B a record's operation uses. -/
def usedNames (r : Line) : Bool × Bool × Bool :=
  let op := opOf r
  if 0xF00 ≤ op then (false, false, false)
  else match colOf r with
  | 1 =>
    if op ≤ 1 then (true, true, true)
    else if op = 2 ∨ op = 0x10 then (true, false, false)
    else if op = 4 then (false, true, true)
    else (true, true, false)
  | 2 => (true, if op = 0x23 then splSrc r != 1 else op != 0x55, vectorUsesB op)
  | 3 => (true, if op = 0x23 then splSrc r != 1 else op != 0x55, vectorUsesB op)
  | 4 => (true, true, false)
  | 5 => (true, decide (op ≤ 4), op == 1 || op == 2 || op == 3 || op == 5)
  | 6 => (op == 0 || op == 1 || op == 5, decide (op ≤ 3), false)
  | 7 => (true, decide (op ≤ 2), decide (op ≤ 1))
  | _ => (false, false, false)

/-- The snapshot of a stream that a name names; zero where it names none (R116). -/
def snapOf (c : Ctx) (name : Nat) : Line := if isStream name then streamAt c name else 0

/-- Whether a forward reads a poisoned stream register (R360). -/
def readsBadStream (c : Core) (r : Line) : Bool :=
  let (d, a, b) := usedNames r
  let bad (u : Bool) (n : Nat) : Bool := u && isStream n && c.streamBad.contains n
  bad d (nameD r) || bad a (nameA r) || bad b (nameB r)

/-! ## The checks of R65 -/

/-- The conditions that the operation's own chapter places on its record. -/
def operationOk (s : State) (r : Line) : Bool :=
  let c := curCtx s
  let sD := snapOf c (nameD r)
  let sA := snapOf c (nameA r)
  let sB := snapOf c (nameB r)
  match colOf r with
  | 0 => true
  | 1 => mxRecordOk (curCore s).fold r sD sA sB
  | 4 => sfRecordOk r
  | 5 => copyRecordOk s.feat0 s.pkg (segGang s) r sD sA
  | 6 => opticalRecordOk s.feat0 r sD sA
  | 7 => nearBankRecordOk s.feat0 r sD sA sB
  | _ => vectorRecordOk r sD sA sB || specialRecordOk r sD sA sB

/-- Register operands inside their files at both corners of the nest (R59). -/
def namesFit (a : Applied) : Bool :=
  let (d, x, b) := usedNames a.raw
  (!d || nameFits a.raw (nameD a.raw) a.offD (strideD a.raw))
    && (!x || nameFits a.raw (nameA a.raw) a.offA (strideA a.raw))
    && (!b || nameFits a.raw (nameB a.raw) a.offB (strideB a.raw))

/-- Steps 1 and 2 of R65. A record of the hint region uses no name, so no register position of it is checked (R58;
DEDUCED, log entry 75). Every modifier field is checked as a substitution leaves it (DESIGN CHOICE, log entry 94). -/
def recordLegal (s : State) (a : Applied) : Bool :=
  let r := a.raw
  let hint := decide (0xF00 ≤ opOf r)
  (recordOpAt (colOf r) (opOf r) { Issue.zero with raw := r }).isSome
    && !(isReservedName (nameD r) || isReservedName (nameA r) || isReservedName (nameB r))
    && ((List.range 4).all fun j => decide (slotCode r j ≤ 9))
    && (!(recCB r || recCE r) || colOf r == 1) && recII r != 0 && (hint || operationOk s r)
    && !repeatsField r && offsetOk a.offD && offsetOk a.offA && offsetOk a.offB && (hint || namesFit a)

/-- Commands of the CP buffer entered and not yet started (R191). -/
def cpCommands (c : Core) : Nat := ((c.queue.filter fun q => q.x.col == 5).map fun q => q.total - q.next).sum

/-- Records that hold a place in a column's queue (R37). -/
def queuePlaces (c : Core) (col : Nat) : Nat := (c.queue.filter fun q => q.x.col == col).length

/-- The cause that a forward raises, in the order of R65; none where the record is accepted. -/
def forwardCause (s : State) (a : Applied) : Option Nat :=
  let r := a.raw
  let c := curCore s
  let g := c.ctx.seg
  let live := decide (opOf r < 0xF00)
  let n := recIssues r
  if readsBadStream c r then some 0x44
  else if !recordLegal s a then some 0x01
  else if live && colOf r == 1 && hdrFold g.hdr == 0xFF#8 then some 0x20
  else if live && colOf r == 6 && (apertureOf s (oxApt r)).isNone then some 0x50
  else if g.phase = .running ∧ recStamp r < c.ctime.toNat - g.start + 4 then some 0x26
  else if hdrCycles g.hdr ≤ recStamp r + (n - 1) * recII r then some 0x27
  else if (colOf r = 5 ∧ 256 < cpCommands c + n) ∨ (colOf r ≠ 5 ∧ 64 ≤ queuePlaces c (colOf r)) then some 0x2A
  else none

/-! ## Entering the queue -/

/-- A record that has passed its checks enters its column's queue (R37, R47), with its snapshots (R116); a
live CP record with a tag sets the expected tag of its destination (R208). -/
def enterQueue (a : Applied) (nul : Bool) (pc : Word) (s : State) : State :=
  let (id, s) := newId s
  let r := a.raw
  updCore (fun c =>
    let g := c.ctx.seg
    let x : Issue :=
      { col := colOf r, raw := r, offD := a.offD, offA := a.offA, offB := a.offB
        sD := snapOf c.ctx (nameD r), sA := snapOf c.ctx (nameA r), sB := snapOf c.ctx (nameB r)
        i0 := 0, i1 := 0, i2 := 0, i3 := 0, seq := id, first := false, last := false, nul := nul }
    let q : QRec :=
      { x := x, start := (if g.phase = .running then g.start else 0) + recStamp r, ii := recII r
        total := recIssues r, next := 0, pc := pc }
    let tag := colOf r == 5 && !nul && cpTag r != 0 && isStream (nameD r)
    let acc := if colOf r = 1 ∧ (usedNames r).1 then accsNamed r a.offD else 0
    { c with
      queue := c.queue ++ [q]
      ctx := { c.ctx with
        xt := if tag then KMap.set 0 c.ctx.xt (nameD r) (cpTag r) else c.ctx.xt
        seg := { g with
          accs := g.accs ||| acc
          lastFwd := if g.phase = .running then g.lastFwd else c.ctime.toNat + 4 } } }) s

/-! ## What a recording keeps (R330, R335) -/

/-- Slots whose source register is bound to a patch slot. -/
def slotBound (c : Ctx) (r : Line) (j : Nat) : Option Nat :=
  if 1 ≤ slotCode r j ∧ slotCode r j ≤ 9 then slotOf c (slotReg r j) else none

/-- Whether a bound register that the record reads differs from its slot (R335, reason 0x22). -/
def boundDiffers (c : Ctx) (r : Line) : Bool :=
  (List.range 4).any fun j => match slotBound c r j with
    | some k => c.main.read (slotReg r j) != KMap.get 0 c.h k
    | none => false

/-- The record as stored: unbound slots applied and cleared, bound slots as fetched (R330). -/
def storedRecord (c : Ctx) (r : Line) : Applied :=
  let open_ (j : Nat) : Bool := decide (slotCode r j ≠ 0) && (slotBound c r j).isNone
  let a := applySlots open_ (fun j => c.main.read (slotReg r j)) ⟨r, 0, 0, 0⟩
  { a with raw := (List.range 4).foldl (fun x j =>
      if open_ j then putBits (putBits x (80 + 4 * j) 4 0) (488 + 5 * j) 5 0 else x) a.raw }

/-- The entries of a forwarded record (R329, R330). -/
def recordEntries (c : Ctx) (r : Line) (pre nul : Bool) (fwd : Nat) : List TapeEntry :=
  let a := storedRecord c r
  let pmap := (List.range 4).foldl (fun n j => match slotBound c r j with
    | some k => n + (16 + k) * 2 ^ (5 * j)
    | none => n) 0
  let annex : Word := BitVec.ofNat 64 (2 ^ 60 + (if pre then 2 ^ 59 else 0) + (if nul then 2 ^ 58 else 0)
    + (if pre then 0 else fwd) * 2 ^ 37 + pmap)
  let adds := (List.range 4).any fun j =>
    decide (6 ≤ slotCode r j) && decide (slotCode r j ≤ 8) && (slotBound c r j).isNone
  let word (i : Int) : Nat := (i % (2 ^ 64 : Nat)).toNat
  ⟨a.raw, annex, false⟩ ::
    (if adds then [⟨BitVec.ofNat 512 (word a.offD + 2 ^ 64 * word a.offA + 2 ^ 128 * word a.offB),
      BitVec.ofNat 64 (6 * 2 ^ 60), false⟩] else [])

/-- What a forward does to a recording. -/
def recordToTape (r : Line) (nul : Bool) (s : State) : State :=
  let c := curCtx s
  if !c.rec_ then s
  else if boundDiffers c r then spoil 0x22 s
  else
    (recordEntries c r (c.seg.phase != .running) nul (now s - c.seg.start)).foldl (fun s e => tapeWrite e s) s

/-! ## Meanings -/

/-- RECORD_FORWARD (R37, R47, R60, R65). A record line outside a segment is illegal. An illegal record that names column
8 to 15 is reported with that number mod 8 as its column (DESIGN CHOICE, log entry 100). -/
def execRecordForward (raw : Line) (s : State) : Out :=
  let c := curCtx s
  if c.inShadow ∨ (c.seg.phase ≠ .pre ∧ c.seg.phase ≠ .running) then raise 0x01 0 s
  else
    let a := applySlots (fun _ => true) (fun j => c.main.read (slotReg raw j)) ⟨raw, 0, 0, 0⟩
    match forwardCause s a with
    | some code => .next (pushWordEvent code (if code = 0x44 then 0 else colOf raw) 0 (pcOf s) s)
    | none =>
      let nul := nullified c a.raw
      .next (retire 64 1 (enterQueue a nul (pcOf s) (recordToTape raw nul s)))

/-- MARK (R64): its issues change nothing, beside what every issue does with TS and NT. -/
def execMark (x : Issue) (s : State) : Out := issueStep x 0 .ok s

/-- An issue of a record in the hint region (R38, R63): it takes its cycle, may collide, and frees its
place after its last. Like every nullified issue it obeys and sets the spacing of its column (R127, R173). -/
def execRecordHintRegionIssue (x : Issue) (s : State) : Out :=
  let x := { x with nul := true }
  match x.col with
  | 1 => issueStep x (mxFree s) .ok s
  | 4 => mulStep x .ok s
  | _ => issueStep x 0 .ok s

end Sys2Proof.Machine
end

