-- ==== Sys2Proof/Machine/Replay.lean ====
section
/-! DEFINITION. Performing an issue again: after a hold (R24), and when an engine command window replays
(R144, R189, R362, R363). -/

namespace Sys2Proof.Machine

/-- The meaning of one issue of a record operation. -/
def recordMeaning (i : Instr) (s : State) : Out :=
  match i with
  | .mark x => execMark x s
  | .mma x => execMma x s
  | .mpass x => execMpass x s
  | .mzero x => execMzero x s
  | .mload x => execMload x s
  | .mdrain x => execMdrain x s
  | .mstore x => execMstore x s
  | .mrep x => execMrep x s
  | .mchain x => execMchain x s
  | .vadd x => execVadd x s
  | .vsub x => execVsub x s
  | .vmul x => execVmul x s
  | .vfma x => execVfma x s
  | .vmin x => execVmin x s
  | .vmax x => execVmax x s
  | .vabs x => execVabs x s
  | .vneg x => execVneg x s
  | .vmulh x => execVmulh x s
  | .vand x => execVand x s
  | .vor x => execVor x s
  | .vxor x => execVxor x s
  | .vnot x => execVnot x s
  | .vshl x => execVshl x s
  | .vshr x => execVshr x s
  | .vsar x => execVsar x s
  | .vbfx x => execVbfx x s
  | .vfsh x => execVfsh x s
  | .vpopc x => execVpopc x s
  | .vclz x => execVclz x s
  | .vcmp x => execVcmp x s
  | .vsel x => execVsel x s
  | .vmov x => execVmov x s
  | .vspl x => execVspl x s
  | .viota x => execViota x s
  | .vcvt x => execVcvt x s
  | .vqnt x => execVqnt x s
  | .vdq x => execVdq x s
  | .vrotr x => execVrotr x s
  | .vrotc x => execVrotc x s
  | .vbcr x => execVbcr x s
  | .vbcc x => execVbcc x s
  | .vredr x => execVredr x s
  | .vredc x => execVredc x s
  | .vscanr x => execVscanr x s
  | .vscanc x => execVscanc x s
  | .vtrb x => execVtrb x s
  | .vld x => execVld x s
  | .vst x => execVst x s
  | .vpop x => execVpop x s
  | .vgath x => execVgath x s
  | .vscat x => execVscat x s
  | .vlut x => execVlut x s
  | .vpart x => execVpart x s
  | .vcnt x => execVcnt x s
  | .vamo x => execVamo x s
  | .frcp x => execFrcp x s
  | .frsq x => execFrsq x s
  | .fsqrt x => execFsqrt x s
  | .fexp2 x => execFexp2 x s
  | .flog2 x => execFlog2 x s
  | .fsin x => execFsin x s
  | .fcos x => execFcos x s
  | .ftanh x => execFtanh x s
  | .fsig x => execFsig x s
  | .cpy x => execCpy x s
  | .cpyL x => execCpyL x s
  | .cpyG x => execCpyG x s
  | .cpyS x => execCpyS x s
  | .cpyXMemory x => execCpyXMemory x s
  | .cpyXScratchpad x => execCpyXScratchpad x s
  | .cpyZ x => execCpyZ x s
  | .cpyD x => execCpyD x s
  | .cpyW x => execCpyW x s
  | .oxf x => execOxf x s
  | .oxc x => execOxc x s
  | .omask x => execOmask x s
  | .ocal x => execOcal x s
  | .owin x => execOwin x s
  | .oref x => execOref x s
  | .nbScore x => execNbScore x s
  | .nbSel x => execNbSel x s
  | .nbPut x => execNbPut x s
  | .nbStat x => execNbStat x s
  | .recordHintRegionIssue x => execRecordHintRegionIssue x s
  | _ => .next s

/-- The issue's operation, whatever it is. -/
def runIssue (x : Issue) (s : State) : State :=
  match recordInstr x with
  | some i =>
    match recordMeaning i s with
    | .next t => t
    | _ => s
  | none => s

/-- The issue without its marker and notify bits: it performs again, and marks and notifies nothing (R362,
R385). -/
def quietIssue (x : Issue) : Issue := { x with raw := putBits (putBits x.raw 4 1 0) 1 1 0 }

/-- A record with nothing more to issue: it keeps the address that the causes of its issue are reported with. -/
def endedRecord (x : Issue) (pc : Word) : QRec := ⟨x, 0, 1, 1, 1, pc⟩

/-- Perform an issue again as of core cycle `cyc`, on the scratchpad as it stood then: its queue, spacing and history
stand aside. -/
def reperform (x : Issue) (cyc : Nat) (pc : Word) (sp : KMap Byte) (s : State) : State :=
  let c := curCore s
  let s := updCore (fun c => { c with
    ctime := BitVec.ofNat 64 cyc, sp := sp, queue := [endedRecord x pc], lastIssue := [], mulUntil := [], atomUntil := [] }) s
  let s := runIssue (quietIssue x) s
  updCore (fun d => { d with
    ctime := c.ctime, sp := c.sp, queue := c.queue, lastIssue := c.lastIssue, mulUntil := c.mulUntil, atomUntil := c.atomUntil
    ctx := { d.ctx with seg := { d.ctx.seg with hist := c.ctx.seg.hist } } }) s

/-- A scalar access of a solo segment enters the port in the first cycle after the hold, for the cycle it was
scheduled for (R24): a fault raises its event again, with the word's address (R249); a page that lies in host memory
now is not homed (R82); a miss that walks holds the core (R248). -/
def retryAccess (a : Access) (pc : Word) (s : State) : State :=
  let wr := accWrites a.kind
  let asid := (curCtx s).asid
  match accessTr s a.va wr with
  | .fault code level =>
    pushEvent code 0 (transInfo level 0 a.va wr) pc (updCore (fun c => { c with retry := c.retry ++ [.access a pc] }) s)
  | .ok p hit =>
    if p.host then pushEvent 0x2C 0 0 pc s
    else
      let (w, s) := if hit then (0, s) else walkLength (noteWalk (curDie s) asid a.va s)
      let (b, s) := backInvalidate (pageLocked s asid a.va) s
      let s := if wr then rdcUpdate (curDie s) asid a.va (leBytes a.size a.data.toNat) s else s
      let a := { a with waits := waitsFor s a.cls wr a.shadow }
      let s := updCore (fun c => { c with pend := c.pend ++ [a] }) s
      if 0 < w + b then pushEvent 0x100 0 (BitVec.ofNat 64 (w + b)) pc s else s

/-- Perform again what a hold kept (R24). -/
def performRetry (r : Retry) (s : State) : State :=
  match r with
  | .issue x cyc pc sp => reperform x cyc pc sp s
  | .access a pc => retryAccess a pc s

/-- The hold is over: what it kept is performed again, and what else its cycle raised is raised again (R24, R366). -/
def endHold (s : State) : State :=
  let c := curCore s
  let s := updCore (fun c => { c with hold := .none, retry := [], later := [] }) s
  let s := c.retry.foldl (fun s r => performRetry r s) s
  updCore (fun d => { d with events := d.events ++ c.later }) s

/-- WALK_COMPLETION (R24, R248): the hold ends, and the accesses that waited are performed again. -/
def execWalkCompletion (s : State) : Out :=
  match (curCore s).hold with
  | .walk _ => .next (endHold s)
  | _ => .next s

/-- Of the events of a cycle whose highest is `e`, those raised again once its hold is over (R366): not a fault of
an access that is performed again, nor of a word that executes again. The misuse of a chain at SEGE, whose word has
retired, stays. (DEDUCED, log entry 81.) -/
def keptEvents (c : Core) (e : Event) (es : List Event) : List Event :=
  let again (f : Event) : Bool := c.retry.any fun r => match r with
    | .issue x _ pc _ => x.col == f.col && pc == f.pc
    | .access _ _ => false
  (es.erase e).filter fun f => !isTransFault f.code && (f.col != 0 || f.code == 0x100 || f.code == 0x2D) && !again f

/-! ## Window replay (R362) -/

/-- Results of the issues that a replay cancels and performs again, still in flight. -/
def replayFlight (m : Nat) (f : Flight) : Bool :=
  decide (m ≤ f.issued) && match f.kind with
  | .vec _ _ _ => true
  | .vecRow _ _ _ => true
  | .mx _ _ => true
  | .push _ _ => true
  | .sp _ _ => true
  | .win _ _ _ => true
  | .optical _ _ => true
  | .nbList _ _ _ => true
  | .vamoSp _ _ _ => true
  | .vamo _ _ _ => true
  | _ => false

/-- Counters, accumulator states, drain queue and chains as they stood at the marker (R116, R144, R325); the results
of the window's issues are cancelled, and so are the issues among them that a hold would perform again. The scoring port
is as an NB.SCORE from before the marker left it (R321). -/
def toMarker (m : Marker) (c : Core) : Core :=
  { c with
    drain := m.drain
    flights := c.flights.filter fun f => !replayFlight m.m f
    scoreUntil := (c.flights.filter fun f => !replayFlight m.m f).foldl (fun n f => match f.kind with
      | .nbList _ _ _ => max n f.due
      | _ => n) 0
    retry := c.retry.filter fun r => match r with
      | .issue x cyc _ _ => !(replayable x && decide (m.m ≤ cyc))
      | .access _ _ => true
    ctx := { c.ctx with
      streams := (List.range 64).foldl (fun k n =>
        KMap.set 0 k n (putBits (streamAt c.ctx n) 384 64 (KMap.get 0 m.counts n).toNat)) c.ctx.streams
      accSt := m.accSt, foldrep := m.foldrep, blks := m.blks, nanb := m.nanb, scores := m.scores
      seg := { c.ctx.seg with chains := m.chains } } }

/-- A result of a replayed issue lands. -/
def landReplayed (f : Flight) (s : State) : State :=
  let o := match f.kind with
    | .vec _ _ _ => execVectorLanding f s
    | .mx _ _ => execLandingStage f s
    | .push _ _ => execDrainPush f s
    | .optical _ _ => execOpticalOutputLanding f s
    | .nbList _ _ _ => execNbScoreLanding f s
    | .vamo _ _ _ => execVamoAcknowledgement f s
    | _ => execEngineAccessPerform f s
  match o with
  | .next t => t
  | _ => s

/-- The part of a cycle in which a flight lands: a space-0 VAMO reads before the cycle's writes (R187), and a pull reads
what performs at the target in its cycle (R3, R204). -/
def landingPart (f : Flight) : Nat :=
  match f.kind with
  | .vamoSp _ _ _ => 0
  | .pull _ _ => 2
  | _ => 1

/-- Whether one list of numbers stands before another, place by place. -/
def lexBefore : List Nat → List Nat → Bool
  | u :: us, v :: vs => decide (u < v) || (u == v && lexBefore us vs)
  | _, _ => false

/-- The order in which flights of one core land: by cycle, then column (R151), then the order of their issue. -/
def flightKey (f : Flight) : List Nat := [f.due, landingPart f, f.col, f.seq]

/-- The flight that lands first of those that satisfy a test. -/
def firstFlight (p : Flight → Bool) (l : List Flight) : Option Flight :=
  (l.filter p).foldl (fun b f => match b with
    | none => some f
    | some g => if lexBefore (flightKey f) (flightKey g) then some f else b) none

/-- Land, in order, the replayed results due at or before a cycle. -/
def landUpTo (m j : Nat) : Nat → State → State
  | 0, s => s
  | fuel + 1, s =>
    let c := curCore s
    match firstFlight (fun f => replayFlight m f && decide (f.due ≤ j) && !landingWaits c f) c.flights with
    | none => s
    | some f =>
      let s := landReplayed f (updCore (fun c => { c with ctime := BitVec.ofNat 64 f.due }) s)
      landUpTo m j fuel (updCore (fun d => { d with ctime := c.ctime }) s)

/-- Landings that one cycle's results may bring: an MX landing may start one more, a VAMO one for each lane. -/
def landFuel (s : State) : Nat := 2 * (curCore s).flights.length + 4096

/-- The apertures' busy times stand aside while a window replays: its shots fire in their original relative
cycles (R303, R362). -/
def calmAperture (a : Aperture) : Aperture :=
  { a with shotUntil := 0, maskUntil := 0, settle := [], used := [], lastShot := (0, 0), lastMask := (0, 0) }
def restoreTimes (old a : Aperture) : Aperture :=
  { a with
    shotUntil := old.shotUntil, maskUntil := old.maskUntil, settle := old.settle, used := old.used
    lastShot := old.lastShot, lastMask := old.lastMask }

/-- Whether a window initialises an accumulator: MZERO, or an MLOAD of each of its four row groups. -/
def initialises (a : Nat) (l : List Issue) : Bool :=
  (l.any fun x => opOf x.raw == 2 && accD x == a)
    || (List.range 4).all fun g => l.any fun x => opOf x.raw == 3 && accD x == a && rowGroup x == g

/-- Accumulators that the window adds into before it initialises them (R144): an MLOAD of one row group initialises
that group alone (DESIGN CHOICE, log entry 77). -/
def unpredictableAccs (hist : List (Nat × Issue × Word)) : List Nat :=
  let l := (hist.map fun e => e.2.1).filter fun x => x.col == 1
  (List.range 4).filter fun a =>
    let adds (x : Issue) : Bool := decide (opOf x.raw ≤ 1) && accD x == a
    l.any adds && !initialises a (l.takeWhile fun x => !adds x)

/-- Give an accumulator free elements. -/
def freeAcc (s : State) (a : Nat) : State :=
  let n := s.free
  updCore (fun c => { c with ctx := { c.ctx with
    acc := KMap.setList 0 c.ctx.acc (a * 4096) ((List.range 4096).map fun i => Config.accAfterReplay (n + i)) } })
    { s with free := n + 4096 }

/-- Whether a flight is lanes of a VAMO that a replay of the window from `m` does not cancel: all that have been sent to
slices, and those of the window's issues in space 0 (R189). -/
def sentLanes (m : Nat) (f : Flight) : Bool :=
  match f.kind with
  | .vamo _ _ _ => true
  | .vamoSp _ _ _ => decide (m ≤ f.issued)
  | _ => false

/-- The lanes of a VAMO that have not performed yet, one after another. -/
def performLanes (f : Flight) (s : State) : State :=
  let s := dropFlight f s
  match f.kind with
  | .vamo x vals idx => (vals.zip idx).foldl (fun s p => if active p.2 then vamoOne x p.1 p.2 s else s) s
  | .vamoSp x vals idx => updCore (fun c => spWriteBytes (vamoSpBytes c x vals idx) c) s
  | _ => s

/-- A VAMO is not undone when a window replays: what it has sent performs, in the order of its classes, before the window
is performed again (R189; DEDUCED, log entry 89). -/
def performSent (m : Nat) : Nat → State → State
  | 0, s => s
  | fuel + 1, s =>
    let c := curCore s
    match firstFlight (fun f => sentLanes m f && !vamoWaits c.flights f) c.flights with
    | none => s
    | some f => performSent m fuel (performLanes f s)

/-- Hold the core for the replay of a window up to core cycle `last`: its results are cancelled, and its issues are
performed again in the last cycles of the hold (R362). At the end of a segment the window is the one in force at
SEGE's scheduled cycle (R363). -/
def startReplay (atEnd : Bool) (s : State) : State :=
  let g := (curCtx s).seg
  let (m, hist, last) := match if atEnd then g.atEnd else none with
    | some w => (w.1, w.2, g.start + g.segeAt.getD 0)
    | none => (g.mark, g.hist, now s)
  let s := { s with fw := { s.fw with replays := s.fw.replays + 1 } }
  let s := performSent m.m (curCore s).flights.length s
  updCore (fun c =>
    let c := toMarker m c
    { c with
      hold := .replay (tempoNow s + 1 + 64 + (last - m.m + 1))
      ctx := { c.ctx with seg := { c.ctx.seg with
        replayed := true, endReplayed := c.ctx.seg.endReplayed || atEnd
        replayIssues := hist, replayAt := m.m, replayEnd := last } } }) s

/-- The marker of the window that replays. -/
def replayFrom (g : Seg) : Nat := (g.replayIssues.map Prod.fst).foldl min g.replayAt

/-- Perform core cycle `j` of the window again, whose marker is at `m`: what lands in it, then its issues. -/
def replayCycle (m j : Nat) (s : State) : State :=
  let d := curDie s
  let dies := s.dies
  let s := updDie d (fun x => { x with ap0 := calmAperture x.ap0, ap1 := calmAperture x.ap1 }) s
  let s := landUpTo m j (landFuel s) s
  let s := ((curCtx s).seg.replayIssues.filter fun e => e.1 == j).foldl (fun s e => reperform e.2.1 j e.2.2 (curCore s).sp s) s
  let old := KMap.get Die.reset dies d
  updDie d (fun x => { x with ap0 := restoreTimes old.ap0 x.ap0, ap1 := restoreTimes old.ap1 x.ap1 }) s

/-- What a cycle of the replay raised waits for the hold's end; consumed poison aborts the task with 0x43 (R362). -/
def replayEvents (s : State) : State :=
  let c := curCore s
  match c.events.find? fun e => e.code == 0x42 with
  | some e => abortHere 0x43 (now s - 1 - c.ctx.seg.start) e.col s
  | none => updCore (fun c => { c with events := [], later := c.later ++ c.events }) s

/-- REPLAY_RESUME (R362, R363): the next cycle of the window is performed again; after the last one the core goes on
with core cycle c + 1. (DESIGN CHOICE, log entry 42.) What the window itself reads of an accumulator that it adds into
without initialising it is the sum with what it had added before (R144; DESIGN CHOICE, log entry 96). -/
def execReplayResume (s : State) : Out :=
  match (curCore s).hold with
  | .replay _ =>
    let g := (curCtx s).seg
    let j := g.replayAt
    let m := replayFrom g
    .next (
      if j ≤ g.replayEnd then replayEvents (replayCycle m j (updSeg (fun g => { g with replayAt := j + 1 }) s))
      else
        let s := replayEvents (landUpTo m (now s - 1) (landFuel s) s)
        if (curCore s).resident then endHold ((unpredictableAccs g.replayIssues).foldl freeAcc s) else s)
  | _ => .next s

end Sys2Proof.Machine
end

