-- ==== Sys2Proof/Machine/Segment.lean ====
section
/-! DEFINITION. Segments (R31 to R40, R90 to R93): SEGB, ALIGN, release, SEGE, completion and gangs; aborts
(R35, R358, R364); the order of one cycle's events (R366); and the clock (R22, R23). -/

namespace Sys2Proof.Machine

/-! ## The header (R31, R91, R372) -/

/-- The header at an address that SEGB named; none where it is not 64-byte aligned, or lies outside the instruction
store. -/
def namedHeader (c : Core) (w : Word) : Option Line :=
  let off := w.toNat - c.ctx.codeBase
  if w.toNat % 64 ≠ 0 ∨ w.toNat < c.ctx.codeBase ∨ c.ctx.codeSize < off + 64 then none
  else some (BitVec.ofNat 512 (ofLeBytes (KMap.getList 0 c.istore off 64)))

/-- A well-formed header of a task that holds gang segments or not. -/
def headerOk (gangs : Bool) (h : Line) : Bool :=
  decide (1 ≤ hdrCycles h) && decide (hdrCycles h ≤ 2 ^ 20)
    && (if hdrGang h then gangs && decide (1 ≤ hdrGangsize h) else hdrGangsize h == 0)

/-- The schedule fault that ALIGN raises, with the modes it would latch: the lowest code of those that hold
(R32, R366); none where its conditions 1 to 3 are met. -/
def alignCause (c : Core) (latched : BitVec 8) (h : Line) : Option Nat :=
  if hdrFold h ≠ 0xFF ∧ hdrFold h ≠ c.fold then some 0x20
  else if hdrRefmin h ∧ latched ≠ 0 then some 0x21
  else if !headerOk c.ctx.gangs h then some 0x24
  else none

/-! ## SEGB and ALIGN -/

/-- SEGB (R91). -/
def execSegb (off : BitVec 22) (s : State) : Out :=
  mainOnly s (looseOnly s (
    .next (retire 4 1 (updCtx (fun c => { c with segb := some (pcOf s + (sextW off <<< 2)) }) s))))

/-- What an abort or a re-release returns to (R35, R358). -/
def snapshotOf (c : Ctx) : Snapshot :=
  { regs := c.main, lpass := c.lpass, hz := c.hz, streams := c.streams, tm := c.tm, xt := c.xt, notify := c.notify }

/-- Steps 1 and 2 of R92: REFMODE is latched, P is 1, LPASS 0, no kill horizon, and the pre-release run
begins. -/
def openSegment (h : Line) (alignPc bodyPc : Word) (word : IWord) (gangT : Nat) (late : Bool) (latched : BitVec 8)
    (s : State) : State :=
  updCore (fun c =>
    let x := c.ctx
    { c with ctx := { x with
        latched := latched, lpass := 0, hz := none, main := { x.main with p := 1 }
        seg := { Seg.loose with
          phase := .pre, hdr := h, alignPc := alignPc, bodyPc := bodyPc, gangT := gangT, late := late
          lastFwd := c.ctime.toNat, crc := crcWord crcInit word, snap := snapshotOf x } } }) s

/-- Contexts of the task with the GANGID of the header in focus, in the phases given (R34). -/
def gangIn (p : Phase → Bool) (s : State) : List Nat :=
  let c := curCtx s
  (List.range nCores).filter fun k =>
    let x := (getCore s k)
    x.resident && x.ctx.task == c.task && p x.ctx.seg.phase && hdrGang x.ctx.seg.hdr
      && hdrGangid x.ctx.seg.hdr == hdrGangid c.seg.hdr

/-- The members of the gang that forms: those that have reached ALIGN and not released. A context that still closes
or aborts a former execution of the gang is none of them (R34). -/
def gangMembers (s : State) : List Nat := gangIn (fun p => p == .pre || p == .waiting) s

/-- The members of the gang that has released. -/
def releasedGang (s : State) : List Nat := gangIn (fun p => p == .running || p == .closing) s

/-- ALIGN releases nothing after all: what it changed but the latch returns, and its schedule fault is precise at
the ALIGN word (R34, R254, R351). (DEDUCED, log entry 31.) -/
def alignFault (code : Nat) (s : State) : State :=
  let g := (curCtx s).seg
  let pc := g.alignPc
  preciseTrap code 0 pc (updCore (fun c => { c with
    queue := []
    ctx := { c.ctx with
      main := { g.snap.regs with pc := pc }, lpass := g.snap.lpass, hz := g.snap.hz, streams := g.snap.streams
      tm := g.snap.tm, xt := g.snap.xt, seg := Seg.loose } }) s)

/-- Whether two members disagree on T, CYCLES or GANGSIZE (R34). -/
def gangDisagrees (s : State) : Bool :=
  let g := (curCtx s).seg
  (gangMembers s).any fun k =>
    let x := (getCore s k).ctx.seg
    x.gangT != g.gangT || hdrCycles x.hdr != hdrCycles g.hdr || hdrGangsize x.hdr != hdrGangsize g.hdr

/-- REFMODE is latched; a byte other than the tape's REFCUR makes a recording unusable (R335). -/
def latchModes (latched : BitVec 8) (s : State) : State :=
  let s := updCtx (fun c => { c with latched := latched }) s
  if latched ≠ (curCore s).tape.refCur then spoil 0x24 s else s

/-- The fault of an ALIGN that has latched, and releases nothing (R32). -/
def alignRaise (code : Nat) (s : State) : Out := raise code 0 (latchModes (refCurrent s) s)

/-- ALIGN (R32, R34, R92). (DEDUCED, log entry 31.) A header that is not 64-byte aligned or lies outside the
instruction store counts as malformed, and ALIGN has latched; with no SEGB there is no header, and it latches
nothing (DEDUCED, log entry 76). -/
def execAlign (a : BitVec 5) (s : State) : Out :=
  let c := curCore s
  let pc := pcOf s
  let off := pc.toNat - c.ctx.codeBase
  mainOnly s (
    if pc.toNat % 64 ≠ 60 then raise 0x00 0 s
    else looseOnly s (
      match c.ctx.segb.map (namedHeader c) with
      | none => raise 0x24 0 s
      | some none => alignRaise 0x24 s
      | some (some h) =>
        let latched := refCurrent s
        match alignCause c latched h with
        | some code => alignRaise code s
        | none =>
          let t := (readG s a).toNat
          let gang := hdrGang h
          let late := gang && decide (t < tempoNow s + 64)
          let word := lineWord c (off / 64 * 64) 15
          let s := openSegment h pc (pc + 4) word (if gang then t else 0) late latched s
          let s := if !c.ctx.rec_ then s
            else if gang then spoil 0x21 s
            else if latched ≠ c.tape.refCur then latchModes latched s
            else tapeWrite ⟨h, BitVec.ofNat 64 (2 * 2 ^ 60 + latched.toNat), false⟩ s
          let s := retire 4 1 s
          .next (if gang && gangDisagrees s then
            (gangMembers s).foldl (fun s k => onCore k (alignFault 0x23) s) s else s)))

/-! ## Release (R32, R33, R92) -/

/-- The bytes of scratchpad, LS space or memory that tile 0 of a stream describes, and its scale bytes
(R115). -/
def describedBytes (st : Line) : List Nat :=
  (List.range (stRows st)).flatMap fun r => (List.range (stRowBytes st)).map fun k =>
    if stSpace st = 0 then rowByte st 0 r k else (rowStart st 0 r).toNat + k
def scaleBytes (st : Line) : List Nat :=
  if stBlkAx st = 0 then []
  else (List.range (stRows st)).flatMap fun r => (List.range (stCols st)).map fun k => (scaleAddr st 0 r k).toNat

/-- Whether a copy writes a byte that a stream of the core describes. -/
def copyInto (core : Nat) (st : Line) (cp : Copy) : Bool :=
  let data := describedBytes st
  let scales := scaleBytes st
  let hits (l : List Nat) (a n : Nat) : Bool := l.any fun b => decide (a ≤ b) && decide (b < a + n)
  cp.runs.any fun r => match r.1 with
    | .sp k a => k == core && ((stSpace st == 0 && hits data a r.2.length) || hits scales a r.2.length)
    | .ls a => stSpace st == 1 && hits data a r.2.length
    | .va a => stSpace st == 2 && hits data a r.2.length

/-- Condition 4 of R32: no started copy of the context is on its way into a named stream. -/
def streamsResident (s : State) : Bool :=
  let c := curCore s
  (List.range 64).all fun n => !hdrStream c.ctx.seg.hdr n ||
    !(c.flights.any fun f => match f.kind with
      | .copy cp => copyInto s.cur (streamAt c.ctx n) cp
      | _ => false)

/-- Whether the pre-release run goes on: the next line is a record, or the tape's next entry is a record of
the run. -/
def runGoesOn (c : Core) : Bool :=
  if c.play.on then
    match c.tape.entries[c.play.next]? with
    | some e => entryKind e == 1 && bitAt e.annex 59
    | none => false
  else
    let off := c.ctx.main.pc.toNat - c.ctx.codeBase
    decide (c.ctx.codeBase ≤ c.ctx.main.pc.toNat) && decide (off < c.ctx.codeSize) && off % 64 == 0
      && isRecordMark (lineWord c off 0)

/-- Whether the core in focus can release by its own conditions: the pre-release run forwarded and four
cycles old, its fence met, and conditions 3 and 4; condition 3 matters where a gang releases
again after a stack has turned hot. (DEDUCED, log entries 40 and 41.) -/
def memberReady (s : State) : Bool :=
  let c := curCore s
  c.ctx.seg.phase == .pre && !(hdrRefmin c.ctx.seg.hdr && c.ctx.latched != 0) && !c.ctx.inShadow && c.hold == .none && c.events.isEmpty && !runGoesOn c
    && decide (c.ctx.seg.lastFwd ≤ c.ctime.toNat) && coreFenced s && streamsResident s

/-- Condition 5: the gang has formed, every member is ready, and tempo is T (R34). -/
def gangReady (s : State) : Bool :=
  let ks := gangMembers s
  ks.length == hdrGangsize (curCtx s).seg.hdr + 1 && tempoNow s == (curCtx s).seg.gangT
    && ks.all fun k => memberReady (focus k s) && !(getCore s k).ctx.seg.late

def releaseReady (s : State) : Bool := if segGang s then gangReady s else memberReady s

/-- The core in focus enters offset 0: S is this cycle, the values at release are kept, a window opens, the
watchdog restarts, and ALIGN's acquire is complete (R33, R43, R261, R361). (DESIGN CHOICE, log entry 10.) -/
def releaseCore (s : State) : State :=
  let s := acquireBy false 0 0xFFFF s
  let s := if segGang s then updTask (curCtx s).task (fun t => { t with ganged := true }) s else s
  updCore (fun c =>
    let c := { c with
      queue := c.queue.map fun q => { q with start := q.start + c.ctime.toNat }
      watchdog := 0, ready := c.ctime.toNat + 1
      ctx := { c.ctx with seg := { c.ctx.seg with
        phase := .running, start := c.ctime.toNat
        snap := snapshotOf c.ctx } } }
    openWindow c) s

/-- The cores that release with the core in focus. -/
def releaseGroup (s : State) : List Nat := if segGang s then gangMembers s else [s.cur]

/-- The apertures granted to the contexts of some cores latch their temperatures (R309). -/
def latchTemps (ks : List Nat) (s : State) : State :=
  (List.range 16).foldl (fun s a =>
    if ks.any fun k => (getAperture s a).owner == some ((getCore s k).ctx.task, (getCore s k).ctx.spidx) then
      updAperture a (fun x => { x with tlatch := x.temp }) s
    else s) s

/-- A segment, or every member of a gang, releases, and the apertures that it may address latch (R294, R309). -/
def releaseAll (s : State) : State :=
  (releaseGroup s).foldl (fun s k => onCore k releaseCore s) (latchTemps (releaseGroup s) s)

/-- SEGMENT_RELEASE (R32). -/
def execSegmentRelease (s : State) : Out := .next (if releaseReady s then releaseAll s else s)

/-- GANG_RE_RELEASE (R35, R364): every member releases again at T′. -/
def execGangReRelease (s : State) : Out :=
  .next (if (curCtx s).seg.reReleased && releaseReady s then releaseAll s else s)

/-- GANG_START_MISSED (R34): at T the gang is not formed or not ready. A member whose T has passed when it executes
ALIGN takes the fault at once (DESIGN CHOICE, log entry 74). -/
def execGangStartMissed (s : State) : Out :=
  .next (if segGang s && (curCtx s).seg.phase == .pre && decide ((curCtx s).seg.gangT ≤ tempoNow s) && !gangReady s then
    (gangMembers s).foldl (fun s k => onCore k (alignFault 0x22) s) s
  else s)

/-! ## SEGE and closure (R39, R40, R93) -/

/-- The segment's scheduled end: its offset, and the window in force there (R93, R363). -/
def closeAt (o : Nat) (g : Seg) : Seg := { g with phase := .closing, segeAt := some o, atEnd := some (g.mark, g.hist) }

/-- SEGE (R93): its issue is the scheduled end. A chain still open there is misuse (R142). -/
def execSege (s : State) : Out :=
  mainOnly s (
    if !inSegment s then raise 0x00 0 s
    else
      let c := curCtx s
      let o := now s - c.seg.start
      let pc := pcOf s
      let chain := c.seg.chains.any fun e => e.2.isOpen
      let s := retire 4 1 (updSeg (closeAt o) s)
      .next (if chain then pushEvent 0x2D 0 0 pc s else s))

/-- Closure but for the drain queue: every issue gone, everything landed, every store performed. -/
def landedAll (c : Core) : Bool :=
  (liveRecords c.queue).isEmpty && c.flights.isEmpty && c.pend.isEmpty && c.retry.isEmpty

/-- Streams that passed their threshold in the segment (R121). -/
def passedThreshold (c : Ctx) : Bool :=
  (List.range 64).any fun n =>
    let x := streamAt c n
    let was := stSatCnt (KMap.get 0 c.seg.snap.streams n)
    decide (was < stSatCnt x) && decide (stSatThr x < stSatCnt x)

/-- The mismatches of the segment-end check (R40): count and signature. A segment whose window has replayed for one is
not checked a second time (R363). -/
def endMismatches (g : Seg) : List Nat :=
  let count := g.segeAt != some (hdrCycles g.hdr)
  let sig := crcFinal g.crc != hdrSig g.hdr
  if g.endReplayed then [] else (if count then [0x40] else []) ++ (if sig then [0x41] else [])

/-- What the end of a segment finds (R40, R138): a mismatch, an entry left in the drain queue. -/
def endCauses (c : Core) : List Nat := endMismatches c.ctx.seg ++ (if c.drain.isEmpty then [] else [0x2F])

/-- A mismatch aborts a gang on every member (R364), so that a member without one completes only where every member
has issued its SEGE, and none finds a mismatch there. (DEDUCED, log entry 92.) -/
def gangEnds (s : State) : Bool :=
  !segGang s || !(endMismatches (curCtx s).seg).isEmpty || (releasedGang s).all fun k =>
    let g := (getCore s k).ctx.seg
    g.phase == .closing && (endMismatches g).isEmpty

/-- The segment is over: WIDEN, the pending arrivals, the held notifications, what a recording keeps, and the
deferred TRAP (R121, R284, R334, R342, R356, R385). A chain that a landing of the closure has opened is closed
without a cause (DESIGN CHOICE, log entry 78). -/
def completeSegment (s : State) : State :=
  let c := curCore s
  let g := c.ctx.seg
  let wide := c.ctx.widen ||| BitVec.ofNat 64 (2 ^ hdrSegnum g.hdr)
  let widened := passedThreshold c.ctx
  let s := if c.ctx.rec_ then
      let e : TapeEntry := ⟨BitVec.ofNat 512 ((crcFinal g.crc).toNat + 2 ^ 32 * g.segeAt.getD 0), BitVec.ofNat 64 (3 * 2 ^ 60), false⟩
      tapeCheckpoint 4 (pcOf s) (tapeWrite e s)
    else s
  let s := if widened && wide != c.ctx.widen then spoil 0x23 (updCtx (fun x => { x with widen := wide }) s) else s
  let s := updCore (fun d => { d with
    ready := d.ctime.toNat + 1 + if c.ctx.rec_ then 5 else 0
    play := if widened && d.play.on then { d.play with leaveAt := some 10 } else d.play
    ctx := { d.ctx with seg := Seg.loose, segb := none } }) s
  let s := g.arrivals.foldl (fun s n => arriveNow n s) s
  let s := notify g.notes s
  match g.trap with
  | some (o, n) =>
    if (curCtx s).handler = 0 then abortHere 0x46 o 0 s else enterHandler 4 0xFF 0 o (n.setWidth 64) (pcOf s) s
  | none => s

/-- SEGE_COMPLETION (R39, R40, R138). -/
def execSegeCompletion (s : State) : Out :=
  let c := curCore s
  if c.ctx.seg.phase ≠ .closing ∨ !landedAll c ∨ !c.events.isEmpty ∨ c.hold ≠ .none ∨ !gangEnds s then .next s
  else
    match endCauses c with
    | [] => .next (completeSegment s)
    | codes => .next (codes.foldl (fun s e => pushEvent e 0 0 (pcOf s) s) s)

/-! ## Segment aborts (R35, R358, R364) -/

/-- The segment of the core in focus stops: nothing more issues, loads in flight are cancelled, and what the
segment held back is dropped. A hold in progress ends, with its shadow context and any wait of it (R254). (DEDUCED, log
entry 38.) -/
def beginAbort (e : Event) (offset gangT : Nat) (s : State) : State :=
  let s := spoil 0x27 (updCtx (fun c => { c with inShadow := false, wait := .none }) s)
  updCore (fun c => { c with
    queue := [], retry := [], later := [], hold := .none
    pend := c.pend.filter fun a => !(a.kind == .load && a.seg)
    flights := c.flights.filter fun f => match f.kind with
      | .load _ _ _ => false
      | _ => true
    loading := c.loading.filter fun e => c.pend.any fun a => a.id == e.2 && !(a.kind == .load && a.seg)
    ctx := { c.ctx with
      seg := { c.ctx.seg with
        phase := .aborting, arrivals := [], trap := none, notes := 0, ev := e, evOffset := offset, gangT := gangT } } }) s

/-- A gang aborts on every member (R35, R364): `e` at the core in focus, `other` at the rest; T′ where the
device publishes it itself. The execution keeps which kind of event has aborted it. -/
def abortGang (e : Event) (other : Nat) (gangT offset : Nat) (s : State) : State :=
  let ks := releasedGang s
  ks.foldl (fun t k =>
    onCore k (fun t =>
      let ev := if k = s.cur then e else { Event.none with code := other }
      updSeg (fun g => { g with
        reReleased := true
        transAborted := g.transAborted || isTransFault e.code
        errorAborted := g.errorAborted || (decide (0x40 ≤ e.code) && decide (e.code ≤ 0x42)) })
        (beginAbort ev offset gangT t)) t) s

/-- An accumulator that a segment named as D is set as MZERO sets it (R358 step 3). -/
def discardAccs (c : Core) : Core :=
  (List.range 4).foldl (fun c a => if bitAt c.ctx.seg.accs a then zeroAcc a c else c) c

/-- Registers and streams return to their values at release (R35 step 4, R358 step 4); vector registers,
scratchpad, tags, LS space and memory keep what performed. -/
def restoreRelease (c : Core) : Core :=
  let g := c.ctx.seg.snap
  { c with ctx := { c.ctx with
      main := g.regs, lpass := g.lpass, hz := g.hz, streams := g.streams, tm := g.tm, xt := g.xt, notify := g.notify } }

/-- A gang member is ready to forward its pre-release run again, and waits for T′ where it is published. (DEDUCED, log entry 41.) -/
def rearm (gangT : Nat) (s : State) : State :=
  let c := curCore s
  let g := c.ctx.seg
  let off := g.alignPc.toNat - c.ctx.codeBase
  let seg' : Seg := { Seg.loose with
    phase := if gangT = 0 then .waiting else .pre
    hdr := g.hdr, alignPc := g.alignPc, bodyPc := g.bodyPc, gangT := gangT
    lastFwd := c.ctime.toNat, crc := crcWord crcInit (lineWord c (off / 64 * 64) 15), snap := g.snap
    reReleased := true, transAborted := g.transAborted, errorAborted := g.errorAborted }
  updCore (fun d => { d with
    ready := d.ctime.toNat + 1
    ctx := { d.ctx with
      seg := seg', lpass := 0, hz := none
      latched := if g.ev.code = 0x47 then refCurrent s else d.ctx.latched ||| refCurrent s
      main := { d.ctx.main with p := 1, pc := g.bodyPc } } }) s

/-- The end of an abort: everything in flight has landed. A gang whose header has REFMIN takes 0x21 after its 0x47
where its stack is still hot (R254; DESIGN CHOICE, log entry 98). -/
def finishAbort (s : State) : State :=
  let c := curCore s
  let g := c.ctx.seg
  let e := g.ev
  let gang := segGang s
  let playing := c.play.on
  let s := updCore (fun c => restoreRelease (discardAccs { c with drain := [] })) s
  if gang then
    if e.code = 0x47 ∧ hdrRefmin g.hdr ∧ refCurrent s ≠ 0 then alignFault 0x21 (latchModes (refCurrent s) s)
    else
      let s := rearm g.gangT s
      if isTransFault e.code then
        (if (curCtx s).handler = 0 then abortHere 0x46 g.evOffset e.col s
          else enterHandler 3 e.code e.col g.evOffset e.info g.alignPc s)
      else s
  else
    let tapeReason : Option (BitVec 8) :=
      if 0x30 ≤ e.code ∧ e.code ≤ 0x32 then some (BitVec.ofNat 8 e.code) else none
    let s := if playing then leaveTape tapeReason s
      else updCore (fun c => { c with
        ready := max c.ready (c.ctime.toNat + 1)
        ctx := { c.ctx with seg := Seg.loose, main := { c.ctx.main with pc := g.alignPc } } }) s
    let s := if e.code = 0x30 then updCore (fun c => { c with tape := Tape.empty }) s else s
    if (0x30 ≤ e.code ∧ e.code ≤ 0x32) ∨ e.code = 0x47 ∨ !(curCore s).resident then s
    else if (curCtx s).handler = 0 then abortHere 0x46 g.evOffset e.col s
    else enterHandler 2 e.code e.col g.evOffset e.info (curCtx s).main.pc s

/-! ## One cycle's events (R366) -/

/-- Take one event as its letter says (R350, R351). -/
def takeEvent (e : Event) (s : State) : State :=
  let off := eventOffset s
  let g := (curCtx s).seg
  if e.code = 0x100 then
    updCore (fun c => { c with hold := .walk (tempoNow s + 1 + e.info.toNat) }) s
  else match handlingHere s e.code with
  | .X =>
    let s := if e.code = 0x45 then updCore (fun c => { c with inService := false }) s else s
    if (curCore s).resident then abortHere e.code off e.col s else s
  | .P => preciseTrap e.code e.info e.pc s
  | .H =>
    if (curCtx s).handler = 0 then abortHere 0x46 off e.col s
    else enterHandler 1 e.code e.col off e.info e.pc (updCore (fun c => { c with hold := .handler }) s)
  | .A => beginAbort e off 0 s
  | .F => beginAbort e off 0 s
  | .L => beginAbort e off 0 s
  | .G =>
    if g.phase ≠ .running ∧ g.phase ≠ .closing then beginAbort e off 0 s
    else if g.transAborted then abortHere e.code off e.col s
    else abortGang e 0x29 0 off s
  | .E =>
    if g.errorAborted && e.code != 0x47 then abortHere 0x43 off e.col s
    else abortGang e e.code (tempoNow s + 4096) off s
  | .W =>
    if g.replayed then abortHere 0x43 off e.col s else startReplay (decide (e.code ≤ 0x41)) s
  | .D => s
  | .none => s

/-- The longest of several walks of one cycle. -/
def mergeWalks (l : List Event) : List Event :=
  let ws := l.filter fun e => e.code == 0x100
  let n := ws.foldl (fun m e => max m e.info.toNat) 0
  l.map fun e => if e.code = 0x100 then { e with info := BitVec.ofNat 64 n } else e

/-- The end of the cycle on the core in focus: the highest event is taken (R366), and where it begins a hold, what
else is to be raised again is kept. While an abort drains, only what aborts the task counts. A played pre-release run
that fails leaves the tape instead (R342). -/
def resolveCore (s : State) : State :=
  let c := curCore s
  let es := mergeWalks c.events
  let s := updCore (fun c => { c with events := [] }) s
  let es := if c.ctx.seg.phase = .aborting then es.filter fun e => handlingHere s e.code == .X else es
  match highest es with
  | none => s
  | some e =>
    if c.play.on ∧ c.ctx.seg.phase = .pre ∧ handlingHere s e.code ≠ .X ∧ e.code ≠ 0x100 then
      let s := updCore restoreRelease s
      let s := leaveTape (some (BitVec.ofNat 8 e.code)) s
      if e.code = 0x30 then updCore (fun c => { c with tape := Tape.empty }) s else s
    else
      let t := takeEvent e s
      if c.hold = .none ∧ (curCore t).hold ≠ .none then updCore (fun d => { d with later := keptEvents d e es }) t else t

/-- An abort whose segment has drained comes to its end. -/
def settleCore (s : State) : State :=
  let c := curCore s
  if c.resident ∧ c.ctx.seg.phase = .aborting ∧ c.flights.isEmpty ∧ c.pend.isEmpty then finishAbort s else s

/-! ## The clock (R22, R23) -/

/-- Whether a core's watchdog counts this cycle (R43, R251): outside segments, and in a handler. A frozen
complex stops it (R388), and so does recalibration at a pre-emption point (R309). -/
def watchdogCounts (s : State) (c : Core) : Bool :=
  c.resident && decide (c.recalUntil ≤ c.ctime.toNat) && complexRuns s
    && (c.ctx.inShadow || c.ctx.seg.phase == .loose || c.ctx.seg.phase == .pre || c.ctx.seg.phase == .waiting)

/-- One core's next cycle. `held` says whether its hold stood in the cycle that ends. -/
def tickCore (s : State) (held : Bool) (c : Core) : Core :=
  { c with
    ctime := if held then c.ctime else c.ctime + 1
    queue := liveRecords c.queue
    watchdog := if watchdogCounts s c then c.watchdog + 1 else c.watchdog }

/-- An aperture's own clock: it counts while it is granted, and stops in the cycles in which the granted core of a
solo segment is held (R302); `held` lists the cores whose hold stood in the cycle that ends. -/
def tickAperture (s : State) (held : List Nat) (a : Aperture) : Aperture :=
  match a.owner with
  | none => a
  | some (t, i) =>
    let stands := held.any fun k =>
      let c := getCore s k
      c.resident && c.ctx.task == t && c.ctx.spidx == i
    { a with clk := if stands then a.clk else a.clk + 1, granted := a.granted + 1 }

/-- CORE_CLOCK_CYCLE: the cycle ends on every core, TEMPO advances, CTIME advances on every core that was not held,
the stimuli of the new cycle have their effect, and the firmware takes the reports and notifications that have waited
(R385, R388). -/
def execCoreClockCycle (s : State) : Out :=
  let held := (List.range nCores).filter fun k => (getCore s k).hold != .none
  let s := forCores (fun k s => if (getCore s k).events.isEmpty then s else onCore k resolveCore s) s
  let s := forCores (fun k s => onCore k settleCore s) s
  let s := (List.range nDies).foldl (fun s d =>
    let x := getDie s d
    setDie s d { x with ap0 := tickAperture s held x.ap0, ap1 := tickAperture s held x.ap1 }) s
  let s := forCores (fun k s => updCoreAt k (tickCore s (held.contains k)) s) s
  let s := departArrivals s
  .next (deliverNotes (deliverReports (applyStimuli (endFreeze (ageFrozen { s with tempo := s.tempo + 1 })))))

/-! ## Other events of a core -/

/-- SCALAR_LOAD_LANDING (R82): the load writes its register, if it is still the last producer of it (R70). (DEDUCED, log entry 32.) -/
def execScalarLoadLanding (f : Flight) (s : State) : Out :=
  match f.kind with
  | .load reg id v =>
    .next (updCore (fun c =>
      if KMap.get 0 c.loading reg = id ∧ reg ≠ 0 then
        { c with
          loading := KMap.set 0 c.loading reg 0
          ctx := noteMain reg { c.ctx with main := c.ctx.main.write reg v } }
      else c) (dropFlight f s))
  | _ => .next s

/-- ACCESS_PERFORMS (R258): an access of the core in focus performs. -/
def execAccessPerforms (a : Access) (s : State) : Out := .next (performAccess a s)

/-- HOST_LINK_COMPLETION (R395): a completion returns for an access to host memory, which performs. -/
def execHostLinkCompletion (a : Access) (s : State) : Out := .next (performAccess { a with host := true } s)

/-- LOOSE_CODE_WATCHDOG (R43): the count has passed the limit of the task's priority (100 ms by default), and
the task is cut off; in a handler with 0x46 (R355). -/
def watchdogLimit (s : State) (p : Nat) : Nat := KMap.get 150000000 s.fw.limits p
def execLooseCodeWatchdog (s : State) : Out :=
  let c := curCore s
  .next (if c.resident ∧ watchdogLimit s c.ctx.prio.toNat < c.watchdog then
    abortHere (if c.ctx.inShadow then 0x46 else 0x28) 0 0 s
  else s)

/-- MACHINE_CHECK (R366): an uncorrectable error in the core's own control state. The task aborts, and the
core is out of service until the firmware returns it. -/
def execMachineCheck (s : State) : Out := .next (pushEvent 0x45 0 0 (pcOf s) s)

/-- REFRESH_DEADLINE (R254): on the die of the core in focus, the postponed bursts are issued, the doubled
cadence begins, and every segment that still holds a normal latch for the stack takes 0x47, which telemetry counts. -/
def execRefreshDeadline (s : State) : Out :=
  let d := curDie s
  let s := updDie d (fun x => { x with doubled := true, postponed := [], deadline := false }) s
  .next (forCores (fun k s =>
    let c := getCore s k
    let p := c.ctx.seg.phase
    if c.resident ∧ (p = .running ∨ p = .closing) ∧ !bitAt c.ctx.latched d then
      onCore k (fun s => pushEvent 0x47 0 0 (pcOf s) { s with fw := { s.fw with deadlines := s.fw.deadlines + 1 } }) s
    else s) s)

end Sys2Proof.Machine
end

