-- ==== Sys2Proof/Machine/TapeExec.lean ====
section
/-! DEFINITION. The tape's six instructions (R337 to R341, R345) and its play (R342 to R344). -/

namespace Sys2Proof.Machine

/-! ## Meanings of the words -/

/-- A TAPE word: of the main context, in loose code (R71, R355). Without FEAT0.TAPE it does nothing but take
its time (R402). -/
def tapeWord (cyc : Nat) (s : State) (k : Out) : Out :=
  mainOnly s (looseOnly s (if tapeOn s then k else .next (retire 4 cyc s)))

/-- The header TAPE.REC writes (R333, R339), in the given STATE. -/
def newTape (s : State) (state : Nat) : Tape :=
  let c := curCore s
  { Tape.empty with
    codeHash := c.ctx.codeHash, feat0 := s.feat0, feat1 := s.feat1, widen := c.ctx.widen, region := c.ctx.playAt
    foldClass := c.fold, refCur := refCurrent s, spidx := c.ctx.spidx, state := state
    pmask := c.ctx.hv, pbind := c.ctx.bind }

/-- Where execution stands after a TAPE word. -/
def nextWord (s : State) : Word := pcOf s + 4

/-- TAPE.REC (R334, R335, R339). -/
def execTapeRec (s : State) : Out :=
  tapeWord 8 s (
    let c := curCtx s
    .next (retire 4 8 (
      if c.rec_ then spoil 0x20 s
      else if c.playAt = 0 then
        updCore (fun x => { x with tape := newTape s 4, ctx := { x.ctx with reason := 0x26 } }) s
      else
        tapeCheckpoint 4 (nextWord s)
          (updCore (fun x => { x with tape := newTape s 1, ctx := { x.ctx with rec_ := true, wmask := 0 } }) s))))

/-- TAPE.END (R334, R336, R340). -/
def execTapeEnd (s : State) : Out :=
  tapeWord 8 s (
    .next (retire 4 8 (
      if !(curCtx s).rec_ then s
      else
        let t := tapeCheckpoint 5 (nextWord s) s
        updCore (fun x => { x with
          tape := { x.tape with endPc := nextWord s, state := if x.ctx.rec_ then 2 else x.tape.state }
          ctx := { x.ctx with rec_ := false } }) t)))

/-- Registers that a TAPE word reads of the task, which it waits for (R70): the guarded ones of TAPE.PLAY (R341); every
one where a checkpoint is written (R334). -/
def tapeSources (s : State) (i : Instr) : List Nat :=
  let c := curCore s
  if !tapeOn s || inSegment s || c.ctx.inShadow then []
  else if i == .tapeRec then (if c.ctx.rec_ || c.ctx.playAt == 0 then [] else List.range 40)
  else if i == .tapeEnd then (if c.ctx.rec_ then List.range 40 else [])
  else match i with
    | .tapePlay _ =>
      if tapeMine c then ((List.range 8).filter (bitAt c.tape.gmask)).map fun g => (KMap.get 0 c.tape.greg g).toNat else []
    | _ => []

/-- The lowest guard that fails. -/
def failingGuard (t : Tape) (r : Regs) : Option Nat :=
  (List.range 8).find? fun i => bitAt t.gmask i && r.read (KMap.get 0 t.greg i).toNat != KMap.get 0 t.gval i

/-- Why a tape is not played, or 0 (R341). A tape that is still recording is not ready: reason 3 (DEDUCED, log
entry 24). -/
def playReason (s : State) : Nat :=
  let c := curCore s
  let t := c.tape
  if !tapeMine c then 1
  else if t.state = 3 then 2
  else if t.state ≠ 2 then 3
  else if t.region ≠ c.ctx.playAt then 4
  else if t.spidx ≠ c.ctx.spidx then 6
  else if t.feat0 ≠ s.feat0 ∨ t.feat1 ≠ s.feat1 then 7
  else if c.fold ≠ t.foldClass then 8
  else if refCurrent s ≠ t.refCur then 9
  else if c.ctx.widen ≠ t.widen then 10
  else if (failingGuard t c.ctx.main).isSome then 11
  else 0

/-- TAPE.PLAY (R341). The start checkpoint is in force as play begins. -/
def execTapePlay (d : BitVec 5) (s : State) : Out :=
  mainOnly s (looseOnly s (
    if !tapeOn s then .next (retire 4 16 (writeG d 1 s))
    else
      let pc := pcOf s
      let s := updCtx (fun c => { c with playAt := pc }) (spoil 0x20 s)
      let r := playReason s
      let g := if r = 11 then failingGuard (curCore s).tape (curCtx s).main else none
      let s := updCore (fun c => { c with
        play := if r = 0 then ⟨true, 5, 0, none⟩ else c.play
        ctx := { c.ctx with
          reason := BitVec.ofNat 8 r, left := false
          guardIdx := match g with
            | some i => BitVec.ofNat 3 i
            | none => c.ctx.guardIdx } }) s
      .next (retire 4 16 (writeG d (BitVec.ofNat 64 r) s))))

/-- TAPE.PATCH (R337, R338). -/
def execTapePatch (k a : BitVec 5) (s : State) : Out :=
  if 16 ≤ k.toNat then raise 0x00 0 s
  else tapeWord 1 s (
    let v := readG s a
    .next (retire 4 1 (updCtx (fun c => { c with
      h := KMap.set 0 c.h k.toNat v
      hv := c.hv ||| BitVec.ofNat 16 (2 ^ k.toNat)
      bind := KMap.set 0 c.bind k.toNat a }) (spoil 0x20 s))))

/-- TAPE.GUARD (R337, R338). -/
def execTapeGuard (i a : BitVec 5) (s : State) : Out :=
  if 8 ≤ i.toNat then raise 0x00 0 s
  else tapeWord 1 s (
    let v := readG s a
    .next (retire 4 1 (
      if !(curCtx s).rec_ then s
      else updCore (fun c => { c with tape := { c.tape with
        gval := KMap.set 0 c.tape.gval i.toNat v
        greg := KMap.set 0 c.tape.greg i.toNat a
        gmask := c.tape.gmask ||| BitVec.ofNat 8 (2 ^ i.toNat) } }) s)))

/-- TAPE.DROP (R345). -/
def execTapeDrop (s : State) : Out :=
  tapeWord 2 s (
    .next (retire 4 2 (
      if tapeMine (curCore s) then
        updCore (fun c => { c with tape := Tape.empty, ctx := { c.ctx with rec_ := false } }) s
      else s)))

/-! ## Play (R342) -/

/-- Leave the tape, which becomes empty where an error was found in an entry (R344). -/
def leaveFor (code : Nat) (s : State) : State :=
  let s := leaveTape (some (BitVec.ofNat 8 code)) s
  if code = 0x30 then updCore (fun c => { c with tape := Tape.empty }) s else s

/-- A checkpoint is passed: the tape is left there where a WIDEN bit or a pre-emption asks for it. -/
def playCheckpoint (s : State) : State :=
  let s := updCore (fun c => { c with play := { c.play with ckpt := c.play.next, next := c.play.next + 5 } }) s
  let c := curCore s
  match c.play.leaveAt with
  | some r => leaveTape (some r) s
  | none => if c.preempt then leaveTape none s else s

/-- The final checkpoint: it is restored, PLAYS counts, and execution continues at ENDPC. -/
def playFinal (s : State) : State :=
  let c := curCore s
  match checkpointAt c.tape c.play.next with
  | none => leaveFor 0x30 s
  | some (image, _) =>
    updCore (fun c =>
      let c := restoreCheckpoint image c
      let x := c.ctx
      { c with
        play := Play.off, ready := max c.ready (c.ctime.toNat + 1)
        tape := { c.tape with plays := min (c.tape.plays + 1) (2 ^ 24 - 1) }
        ctx := { x with main := { x.main with pc := c.tape.endPc } } }) s

/-- A segment-open entry: ALIGN with the header copy, which latches REFMODE first (R32, R92). A cause of its own comes
before another latch than the entry's (DEDUCED, log entry 58). -/
def playOpen (e : TapeEntry) (s : State) : State :=
  let latched := refCurrent s
  let s := updCtx (fun c => { c with latched := latched }) s
  let c := curCore s
  match alignCause c latched e.payload with
  | some code => leaveFor code s
  | none =>
    if latched.toNat ≠ bitsAt e.annex 0 8 then leaveFor 9 s
    else
      let resume := match checkpointAt c.tape c.play.ckpt with
        | some p => p.2
        | none => 0
      let s := openSegment e.payload resume (pcOf s) 0 0 false latched s
      setReady 1 (updCore (fun c => { c with play := { c.play with next := c.play.next + 1 } }) s)

/-- Patch slot of record slot `j`, where the map marks it patched (R330). -/
def patchSlot (annex : Word) (j : Nat) : Option Nat :=
  if bitAt annex (5 * j + 4) then some (bitsAt annex (5 * j) 4) else none

/-- Whether every byte of a tile lies inside the 57-bit space (R113). -/
def tileFits (x : Line) (t : Int) : Bool :=
  (List.range (stRows x)).all fun r =>
    let a := rowStart x t r
    decide (0 ≤ a) && decide (a + (stRowBytes x : Nat) ≤ (2 ^ 57 : Nat))

/-- Whether the offsets of an operand that names a space-2 stream keep its tiles inside the 57-bit space at
both corners of the nest (R113, cause 0x31). -/
def cornersFit (c : Ctx) (r : Line) (name : Nat) (off : Int) (st : Nat → Int) : Bool :=
  let x := streamAt c name
  if isStream name && stSpace x == 2 then
    [cornerLo r off st, cornerHi r off st].all (tileFits x)
  else true

/-- A patched offset that leaves the 57-bit space. -/
def patchLeavesSpace (c : Ctx) (a : Applied) (patched : Nat → Bool) : Bool :=
  let (d, x, b) := usedNames a.raw
  let has (code : Nat) : Bool := (List.range 4).any fun j => patched j && slotCode a.raw j == code
  (d && has 6 && !cornersFit c a.raw (nameD a.raw) a.offD (strideD a.raw))
    || (x && has 7 && !cornersFit c a.raw (nameA a.raw) a.offA (strideA a.raw))
    || (b && has 8 && !cornersFit c a.raw (nameB a.raw) a.offB (strideB a.raw))

/-- A record entry, with the record-offsets entry after it. -/
def playRecord (e : TapeEntry) (s : State) : State :=
  let c := curCore s
  let off := match c.tape.entries[c.play.next + 1]? with
    | some o => if entryKind o = 6 then some o else none
    | none => none
  let s := updCore (fun c => { c with
    ready := max c.ready (c.ctime.toNat + 1)
    play := { c.play with next := c.play.next + 1 + if off.isSome then 1 else 0 } }) s
  if (match off with
      | some o => o.bad
      | none => false) then pushEvent 0x30 0 0 (pcOf s) s
  else
    let total (i : Nat) : Int := match off with
      | some o => sbitsAt o.payload (64 * i) 64
      | none => 0
    let slot := patchSlot e.annex
    if (List.range 4).any fun j => match slot j with
        | some k => !bitAt c.ctx.hv k
        | none => false then pushEvent 0x32 0 0 (pcOf s) s
    else
      let value (j : Nat) : Word := match slot j with
        | some k => KMap.get 0 c.ctx.h k
        | none => 0
      let a := applySlots (fun j => (slot j).isSome) value ⟨e.payload, total 0, total 1, total 2⟩
      if patchLeavesSpace c.ctx a (fun j => (slot j).isSome) then pushEvent 0x31 0 0 (pcOf s) s
      else match forwardCause s a with
        | some code => pushEvent code (if code = 0x44 then 0 else colOf a.raw) 0 (pcOf s) s
        | none => enterQueue a (bitAt e.annex 58) (pcOf s) s

/-- A segment-close entry: SEGE at release plus the stored count, with the stored signature. -/
def playClose (e : TapeEntry) (s : State) : State :=
  let chain := (curCtx s).seg.chains.any fun x => x.2.isOpen
  let s := updCore (fun c => { c with
    ready := max c.ready (c.ctime.toNat + 1)
    play := { c.play with next := c.play.next + 1 }
    ctx := { c.ctx with seg := { closeAt (bitsAt e.payload 32 32) c.ctx.seg with
      crc := crcFinal (e.payload.extractLsb' 0 32) } } }) s
  if chain then pushEvent 0x2D 0 0 (pcOf s) s else s

/-- The first core time at which the next entry of a played tape may be fed; none while it must wait. -/
def feedTime (c : Core) : Option Nat :=
  match c.tape.entries[c.play.next]? with
  | none => some c.ready
  | some e =>
    let kind := entryKind e
    if c.ctx.seg.phase = .loose then some c.ready
    else if c.ctx.seg.phase = .pre then
      (if e.bad ∨ (kind = 1 ∧ bitAt e.annex 59) then some c.ready else none)
    else if c.ctx.seg.phase = .running then
      (if e.bad then some c.ctime.toNat
        else if kind = 1 then some (c.ctx.seg.start + bitsAt e.annex 37 21)
        else some (c.ctx.seg.start + bitsAt e.payload 32 32))
    else none

/-- Whether the core in focus feeds an entry in this cycle. While the complex is frozen, none between two segments:
the context waits there, at a pre-emption point (R388, R391). -/
def feedDue (s : State) : Bool :=
  let c := curCore s
  c.resident && c.play.on && !c.ctx.inShadow && c.hold == .none && !(c.ctx.seg.phase == .loose && !complexRuns s)
    && (match feedTime c with
      | some t => decide (t ≤ c.ctime.toNat)
      | none => false)

/-- PLAYED_FORWARD (R342): the device feeds the next entry. -/
def execPlayedForward (s : State) : Out :=
  let c := curCore s
  if !feedDue s then .next s
  else match c.tape.entries[c.play.next]? with
    | none => .next (leaveFor 0x30 s)
    | some e =>
      let kind := entryKind e
      .next (
        if c.ctx.seg.phase = .loose then
          if kind = 4 then playCheckpoint s
          else if kind = 5 then playFinal s
          else if e.bad ∨ kind ≠ 2 then leaveFor 0x30 s
          else playOpen e s
        else if e.bad then
          pushEvent 0x30 0 0 (pcOf s) (updCore (fun c => { c with play := { c.play with next := c.play.next + 1 } }) s)
        else if kind = 1 then playRecord e s
        else if kind = 3 then playClose e s
        else pushEvent 0x30 0 0 (pcOf s) (updCore (fun c => { c with play := { c.play with next := c.play.next + 1 } }) s))

end Sys2Proof.Machine
end

