-- ==== Sys2Proof/Machine/Launch.lean ====
section
/-! DEFINITION. The queue parser: rings, launch packets and code objects (R372 to R382), and readiness. -/

namespace Sys2Proof.Machine

/-! ## The code object (R372, R373) -/

/-- Bytes that the firmware reads at a virtual address of an address space; none where no page holds them. -/
def firmwareBytes (s : State) (die asid va n : Nat) : Option (List Byte) :=
  let ps := piecesOf va n
  if ps.all fun p => (firmwarePhys s die asid p.1).isSome then
    some (ps.flatMap fun p => match firmwarePhys s die asid p.1 with
      | some q => physBytes s q p.2
      | none => [])
  else none

/-- A field of a header's bytes. -/
def fieldOf (b : List Byte) (off n : Nat) : Nat := ofLeBytes ((b.drop off).take n)

/-- Loop-table entries of a code-object header. -/
def loopTabOf (b : List Byte) : List (BitVec 32) := (List.range 8).map fun i => BitVec.ofNat 32 (fieldOf b (0x30 + 4 * i) 4)

/-- The header of R372 is right in every field that makes a launch fail with reason 2. (DEDUCED, log entry 36.) -/
def codeHeaderOk (va : Nat) (b : List Byte) : Bool :=
  let size := fieldOf b 0x08 4
  let entry := fieldOf b 0x18 8
  va % 4096 == 0 && fieldOf b 0 4 == 0x4B583843 && fieldOf b 4 2 == 1
    && size % 64 == 0 && decide (256 ≤ size) && decide (size ≤ 8388608)
    && entry % 4 == 0 && decide (0x100 ≤ entry) && decide (entry + 4 ≤ size)
    && fieldOf b 0x12 6 == 0 && fieldOf b 0x50 176 == 0

/-- A loop table meets R28. -/
def loopTabOk (tab : List (BitVec 32)) : Bool :=
  let present := tab.map fun e => levelKind e != 0
  !((present.dropWhile id).any id) && decide (extentOf 2 tab ≤ 16) && decide (extentOf 3 tab ≤ 8)

/-- The digest word of a code object, with its WIDEN field read as zero (R333, R373). -/
def codeHashOf (code : List Byte) : Word :=
  BitVec.ofNat 64 (ofLeBytes ((sha3 (code.take 0x28 ++ List.replicate 8 0 ++ code.drop 0x30)).take 8))

/-! ## LOCK pages (R236, R245) -/

/-- Pages of an allocation. -/
def allocPages (a : Alloc) : List Nat :=
  (List.range (a.length / allocPageSize a.flags)).map fun i => a.va + i * allocPageSize a.flags

/-- LOCK pages of an address space. -/
def lockPages (s : State) (asid : Nat) : List Nat :=
  ((getSpace s asid).allocs.filter fun a => bitAt a.flags 8).flatMap allocPages

/-- Entries locked on a die. -/
def lockedOn (s : State) (d : Nat) : List TlbEntry := (getDie s d).tlb.filter fun e => decide (0 < e.locked)

/-- Whether the LOCK pages of an address space fit on a die beside those already locked there. -/
def locksFit (s : State) (asid d : Nat) : Bool :=
  let held := lockedOn s d
  let more := (lockPages s asid).filter fun p => !(held.any fun e => e.asid == asid && e.page == p)
  decide (held.length + more.length ≤ 4096)

/-- Lock one page's translation on a die. (DEDUCED, log entry 50.) The pages that a task has locked are kept with it
(R245). -/
def lockPage (asid d va : Nat) (s : State) : State :=
  match lookupLeaf s asid va with
  | .fail _ _ => s
  | .leaf l =>
    updDie d (fun x =>
      if x.tlb.any fun e => e.asid == asid && e.page == l.page then
        { x with tlb := x.tlb.map fun e => if e.asid = asid ∧ e.page = l.page then { e with locked := e.locked + 1 } else e }
      else { x with tlb := insertTlb x.tlb ⟨asid, l.page, l.size, l.pte, 1⟩ }) s

/-- The translations that a task holds locked from its start on (R245). -/
def locksOf (s : State) (tk : Task) : List (Nat × Nat) :=
  tk.runDies.flatMap fun d => (lockPages s tk.asid).map fun p => (d, p)

/-- Lock a task's pages on every die that runs a context of it. -/
def lockTask (tk : Task) (s : State) : State :=
  tk.runDies.foldl (fun s d => (lockPages s tk.asid).foldl (fun s p => lockPage tk.asid d p s) s) s

/-! ## Packets (R379, R380) -/

/-- Bits of a packet's header. -/
def pktType (p : Line) : Nat := bitsAt p 32 4
def pktPrio (p : Line) : BitVec 2 := p.extractLsb' 36 2
def pktNwait (p : Line) : Nat := bitsAt p 38 3
def pktAff (p : Line) : Nat := bitsAt p 41 2
def pktPdie (p : Line) : Nat := bitsAt p 43 4
def pktIncidx (p : Line) : Nat := bitsAt p 48 16
def pktCode (p : Line) : Nat := bitsAt p 64 64
def pktArgs (p : Line) : Word := p.extractLsb' 128 64
def pktLaunchId (p : Line) : Nat := bitsAt p 192 48
def pktNotidx (p : Line) : Nat := bitsAt p 240 16
/-- Used WAIT entries: index and threshold. -/
def pktWaits (p : Line) : List (Nat × Nat) :=
  (List.range (pktNwait p)).map fun j => (bitsAt p (256 + 64 * j + 48) 16, bitsAt p (256 + 64 * j) 48)

/-- Reason 1. -/
def packetMalformed (p : Line) : Bool :=
  !(pktType p == 1 || pktType p == 2) || pktAff p == 3 || decide (4 < pktNwait p) || decide (8 < pktPdie p) || bitAt p 47

/-- Whether a ring's completion table translates: each page that one of its 65,535 words lies in (R374, R380). -/
def tableOk (s : State) (r : Ring) : Bool :=
  ((List.range 130).map fun i => max r.ctab (r.ctab / 4096 * 4096 + 4096 * i)).all fun va =>
    decide (r.ctab + 8 * 65535 ≤ va) || (firmwarePhys s r.owner r.asid va).isSome

/-- Cores of a die in service. -/
def coresInService (s : State) (d : Nat) : Nat :=
  (((List.range 16).map fun i => 16 * d + i).filter fun k => (getCore s k).inService).length

/-- The task that a well-formed packet launches, before it is numbered. -/
def taskOf (s : State) (ring : Nat) (p : Line) (h : List Byte) : Task :=
  { Task.none with
    ring := ring, desc := getRing s ring, asid := (getRing s ring).asid, launchId := pktLaunchId p, codeVa := pktCode p, args := pktArgs p
    incidx := pktIncidx p, notidx := pktNotidx p, prio := pktPrio p, aff := pktAff p, pdie := pktPdie p
    waits := pktWaits p, flags := fieldOf h 6 2, codeSize := fieldOf h 8 4, barriers := fieldOf h 0x0C 2
    dshare := fieldOf h 0x0E 1, mshare := fieldOf h 0x0F 1, oapt := fieldOf h 0x10 1
    notifyMask := BitVec.ofNat 8 (fieldOf h 0x11 1), entry := fieldOf h 0x18 8, handler := fieldOf h 0x20 8
    loopTab := loopTabOf h, life := .queued, since := tempoNow s, eff := pktPrio p
    die := if pktPdie p = 0 then none else some (pktPdie p - 1), test := true }

/-- Cores that a task's dies offer. -/
def coresOffered (s : State) (t : Task) : Nat :=
  if t.hasDieLevel then ((List.range t.dies).map (coresInService s)).sum
  else match t.die with
    | some d => coresInService s d
    | none => ((List.range nDies).map (coresInService s)).foldl max 0

/-- The reason a launch packet is rejected with, the lowest of those that hold; or the task (R380). (DEDUCED, log entry 52.) -/
def parseLaunch (s : State) (ring : Nat) (p : Line) : Except Nat Task :=
  let r := getRing s ring
  if packetMalformed p then .error 1
  else match firmwareBytes s r.owner r.asid (pktCode p) 256 with
    | none => .error 2
    | some h =>
      if !codeHeaderOk (pktCode p) h then .error 2
      else if (firmwareBytes s r.owner r.asid (pktCode p) (fieldOf h 8 4)).isNone then .error 2
      else
        let t := taskOf s ring p h
        if !loopTabOk t.loopTab || (t.hasDieLevel && pktPdie p != 0) then .error 3
        else if 16 < t.dshare ∨ 8 < t.mshare ∨ 2 < t.oapt ∨ 1024 < t.barriers ∨ (0 < t.oapt ∧ !bitAt s.feat0 2) then .error 4
        else if 4096 < (lockPages s r.asid).length then .error 5
        else if t.waits.any (fun w => w.1 == 0xFFFF) || !tableOk s r then .error 6
        else if t.flags / 4 % 2 = 1 ∧ coresOffered s t < t.contexts then .error 7
        else .ok t

/-- Forget a packet that the parser has treated. -/
def dropPacket (ring : Nat) (p : Line) (s : State) : State := { s with packets := s.packets.erase (ring, p) }

/-- LAUNCH (R379, R380). -/
def execLaunch (ring : Nat) (packet : Line) (s : State) : Out :=
  let s := dropPacket ring packet s
  .next (match parseLaunch s ring packet with
    | .error reason => report 2 ring reason (pktLaunchId packet) 0 0 0 0 s
    | .ok t => setTask { s with fw := { s.fw with nextTask := s.fw.nextTask + 1 } } s.fw.nextTask t)

/-- Numbers of the tasks that satisfy a test, in launch order. -/
def tasksWith (p : Task → Bool) (s : State) : List Nat := (s.tasks.filter fun e => p e.2).map Prod.fst

/-- Every context of a task has ended: its launch is complete (R386). -/
def allEnded (tk : Task) : Bool := (List.range tk.contexts).all fun i => KMap.get .unplaced tk.places i == .ended

/-- Whether an abort request ends a launch: it has not completed (R382). -/
def abortable (t : Task) : Bool := t.life == .queued || (t.life == .ready && !allEnded t)

/-- ABORT_REQUEST (R382). A launch that was never placed has no identity to report. -/
def execAbortRequest (ring : Nat) (packet : Line) (s : State) : Out :=
  let s := dropPacket ring packet s
  .next (
    if packetMalformed packet then report 2 ring 1 (pktLaunchId packet) 0 0 0 0 s
    else
      let ts := tasksWith (fun t => t.ring == ring && t.desc.live && t.launchId == pktLaunchId packet
        && abortable t) s
      let s := ts.foldl (fun s t =>
        if (getTask s t).places.isEmpty then
          report 1 ring 0x100 (pktLaunchId packet) 0 0 0 0 (updTask t (fun x => { x with life := .aborted }) s)
        else taskAbort t 0x100 0 0 0 s) s
      bumpWord (getRing s ring) (pktIncidx packet) s)

/-! ## Scanning a ring (R376) -/

/-- Lap of entry k of a ring of 2^n entries. -/
def lapOf (k n : Nat) : Nat := (k / 2 ^ n + 1) % 2 ^ 32

/-- Consume the ready entries from index k on: each is copied, and RIDX set behind it. -/
def scanFrom (ring : Nat) : Nat → State → State
  | 0, s => s
  | fuel + 1, s =>
    let r := getRing s ring
    match wordAt s r.owner r.asid (r.ctl + 8) with
    | none => s
    | some k =>
      let at_ := r.base + 64 * (k.toNat % 2 ^ r.log2n)
      match firmwareBytes s r.owner r.asid at_ 64 with
      | none => s
      | some b =>
        let seq := fieldOf b 0 4
        let lap := lapOf k.toNat r.log2n
        if seq = lap then
          scanFrom ring fuel (putWord r.owner r.asid (r.ctl + 8) (k + 1)
            { s with packets := s.packets ++ [(ring, BitVec.ofNat 512 (ofLeBytes b))] })
        else if seq = (lap + 2 ^ 32 - 1) % 2 ^ 32 then s
        else report 3 ring 0 0 0 0 0 0 (updRing ring (fun r => { r with overrun := true }) s)

/-- Whether the parser can scan a ring: pages hold its RIDX and the entry that it names. A wake of a ring whose pages
are gone stays until they are there (R378). -/
def ringReadable (s : State) (r : Ring) : Bool :=
  match wordAt s r.owner r.asid (r.ctl + 8) with
  | none => false
  | some k => (firmwareBytes s r.owner r.asid (r.base + 64 * (k.toNat % 2 ^ r.log2n)) 64).isSome

/-- RING_SCAN (R376, R378, R381): the wake bit clears, the ready entries are consumed, and the waiting
launches of the address space are tested. A scan that stops at a page that is gone leaves the bit set. -/
def execRingScan (ring : Nat) (s : State) : Out :=
  let r := getRing s ring
  let s := updRing ring (fun r => { r with woken := false }) s
  .next (if !r.live || r.overrun then s
    else
      let s := scanFrom ring (2 ^ r.log2n) s
      let s := if ringReadable s r then s else updRing ring (fun r => { r with woken := true }) s
      testLaunches (fun t => t.asid == r.asid) s)

/-- HOST_WAKE (R377, R393): a wake word stored through BAR2. -/
def execHostWake (w : Word) (s : State) : Out := .next (wake w s)

end Sys2Proof.Machine
end

