-- ==== Sys2Proof/Machine/Sched.lean ====
section
/-! DEFINITION. The scheduler: readiness, placement, END and completion (R381, R383, R386), pre-emption and
resumption (R224, R367 to R371). -/

namespace Sys2Proof.Machine

/-! ## Grants (R239, R245, R293, R383) -/

/-- Cores of a die, in ascending order. -/
def coresOf (d : Nat) : List Nat := (List.range 16).map fun i => 16 * d + i

/-- A core that can take a context: none is resident, it is in service, its slices are cache (R223), its last
save has ended, and no throttling waits for the boundary (R411). -/
def coreFree (s : State) (k : Nat) : Bool :=
  let c := getCore s k
  !c.resident && c.inService && c.ctx.w == 16 && decide (c.ready ≤ c.ctime.toNat) && c.hotPlies == 0

/-- Contexts resident on some cores. -/
def residentOn (s : State) (ks : List Nat) : List Ctx :=
  (ks.filter fun k => (getCore s k).resident).map fun k => (getCore s k).ctx

/-- Whether a request of Q slots, M slots and apertures fits on a die. -/
def grantsFit (s : State) (d q m apt : Nat) : Bool :=
  let x := getDie s d
  let free := [x.ap0, x.ap1].filter fun a => a.owner.isNone
  decide (((residentOn s (coresOf d)).map Ctx.q).sum + q ≤ 28)
    && decide (((residentOn s (List.range nCores)).map Ctx.m).sum + m ≤ 12)
    && decide (apt ≤ free.length)

/-- Free cores of a die. -/
def freeCores (s : State) (d : Nat) : List Nat := (coresOf d).filter (coreFree s)

/-- Die of a launch with no spatial-die level whose packet leaves it open: of those on which its LOCK pages
fit, the one with most free cores, the lowest among equals (R29). -/
def chooseDie (s : State) (asid : Nat) : Option Nat :=
  ((List.range nDies).filter (locksFit s asid)).foldl (fun b d => match b with
    | none => some d
    | some e => if (freeCores s e).length < (freeCores s d).length then some d else b) none

/-- The die on which a context of a task is to run. -/
def dieFor (s : State) (t : Nat) (i : Nat) : Option Nat :=
  let tk := getTask s t
  match tk.dieOfCtx i with
  | some d => some d
  | none => chooseDie s tk.asid

/-- The core that holds the tape of a context of a task (R333, R347). -/
def tapeCore (s : State) (tk : Task) (i d : Nat) : Option Nat :=
  (coresOf d).find? fun k =>
    let x := (getCore s k).tape
    decide (x.state ≠ 0) && x.codeHash == tk.codeHash && x.spidx == i

/-- The core for a context that starts: its tape's core where the launch prefers it, and waits for it; else the
lowest-numbered free core of its die (R29, R379). -/
def pickCore (s : State) (tk : Task) (i d : Nat) : Option Nat :=
  let free := freeCores s d
  if tk.aff = 0 then free.head?
  else match tapeCore s tk i d with
    | none => free.head?
    | some k =>
      if free.contains k then some k
      else if tk.aff = 2 ∧ tempoNow s < tk.affUntil then none
      else free.head?

/-- Whether the LOCK pages of a task fit on the dies it runs on, or are locked there already. -/
def taskLocksFit (s : State) (tk : Task) (d : Nat) : Bool :=
  !tk.places.isEmpty || ((if tk.hasDieLevel then tk.runDies else [d]).all (locksFit s tk.asid))

/-- Context `i` of task `t` can start on core `k` (R383). -/
def canStart (s : State) (t i k : Nat) : Bool :=
  let tk := getTask s t
  coreFree s k && dieFor s t i == some (dieOf k) && taskLocksFit s tk (dieOf k)
    && grantsFit s (dieOf k) tk.dshare tk.mshare tk.oapt

/-! ## Starting a context (R68, R383) -/

/-- Grant `n` apertures of a die, lowest first, to a context. -/
def grantApertures (d n t i : Nat) (s : State) : State :=
  updDie d (fun x =>
    let take0 := decide (0 < n) && x.ap0.owner.isNone
    let n1 := if take0 then n - 1 else n
    { x with
      ap0 := if take0 then { x.ap0 with owner := some (t, i) } else x.ap0
      ap1 := if decide (0 < n1) && x.ap1.owner.isNone then { x.ap1 with owner := some (t, i) } else x.ap1 }) s

/-- Coordinates of a linear index over the levels of a kind: the highest-numbered level varies fastest (R29). -/
def coordsOf (kind : Nat) (tab : List (BitVec 32)) (idx : Nat) : KMap (BitVec 16) :=
  (tab.zipIdx.foldr (fun e (a : KMap (BitVec 16) × Nat) =>
    if levelKind e.1 = kind then
      (KMap.set 0 a.1 e.2 (BitVec.ofNat 16 (a.2 % levelExtent e.1)), a.2 / levelExtent e.1)
    else a) ([], idx)).1

/-- LOOPC0 to LOOPC7 of a context (R30). -/
def loopcOf (tk : Task) (i : Nat) : KMap (BitVec 16) :=
  let a := coordsOf 2 tk.loopTab (i % tk.group)
  let b := coordsOf 3 tk.loopTab (i / tk.group)
  b.foldl (fun m e => KMap.set 0 m e.1 e.2) a

/-- Barrier words held for a context that has not been placed (R289). -/
def heldBars (tk : Task) (i : Nat) : KMap Word :=
  (tk.bars.filter fun e => decide (e.1 / 1024 = i)).map fun e => (e.1 % 1024, e.2)

/-- The persistent WIDEN word of a task: the code object's, as it stands now (R122, R372). -/
def widenOf (s : State) (tk : Task) : Word := (wordAt s tk.desc.owner tk.asid (tk.codeVa + 0x28)).getD 0

/-- A context at launch (R68, R122, R217, R372, R384). -/
def newContext (s : State) (t : Nat) (tk : Task) (i : Nat) : Ctx :=
  { Ctx.launch with
    main := { Ctx.launch.main with
      g := KMap.set 0 [] 1 tk.args, pc := BitVec.ofNat 64 (tk.codeVa + tk.entry) }
    widen := widenOf s tk, bars := heldBars tk i, task := t, spidx := i, loopc := loopcOf tk i
    member := BitVec.ofNat 4 (i % tk.group), gm1 := BitVec.ofNat 4 (tk.group - 1)
    prio := tk.prio, prioEff := tk.eff, asid := tk.asid, codeBase := tk.codeVa, codeSize := tk.codeSize
    handler := tk.handler, atrap := bitAt (BitVec.ofNat 16 tk.flags) 0, gangs := bitAt (BitVec.ofNat 16 tk.flags) 2
    barriers := tk.barriers, q := tk.dshare, m := tk.mshare, notifyMask := tk.notifyMask, codeHash := tk.codeHash }

/-- Seat a context on a core, whose stores hold nothing of the one before. -/
def seat (k : Nat) (c : Ctx) (tk : Task) (ready : Nat) (s : State) : State :=
  updCoreAt k (fun x =>
    { clearCore x with
      resident := true, ctx := c, istore := tk.code, sp := [], tags := [], spBad := [], vBad := [], accBad := []
      streamBad := [], watchdog := 0, ready := ready }) s

/-- Start context `i` of task `t` on core `k`: its grants, its locked translations with the launch's first
context, and an acquire for what the launch waited for (R245, R381). -/
def startContext (t i k : Nat) (s : State) : State :=
  let d := dieOf k
  let tk := getTask s t
  let tk := if tk.hasDieLevel then tk else { tk with die := some d }
  let tk := if tk.places.isEmpty then { tk with locks := locksOf s tk } else tk
  let s := if tk.places.isEmpty then lockTask tk s else s
  let s := rdcDropAll d (grantApertures d tk.oapt t i s)
  let s := seat k (newContext s t tk i) tk ((getCore s k).ctime.toNat + 1) s
  setTask s t { tk with
    places := KMap.set .unplaced tk.places i (.resident k)
    bars := tk.bars.filter fun e => decide (e.1 / 1024 ≠ i) }

/-! ## Saving and restoring (R367 to R371) -/

/-- Bytes of a context image (R368). -/
def imageBytes (sp : Bool) : Nat := if sp then 2461696 else 331776
/-- Cycles to save or restore an image with a share of LS space of `w` cache ways (R224, R368). -/
def imageCycles (sp : Bool) (w : Nat) : Nat :=
  200 + ceilDiv (imageBytes sp) 256 + if w = 16 then 0 else ceilDiv (32 * (16 - w) * 4096) 256

/-- The LS bytes of the slices above a core, from the first (R224). -/
def lsShare (s : State) (k : Nat) : KMap Byte :=
  let lo := k % 16 * 32 * 65536
  ((getDie s (dieOf k)).ls.filter fun e => decide (lo ≤ e.1) && decide (e.1 < lo + 32 * 65536)).map fun e => (e.1 - lo, e.2)

/-- Put a share of LS space above a core, whose slices keep `w` cache ways: the lines in the others go first (R217,
R224). -/
def putLsShare (k w : Nat) (m : KMap Byte) (bad : List Nat) (s : State) : State :=
  let lo := k % 16 * 32 * 65536
  updDie (dieOf k) (fun d => { d with
    ls := m.foldl (fun a e => KMap.set 0 a (lo + e.1) e.2) d.ls
    lsBad := bad.foldl (fun l q => setBadMark true (lo / 64 + q) l) d.lsBad }) (emptyWays k w s)

/-- The poisoned sectors of that share, from its first. -/
def lsMarks (s : State) (k : Nat) : List Nat :=
  let lo := k % 16 * 32 * 1024
  ((getDie s (dieOf k)).lsBad.filter fun q => decide (lo ≤ q) && decide (q < lo + 32 * 1024)).map fun q => q - lo

/-- Apertures granted to a context on a die, in logical order, with their numbers in the package. -/
def heldApertures (s : State) (d t i : Nat) : List (Nat × Aperture) :=
  let x := getDie s d
  [(2 * d, x.ap0), (2 * d + 1, x.ap1)].filter fun a => a.2.owner == some (t, i)

/-- Restore what aperture `n` held when it was saved into one now granted: the calibration in force with its source,
banks that have settled, and the restore counts in EPOCH (R295, R310). -/
def restoreAperture (n : Nat) (old a : Aperture) : Aperture :=
  { a with
    wins := old.wins, amp := old.amp, phase := old.phase, cal := old.cal, tlatch := old.tlatch
    lent := some (old.lent.getD (n, old.own, old.tref))
    epoch := a.epoch + 1
    shotUntil := 0, maskUntil := 0, settle := [], used := [] }

/-- Restore a context's apertures in logical order. -/
def restoreApertures (d t i : Nat) (l : List (Nat × Aperture)) (s : State) : State :=
  updDie d (fun x =>
    let mine (a : Aperture) : Bool := a.owner == some (t, i)
    match l with
    | [] => x
    | a :: r =>
      if mine x.ap0 then
        match r with
        | [] => { x with ap0 := restoreAperture a.1 a.2 x.ap0 }
        | b :: _ => { x with ap0 := restoreAperture a.1 a.2 x.ap0, ap1 := restoreAperture b.1 b.2 x.ap1 }
      else { x with ap1 := restoreAperture a.1 a.2 x.ap1 }) s

/-- Whether a context is saved and resumed together with others: a gang's task whole, a scratch group with
scratch ways whole (R224, R367). The spatial indices of the set. -/
def setOfCtx (tk : Task) (i w : Nat) : List Nat :=
  if tk.ganged then List.range tk.contexts
  else if w < 16 then (List.range tk.group).map fun m => i / tk.group * tk.group + m
  else [i]

/-- The cores on which the set of the context in focus stands. -/
def wholeSet (s : State) : List Nat :=
  let c := curCtx s
  let is := setOfCtx (getTask s c.task) c.spidx c.w.toNat
  (List.range nCores).filter fun k =>
    let x := getCore s k
    x.resident && x.ctx.task == c.task && is.contains x.ctx.spidx

/-- Whether the context of the core in focus can be saved: it stands at a pre-emption point, and what it has issued
waits for no other core (R275). -/
def saveReady (s : State) : Bool := atPoint s && !waitsAbroad s

/-- Save the context of the core in focus, whose accesses have performed: a recording ends with reason 0x25, its
apertures and slices are released, and it rejoins the waiting launches with `w` restarted (R224, R295, R335, R367,
R383). Poison marks stay with what is saved (DEDUCED, log entry 82), and so do its fences and the stores it has observed,
since the context is one agent for life (R275). -/
def saveContext (s : State) : State :=
  let k := s.cur
  let d := dieOf k
  let s := spoil 0x25 s
  let c := curCore s
  let x := c.ctx
  let t := x.task
  let i := x.spidx
  let tk := getTask s t
  let sp := bitAt (BitVec.ofNat 16 tk.flags) 1
  let saved : Saved :=
    { ctx := { x with
        wait := match x.wait with
          | .ways w f => .ways w f
          | _ => .none }
      die := d, fold := c.fold, feat0 := s.feat0, feat1 := s.feat1, sp := if sp then some (c.sp, c.tags) else none
      aps := heldApertures s d t i, ls := if x.w = 16 then [] else lsShare s k
      bad :=
        { sp := if sp then c.spBad else [], vec := c.vBad, acc := c.accBad, stream := c.streamBad
          ls := if x.w = 16 then [] else lsMarks s k }
      fences := (c.fences.filter fun f => !f.shadow).map fun f => { f with id := 0 }
      observed := c.observed.filter fun o => !o.shadow
      ready := tempoNow s + imageCycles sp x.w.toNat }
  let s := freeApertures t (some i) s
  let s := returnSlices k (setCore s k { clearCore c with ready := c.ctime.toNat + imageCycles sp x.w.toNat })
  updTask t (fun y => { y with
    places := KMap.set .unplaced y.places i .saved
    saved := y.saved.filter (fun e => e.1 != i) ++ [(i, saved)]
    since := tempoNow s, eff := y.prio }) s

/-- PREEMPTION (R42, R224, R366, R367): a pending request is honoured at a point. A set that is saved whole has
the request delivered to every member, and is saved once all of them stand at points. Every access it has issued performs
first (R275), and an event that one of them raises comes before the request (R366). -/
def execPreemption (s : State) : Out :=
  if !(curCore s).preempt || !atPoint s then .next s
  else
    let ks := wholeSet s
    let s := ks.foldl (fun s k => updCoreAt k (fun c => { c with preempt := true }) s) s
    .next (
      if !(ks.all fun k => saveReady (focus k s)) then s
      else
        let s := ks.foldl (fun s k => onCore k (performAll fun _ => true) s) s
        if ks.any fun k => !(getCore s k).events.isEmpty then s else ks.foldl (fun s k => onCore k saveContext s) s)

/-- An accumulator that resumes under another fold class than its own (R145). -/
def resumedAcc (fold : BitVec 8) (a : AccState) : AccState :=
  if a.passes ≠ 0 ∧ a.cls ≠ fold then { a with mixed := true } else a

/-- Resume a saved context on core `k` at core time `ready` (R145, R227, R295, R367, R371). A wait in WAYS goes on; the
change comes no earlier than the cycle in which the contexts run again (R221). -/
def resumeContext (t i k ready : Nat) (sv : Saved) (s : State) : State :=
  let d := dieOf k
  let tk := getTask s t
  let fold := (getCore s k).fold
  let s := grantApertures d tk.oapt t i s
  let s := restoreApertures d t i sv.aps s
  let ctx := { sv.ctx with
    wait := match sv.ctx.wait with
      | .ways w _ => .ways w (tempoNow s + (ready - (getCore s k).ctime.toNat))
      | w => w
    prioEff := tk.eff
    accSt := sv.ctx.accSt.map fun e => (e.1, resumedAcc fold e.2) }
  let s := seat k ctx tk ready s
  let s := match sv.sp with
    | some (sp, tags) => updCoreAt k (fun c => { c with sp := sp, tags := tags }) s
    | none => s
  let s := updCoreAt k (fun c => { c with
    spBad := sv.bad.sp, vBad := sv.bad.vec, accBad := sv.bad.acc, streamBad := sv.bad.stream
    fences := sv.fences, observed := sv.observed }) s
  let s := onCore k (acquireBy false 2 0xFFFF) s
  let s := if sv.ctx.w = 16 then s else putLsShare k sv.ctx.w.toNat sv.ls sv.bad.ls s
  updTask t (fun y => { y with
    places := KMap.set .unplaced y.places i (.resident k)
    saved := y.saved.filter fun e => e.1 != i }) s

/-- A saved context can resume on core `k`: once it is saved, on its die, under the feature bits it was saved with,
beside the grants it had (R20, R239, R293, R368, R371). -/
def canResume (s : State) (t k : Nat) (sv : Saved) : Bool :=
  let tk := getTask s t
  decide (sv.ready ≤ tempoNow s) && coreFree s k && sv.die == dieOf k && sv.feat0 == s.feat0 && sv.feat1 == s.feat1
    && grantsFit s (dieOf k) tk.dshare tk.mshare tk.oapt

/-- Resume the contexts of a list, one on each core that takes it: the first named core for the first, the
lowest free one of its die for the others; none where one of them cannot be placed. -/
def resumeAll (t : Nat) (first : Option Nat) : List (Nat × Saved) → State → Option State
  | [], s => some s
  | (i, sv) :: r, s =>
    match (match first with
        | some k => if canResume s t k sv then some k else none
        | none => (coresOf sv.die).find? fun k => canResume s t k sv) with
    | none => none
    | some k =>
      let ready := (getCore s k).ctime.toNat + imageCycles sv.sp.isSome sv.ctx.w.toNat
      resumeAll t none r (resumeContext t i k ready sv s)

/-- The saved contexts that resume together with context `i`, itself first. -/
def resumeSet (tk : Task) (i : Nat) : List (Nat × Saved) :=
  match tk.saved.find? fun e => e.1 == i with
  | none => []
  | some e =>
    let is := setOfCtx tk i e.2.ctx.w.toNat
    e :: tk.saved.filter fun x => x.1 != i && is.contains x.1

/-- The launch of a ring has been served: the next ring's turn comes (R383). -/
def turnFrom (ring : Nat) (s : State) : State := { s with fw := { s.fw with turn := ring } }

/-- RESUMPTION (R20, R224, R367, R383): the named context on the named core, with the rest of its set. -/
def execResumption (task spidx core : Nat) (s : State) : Out :=
  let l := resumeSet (getTask s task) spidx
  .next (if l.isEmpty then s
    else match resumeAll task (some core) l s with
      | none => s
      | some t => turnFrom (getTask s task).ring t)

/-! ## Waiting launches and their order (R383) -/

/-- Effective priority of a waiting launch. -/
def effectiveNow (s : State) (tk : Task) : BitVec 2 :=
  BitVec.ofNat 2 (min 3 (tk.prio.toNat + (tempoNow s - tk.since) / 3000000))

/-- Contexts of a launch that wait for a core: spatial indices. -/
def waitingCtxs (tk : Task) : List Nat :=
  if tk.life = .ready then
    (List.range tk.contexts).filter fun i =>
      match KMap.get .unplaced tk.places i with
      | .unplaced => true
      | .saved => true
      | _ => false
  else []

/-- Launches that wait. -/
def waitingTasks (s : State) : List Nat := (s.tasks.filter fun e => !(waitingCtxs e.2).isEmpty).map Prod.fst

/-- Whether launch `a` is served before launch `b`: effective priority, then the rings in turn, then the order of
the ring (R383). -/
def servedBefore (s : State) (a b : Nat) : Bool :=
  let x := getTask s a
  let y := getTask s b
  let turn (r : Nat) : Nat := (r + 4096 - s.fw.turn - 1) % 4096
  let key (n : Nat) (t : Task) : List Nat := [3 - t.eff.toNat, turn t.ring, n]
  lexBefore (key a x) (key b y)

/-- Launches in the order in which they are served. (DESIGN CHOICE, log entry 51.) -/
def serviceOrder (s : State) : List Nat :=
  (waitingTasks s).foldl (fun l t =>
    let p := l.takeWhile fun u => !servedBefore s t u
    p ++ t :: l.drop p.length) []

/-- What the scheduler does for a waiting context. -/
inductive Choice where
  | start (t i k : Nat)
  | resume (t i k : Nat)
  deriving DecidableEq, Repr

/-- Start the contexts of a list, each on its picked core; none where one of them cannot be placed. -/
def startAll (t : Nat) (first : Option Nat) : List Nat → State → Option State
  | [], s => some s
  | i :: r, s =>
    match (match first with
        | some k => if canStart s t i k then some k else none
        | none => match dieFor s t i with
          | none => none
          | some d => match pickCore s (getTask s t) i d with
            | none => none
            | some k => if canStart s t i k then some k else none) with
    | none => none
    | some k => startAll t none r (startContext t i k s)

/-- The contexts that start in one step with context `i`: a launch with FLAGS.GANGS whole (R383). -/
def startSet (tk : Task) (i : Nat) : List Nat :=
  if tk.flags / 4 % 2 = 1 then
    i :: (List.range tk.contexts).filter fun j => j != i && KMap.get .unplaced tk.places j == .unplaced
  else [i]

/-- What can be done for context `i` of launch `t` now, and the state that it leaves. -/
def placed (s : State) (t i : Nat) : Option (Choice × State) :=
  let tk := getTask s t
  match KMap.get .unplaced tk.places i with
  | .unplaced =>
    match dieFor s t i with
    | none => none
    | some d => match pickCore s tk i d with
      | none => none
      | some k => (startAll t (some k) (startSet tk i) s).map fun u => (.start t i k, u)
  | .saved =>
    match tk.saved.find? fun e => e.1 == i with
    | none => none
    | some e => match (coresOf e.2.die).find? fun k => canResume s t k e.2 with
      | none => none
      | some k => (resumeAll t (some k) (resumeSet tk i) s).map fun u => (.resume t i k, u)
  | _ => none

/-- Whether a context waits for a core, in a state in which others of its launch may have been placed with it. -/
def waitsIn (s : State) (t i : Nat) : Bool :=
  match KMap.get .unplaced (getTask s t).places i with
  | .unplaced => true
  | .saved => true
  | _ => false

/-! ## Room on its way -/

/-- The state as it would stand with the contexts on some cores gone. -/
def vacate (ks : List Nat) (s : State) : State :=
  ks.foldl (fun s k =>
    let c := getCore s k
    let s := freeApertures c.ctx.task (some c.ctx.spidx) s
    setCore s k (clearCore { c with ctx := { c.ctx with w := 16 } })) s

/-- The state as it will stand once every pending request to pre-empt has been honoured, and every save has ended. -/
def settled (s : State) : State :=
  let asked := (List.range nCores).filter fun k => (getCore s k).resident && (getCore s k).preempt
  let s := vacate asked s
  let s := forCores (fun k s =>
    if (getCore s k).resident ∨ (getCore s k).ready ≤ (getCore s k).ctime.toNat then s
    else updCoreAt k (fun c => { c with ready := c.ctime.toNat }) s) s
  { s with tasks := s.tasks.map fun e => (e.1, { e.2 with saved := e.2.saved.map fun p => (p.1, { p.2 with ready := 0 }) }) }

/-- Place what can be placed of some contexts of a launch, in order: how many, and the state that they leave. -/
def placeAll (t : Nat) (is : List Nat) (s : State) : Nat × State :=
  is.foldl (fun a i =>
    if !waitsIn a.2 t i then (a.1 + 1, a.2)
    else match placed a.2 t i with
      | some p => (a.1 + 1, p.2)
      | none => a) (0, s)

/-- Contexts of a launch for which there is room, or will be. -/
def roomFor (s : State) (t : Nat) : Nat := (placeAll t (waitingCtxs (getTask s t)) (settled s)).1

/-- Whether a choice leaves each launch that is served earlier the room that it has or waits for: what has been
made free for a launch goes to no later one (R383; DESIGN CHOICE, log entry 51). -/
def leavesRoom (s : State) (earlier : List Nat) (u : State) : Bool := earlier.all fun t => decide (roomFor s t ≤ roomFor u t)

/-- The next choice among some launches, `earlier` being those that are served before them. -/
def choiceAmong (s : State) : List Nat → List Nat → Option Choice
  | _, [] => none
  | earlier, t :: r =>
    match (waitingCtxs (getTask s t)).findSome? fun i =>
        (placed s t i).bind fun p => if leavesRoom s earlier p.2 then some p.1 else none with
    | some c => some c
    | none => choiceAmong s (earlier ++ [t]) r

/-- The next placement or resumption of the scheduler. -/
def nextChoice (s : State) : Option Choice := choiceAmong s [] (serviceOrder s)

/-! ## Requests to pre-empt (R224, R367, R383) -/

/-- The set of the context on a core, which leaves with it. -/
def leavingWith (s : State) (k : Nat) : List Nat := k :: (wholeSet (focus k s)).filter fun j => j != k

/-- Request the pre-emption of the context on core `k`, delivered to every member of its set. -/
def requestPreempt (k : Nat) (s : State) : State :=
  (leavingWith s k).foldl (fun s j => updCoreAt j (fun c => if c.resident then { c with preempt := true } else c) s) s

/-- Dies that could run a waiting context: its own, or each on which the LOCK pages of its launch fit. -/
def diesFor (s : State) (t i : Nat) : List Nat :=
  let tk := getTask s t
  match KMap.get .unplaced tk.places i with
  | .saved => ((tk.saved.find? fun e => e.1 == i).map fun e => e.2.die).toList
  | _ => match tk.dieOfCtx i with
    | some d => [d]
    | none => (List.range nDies).filter (locksFit s tk.asid)

/-- Cores whose contexts can be asked to leave for a launch of effective priority `p`, those of lowest priority first,
the lowest-numbered core among equals (R383). -/
def victims (s : State) (p : BitVec 2) : List Nat :=
  let ks := (List.range nCores).filter fun k =>
    let c := getCore s k
    c.resident && !c.preempt && decide (c.ctx.prio.toNat < p.toNat)
  (List.range 4).flatMap fun n => ks.filter fun k => (getCore s k).ctx.prio.toNat == n

/-- Whether context `i` of launch `t` can be placed once the contexts on some cores have gone from `h`. -/
def placeable (t i : Nat) (h : State) (ks : List Nat) : Bool := (placed (vacate (ks.flatMap (leavingWith h)) h) t i).isSome

/-- The first of a list of cores, as many as make room for a context; none where all of them do not. -/
def firstEnough (t i : Nat) (h : State) : List Nat → List Nat → Option (List Nat)
  | ks, [] => if placeable t i h ks then some ks else none
  | ks, k :: r => if placeable t i h ks then some ks else firstEnough t i h (ks ++ [k]) r

/-- The cores whose contexts are asked to leave for context `i` of launch `t`: of the first that make room for it, those
without which there is none (R383; DESIGN CHOICE, log entry 51). -/
def toLeave (t i : Nat) (h : State) (ks : List Nat) : List Nat :=
  match firstEnough t i h [] ks with
  | none => []
  | some l => l.reverse.foldl (fun l k =>
      let less := l.filter fun j => j != k
      if placeable t i h less then less else l) l

/-- Room for context `i` of launch `t`. `h` is the state as it will stand, with what has been placed in it so far: where
the context finds no room there, lower contexts are asked to leave, all that it takes at once. -/
def requestFor (t i : Nat) (a : State × State) : State × State :=
  let (s, h) := a
  if !waitsIn h t i then (s, h)
  else match placed h t i with
    | some p => (s, p.2)
    | none =>
      let ks := toLeave t i h (victims s (getTask s t).eff)
      let h := vacate (ks.flatMap (leavingWith h)) h
      (ks.foldl (fun s k => requestPreempt k s) s, ((placed h t i).map Prod.snd).getD h)

/-- Launches that cannot be placed: in the order in which they are served, the scheduler requests the pre-emption of the
lower contexts that keep them out, whatever grant is short: cores, LS shares, apertures, or the M slots of the package
(R238, R383). -/
def requestRoom (s : State) : State :=
  ((serviceOrder s).foldl (fun a t => (waitingCtxs (getTask s t)).foldl (fun a i => requestFor t i a) a) (s, settled s)).1

/-! ## Readiness (R379, R381) -/

/-- Every used WAIT entry is met. -/
def waitsMet (s : State) (tk : Task) : Bool :=
  let r := tk.desc
  tk.waits.all fun w => match wordAt s r.owner r.asid (completionVa r w.1) with
    | some v => decide (w.2 ≤ v.toNat)
    | none => false

/-- The instruction store as the scheduler makes it resident: listed bytes of the code object. -/
def codeCells (b : List Byte) : List Host.Cell := KMap.setList 0 [] 0 b

/-- LAUNCH_READY (R381): the launch is tested. If its words have reached their thresholds it is ready, its code
object is made resident, and room is requested where it cannot be placed. (DEDUCED, log entry 49.) -/
def execLaunchReady (task : Nat) (s : State) : Out :=
  let tk := getTask s task
  let s := updTask task (fun t => { t with test := false }) s
  .next (
    if tk.life ≠ .queued ∨ !waitsMet s tk then s
    else
      let r := tk.desc
      let code := (firmwareBytes s r.owner tk.asid tk.codeVa tk.codeSize).getD []
      requestRoom (updTask task (fun t => { t with
        life := .ready, since := tempoNow s, eff := t.prio
        code := codeCells code, codeHash := codeHashOf code
        affUntil := if t.aff = 2 then tempoNow s + 2 ^ 20 else 0 }) s))

/-- PERIODIC_READINESS_TEST (R381): at least every 15,000 cycles every waiting launch is tested. -/
def execPeriodicReadinessTest (s : State) : Out :=
  .next (requestRoom (testLaunches (fun _ => true)
    { s with fw := { s.fw with nextTest := tempoNow s + 15000 } }))

/-- EFFECTIVE_PRIORITY_PROMOTION (R383). -/
def execEffectivePriorityPromotion (task : Nat) (s : State) : Out :=
  .next (requestRoom (updTask task (fun t => { t with eff := effectiveNow s t }) s))

/-- TAPE_AFFINITY_WAIT_EXPIRY (R379): the launch waits no longer for the core that holds its tape. -/
def execTapeAffinityWaitExpiry (task : Nat) (s : State) : Out :=
  .next (updTask task (fun t => if t.affUntil ≤ tempoNow s then { t with affUntil := 0, aff := min t.aff 1 } else t) s)

/-- LAUNCH_PLACEMENT (R29, R383): the named context on the named core, a launch with gang segments whole. -/
def execLaunchPlacement (task spidx core : Nat) (s : State) : Out :=
  let tk := getTask s task
  .next (
    if tk.life ≠ .ready ∨ KMap.get .unplaced tk.places spidx ≠ .unplaced ∨ tk.contexts ≤ spidx then s
    else match startAll task (some core) (startSet tk spidx) s with
      | none => s
      | some t => requestRoom (turnFrom tk.ring t))

/-! ## END, YIELD and completion (R95, R96, R386) -/

/-- Whether every member of a context's scratch group has ended. -/
def groupEnded (tk : Task) (i : Nat) : Bool :=
  (List.range tk.group).all fun m => KMap.get .unplaced tk.places (i / tk.group * tk.group + m) == .ended

/-- The context of the core in focus is over: its grants are released, and its core
is free once its group's slices are cache again (R96, R223, R245, R295, R335). -/
def retireContext (s : State) : State :=
  let k := s.cur
  let s := spoil 0x25 s
  let c := curCore s
  let t := c.ctx.task
  let i := c.ctx.spidx
  let s := setCore (freeApertures t (some i) s) k (clearCore c)
  let s := updTask t (fun y => { y with
    places := KMap.set .unplaced y.places i .ended
    saved := y.saved.filter fun e => e.1 != i
    widenOr := y.widenOr ||| c.ctx.widen }) s
  let tk := getTask s t
  let s := if groupEnded tk i then
      (coresOf (dieOf k)).foldl (fun s j =>
        if (getCore s j).ctx.task == t && !(getCore s j).resident then returnSlices j s else s) s
    else s
  if allEnded tk then unlockTask t s else s

/-- END (R96, R355): every access of its context performs first, and where one raises an event, END does not retire
(R366). -/
def execEndCtx (s : State) : Out :=
  mainOnly s (looseOnly s (
    let s := performAll (fun _ => true) s
    .next (if (curCore s).events.isEmpty then retireContext s else s)))

/-- Whether the scheduler holds a launch of equal or higher priority for the core in focus (R95). -/
def yieldWanted (s : State) : Bool :=
  let c := curCtx s
  (waitingTasks s).any fun t =>
    decide (c.prio.toNat ≤ (getTask s t).eff.toNat)
      && (waitingCtxs (getTask s t)).any fun i => (diesFor s t i).contains (curDie s)

/-- YIELD (R95, R335): where the scheduler holds such a launch, the context is saved before its next word, be it
END. -/
def execYield (s : State) : Out :=
  mainOnly s (looseOnly s (
    let s := retire 4 1 (spoil 0x20 s)
    .next (if yieldWanted s then updCore (fun c => { c with yielding := true }) (requestPreempt s.cur s) else s)))

/-- LAUNCH_COMPLETION (R122, R386, R392): the WIDEN word, the completion word, and once that add has performed the ring's
vector. -/
def execLaunchCompletion (task : Nat) (s : State) : Out :=
  let tk := getTask s task
  .next (
    if tk.life ≠ .ready ∨ !allEnded tk then s
    else
      let r := tk.desc
      let s := putWord r.owner tk.asid (tk.codeVa + 0x28) tk.widenOr s
      let added := bumpPerforms r tk.incidx s
      let s := bumpWord r tk.incidx s
      let s := if r.vector = 0 ∨ !added then s else { s with host := { s.host with raised := s.host.raised ++ [r.vector] } }
      updTask task (fun t => { t with life := .completed, saved := [], bars := [] }) s)

end Sys2Proof.Machine
end

