-- ==== Sys2Proof/Machine/ContextImage.lean ====
section
/-! DEFINITION. The bytes of a context image (R145, R369, R370): what a saved context is, laid out as the image of it
that the scheduler keeps. -/

namespace Sys2Proof.Machine

/-- Words of `n` bytes each, in order. -/
def imageWords (n : Nat) (l : List Nat) : List Byte := l.flatMap (leBytes n)

/-- The header, by offset (R370). -/
def imageHeader (sv : Saved) : List (Nat × List Byte) :=
  let x := sv.ctx
  [(0x00, leBytes 2 1), (0x02, leBytes 2 ((if sv.sp.isSome then 1 else 0) + 2 * sv.aps.length)), (0x04, leBytes 2 x.spidx),
    (0x06, leBytes 1 sv.die), (0x07, leBytes 1 sv.fold.toNat), (0x08, leBytes 8 sv.feat0.toNat), (0x10, leBytes 8 sv.feat1.toNat),
    (0x18, leBytes 8 x.task), (0x20, leBytes 8 x.codeHash.toNat), (0x28, leBytes 8 x.main.pc.toNat),
    (0x30, imageWords 2 ((List.range 8).map fun i => (KMap.get 0 x.loopc i).toNat))]

/-- Registers and the control core's special registers. -/
def imageRegs (x : Ctx) : List (Nat × List Byte) :=
  [(0x100, imageWords 8 ((List.range 31).map fun i => (KMap.get 0 x.main.g (i + 1)).toNat)),
    (0x1F8, imageWords 8 ((List.range 8).map fun i => (KMap.get 0 x.main.bt i).toNat)), (0x238, leBytes 2 x.main.p.toNat),
    (0x23C, leBytes 4 x.lpass.toNat), (0x240, leBytes 4 (x.hz.getD 0).toNat), (0x244, leBytes 1 (if x.hz.isSome then 1 else 0)),
    (0x248, leBytes 8 x.widen.toNat), (0x250, leBytes 1 x.latched.toNat), (0x258, leBytes 8 x.foldrep.toNat),
    (0x260, leBytes 8 x.trapCause.toNat), (0x268, leBytes 8 x.trapPc.toNat), (0x270, leBytes 8 x.trapInfo.toNat)]

/-- The tape's registers. -/
def imageTape (x : Ctx) : List (Nat × List Byte) :=
  [(0x300, imageWords 8 ((List.range 16).map fun i => (KMap.get 0 x.h i).toNat)), (0x380, leBytes 2 x.hv.toNat),
    (0x382, imageWords 1 ((List.range 16).map fun i => (KMap.get 0 x.bind i).toNat)), (0x398, leBytes 8 x.playAt.toNat),
    (0x3A0, leBytes 1 (if x.rec_ then 1 else 0)), (0x3A1, leBytes 1 x.reason.toNat), (0x3A2, leBytes 1 x.guardIdx.toNat),
    (0x3A3, leBytes 1 (if x.left then 1 else 0))]

/-- Streams, tail masks, expected tags, the near-bank counters, notify flags and barriers. MICROPC is zero in every
image (R41). -/
def imageStreams (x : Ctx) : List (Nat × List Byte) :=
  [(0x400, imageWords 64 ((List.range 64).map fun i => (KMap.get 0 x.streams i).toNat)),
    (0x1400, imageWords 8 ((List.range 64).map fun i => (KMap.get 0 x.tm i).toNat)),
    (0x1600, imageWords 1 ((List.range 64).map fun i => (KMap.get 0 x.xt i).toNat)),
    (0x1680, imageWords 4 [x.blks.toNat, x.nanb.toNat, x.scores.toNat]), (0x1690, leBytes 1 x.notify.toNat),
    (0x2000, imageWords 8 ((List.range 1024).map fun i => if i < x.barriers then (KMap.get 0 x.bars i).toNat else 0))]

/-- Vector registers, and each accumulator with its state word in FOLDREP's layout (R145). -/
def imageEngines (x : Ctx) : List (Nat × List Byte) :=
  (0x4000, imageWords 4 ((List.range 32768).map fun i => (KMap.get 0 x.vregs i).toNat)) ::
    (List.range 4).flatMap fun a =>
      [(0x24000 + 0x4040 * a, imageWords 4 ((List.range 4096).map fun i => (KMap.get 0 x.acc (a * 4096 + i)).toNat)),
        (0x28000 + 0x4040 * a, leBytes 8 (foldReport x a).toNat)]

/-- Aperture `j` of the image, which stands on aperture `n` of the package. A window entry holds A, B, Y0 and X0 from
bit 0 up, as OWIN writes it (R298; DEDUCED, log entry 83). -/
def imageAperture (j n : Nat) (a : Aperture) : List (Nat × List Byte) :=
  let o := 0x34100 + 0xE080 * j
  let bank (b : Nat) : List Byte :=
    (List.range 4096).flatMap fun p => [KMap.get 255 a.amp (b * 4096 + p), KMap.get 0 a.phase (b * 4096 + p)]
  [(o, imageWords 4 ((List.range 4).map fun i => (KMap.get winReset a.wins i).toNat)), (o + 0x10, leBytes 2 a.tlatch.toNat),
    (o + 0x12, leBytes 1 (if a.cal.isSome then 1 else 0)), (o + 0x40, bank 0), (o + 0x2040, bank 1),
    (o + 0x4040, (List.range 41024).map (calImage n a))]

/-- The scratchpad region, where the task asked for it. -/
def imageScratch (sv : Saved) : List (Nat × List Byte) :=
  match sv.sp with
  | none => []
  | some (sp, tags) =>
    [(0x51000, imageWords 1 ((List.range 32768).map fun q => (KMap.get 0 tags q).toNat)), (0x59000, KMap.getList 0 sp 0 2097152)]

/-- The regions of a context image with their offsets; every other byte of it is zero. -/
def contextImage (sv : Saved) : List (Nat × List Byte) :=
  imageHeader sv ++ imageRegs sv.ctx ++ imageTape sv.ctx ++ imageStreams sv.ctx ++ imageEngines sv.ctx
    ++ (sv.aps.zipIdx.flatMap fun e => imageAperture e.2 e.1.1 e.1.2) ++ imageScratch sv

/-- Byte of a context image at an offset. -/
def imageByte (sv : Saved) (off : Nat) : Byte :=
  ((contextImage sv).findSome? fun r => if r.1 ≤ off ∧ off < r.1 + r.2.length then some (r.2.getD (off - r.1) 0) else none).getD 0

end Sys2Proof.Machine
end

