-- ==== Sys2Proof/Machine/Paging.lean ====
section
/-! DEFINITION. The memory manager: page tables and frames (R234 to R237, R241 to R247), eviction, and the core
mailboxes (R250). Which frames it takes is its own choice, which each request carries. -/

namespace Sys2Proof.Machine

/-! ## Device memory by physical address (R394) -/

/-- Write bytes inside one sector of DRAM; a write of the whole sector clears its mark (R360). -/
def pokeDram (pa : Nat) (bs : List Byte) (s : State) : State :=
  dramWrite pa bs { s with memBad := if bs.length = 64 then setBadMark false (pa / 64) s.memBad else s.memBad }

/-- Write bytes inside one sector at the home slice of their physical line. -/
def pokeSector (pa : Nat) (bs : List Byte) (s : State) : State :=
  match findLine (getDie s (homeDie pa)) (pa / 256) with
  | some l =>
    if bitAt l.valid (pa / 64 % 4) then
      updDie (homeDie pa) (putLine { l with
        data := KMap.setList 0 l.data (pa % 256) bs
        bad := if bs.length = 64 then markLine false (pa / 64 % 4) l.bad else l.bad
        dirty := l.dirty ||| BitVec.ofNat 4 (2 ^ (pa / 64 % 4)) }) s
    else pokeDram pa bs s
  | none => pokeDram pa bs s

/-- Write bytes at a device address; what is not populated is discarded. -/
def pokeDevice (pa : Nat) (bs : List Byte) (s : State) : State :=
  (piecesOf pa bs.length).foldl (fun s p =>
    if populated p.1 then pokeSector p.1 ((bs.drop (p.1 - pa)).take p.2) s else s) s

/-! ## Frames (R234, R237) -/

/-- Stretches of device memory that a leaf's page occupies: address and length. -/
def leafStretches (l : Leaf) : List (Nat × Nat) :=
  if bitAt l.pte 11 then []
  else if bitAt l.pte 7 then (List.range nDies).map fun d => (d * 2 ^ 36 + pteAddr l.pte, l.size / 8)
  else [(pteAddr l.pte, l.size)]

/-- The leaf of a page whose mapping is going. -/
def Leaving.leaf (p : Leaving) : Leaf := ⟨p.pte, p.page, p.size⟩

/-- Every stretch in use: mapped pages, pages whose data has not moved yet, page tables and the mailbox pages. -/
def usedStretches (s : State) : List (Nat × Nat) :=
  (s.spaces.flatMap fun e =>
    e.2.tables ++ (e.2.allocs.flatMap fun a => a.leaving.flatMap fun p => leafStretches p.leaf) ++ e.2.allocs.flatMap fun a => (allocPages a).flatMap fun p =>
      match walk s e.2.root p with
      | .leaf l => leafStretches l
      | .fail _ _ => [])
    ++ (List.range nDies).map fun d => (d * 2 ^ 36 + mailboxOffset, 65536)

def overlaps (a b : Nat × Nat) : Bool := decide (a.1 < b.1 + b.2) && decide (b.1 < a.1 + a.2)

/-- Whether a stretch is populated and unused. -/
def stretchFree (s : State) (f : Nat × Nat) : Bool :=
  populated f.1 && populated (f.1 + f.2 - 1) && f.1 / 2 ^ 36 == (f.1 + f.2 - 1) / 2 ^ 36
    && !((usedStretches s).any (overlaps f))

/-! ## Building tables (R242, R243) -/

/-- The leaf entry of a page of an allocation at the place given: a stack offset, or a host address. -/
def leafEntry (flags : Word) (place : Nat) : Word :=
  let kind := bitsAt flags 0 4
  let lock := bitAt flags 8
  let pa := if kind = 1 then bitsAt flags 4 3 * 2 ^ 36 + place else place
  BitVec.ofNat 64 (pa / 4096 * 4096 + (if kind = 2 then 2 ^ 11 else 0) + (if kind = 0 then 2 ^ 7 else 0)
    + (if lock then 2 ^ 6 else 0) + (if lock || bitAt flags 7 then 2 ^ 5 else 0) + (if bitAt flags 11 then 2 ^ 3 else 0)
    + (if bitsAt flags 9 2 = 2 then 2 else 0) + 1)

/-- Set entry `i` of a table. -/
def writePte (table i : Nat) (e : Word) (s : State) : State := pokeDevice (table + 8 * i) (leBytes 8 e.toNat) s

/-- The table that entry `i` of a table names, made from the next of the frames given where there is none. -/
def ensureTable (asid table i size : Nat) (flag : Nat) (frames : List Nat) (s : State) : Option (Nat × List Nat × State) :=
  let e := readPte s table i
  if bitAt e 0 then
    if bitAt e 1 ∨ (bitAt e 2 ↔ flag = 0) then none else some (pteAddr e, frames, s)
  else match frames with
    | [] => none
    | f :: r =>
      if f % size ≠ 0 ∨ !stretchFree s (f, size) then none
      else
        let s := updSpace asid (fun x => { x with tables := x.tables ++ [(f, size)] }) s
        some (f, r, writePte table i (BitVec.ofNat 64 (f + flag * 4 + 1)) (pokeDevice f (List.replicate size 0) s))

/-- Root table of an address space, made where there is none. -/
def ensureRoot (asid : Nat) (frames : List Nat) (s : State) : Option (Nat × List Nat × State) :=
  let x := getSpace s asid
  if x.root ≠ 0 then some (x.root, frames, s)
  else match frames with
    | [] => none
    | f :: r =>
      if f = 0 ∨ f % 4096 ≠ 0 ∨ !stretchFree s (f, 4096) then none
      else some (f, r, updSpace asid (fun x => { x with root := f, tables := x.tables ++ [(f, 4096)] })
        (pokeDevice f (List.replicate 4096 0) s))

/-- Map one page with the entry given. -/
def mapPage (asid va psize : Nat) (e : Word) (frames : List Nat) (s : State) : Option (List Nat × State) :=
  match ensureRoot asid frames s with
  | none => none
  | some (t0, frames, s) =>
    match ensureTable asid t0 (va / 2 ^ 48 % 512) 4096 0 frames s with
    | none => none
    | some (t1, frames, s) =>
      match ensureTable asid t1 (va / 2 ^ 39 % 512) 4096 0 frames s with
      | none => none
      | some (t2, frames, s) =>
        if psize = 2 then
          if bitAt (readPte s t2 (va / 2 ^ 30 % 512)) 0 then none
          else some (frames, writePte t2 (va / 2 ^ 30 % 512) e s)
        else
          match ensureTable asid t2 (va / 2 ^ 30 % 512) (if psize = 1 then 4096 else 131072) psize frames s with
          | none => none
          | some (t3, frames, s) =>
            some (frames, writePte t3 (if psize = 1 then va / 2 ^ 21 % 512 else va / 2 ^ 16 % 16384) e s)

/-- Set the leaf entry of a page that has tables. -/
def setLeaf (asid va psize : Nat) (e : Word) (s : State) : State :=
  let root := (getSpace s asid).root
  let t1 := pteAddr (readPte s root (va / 2 ^ 48 % 512))
  let t2 := pteAddr (readPte s t1 (va / 2 ^ 39 % 512))
  if psize = 2 then writePte t2 (va / 2 ^ 30 % 512) e s
  else
    let t3 := pteAddr (readPte s t2 (va / 2 ^ 30 % 512))
    writePte t3 (if psize = 1 then va / 2 ^ 21 % 512 else va / 2 ^ 16 % 16384) e s

/-- Whether the place of a page is free and aligned: a stretch of each stack, of one stack, or a host page. -/
def placeOk (s : State) (flags : Word) (place : Nat) : Bool :=
  let z := allocPageSize flags
  match bitsAt flags 0 4 with
  | 0 => place % (z / 8) == 0 && place % 4096 == 0 && (List.range nDies).all fun d => stretchFree s (d * 2 ^ 36 + place, z / 8)
  | 1 => place % z == 0 && decide (place < 2 ^ 36) && stretchFree s (bitsAt flags 4 3 * 2 ^ 36 + place, z)
  | _ => place % z == 0 && decide (place + z ≤ 2 ^ 48)

/-- Map the pages of a range, each at its place. -/
def mapPages (asid : Nat) (flags : Word) : List (Nat × Nat) → List Nat → State → Option State
  | [], _, s => some s
  | (va, place) :: r, frames, s =>
    if !placeOk s flags place then none
    else match mapPage asid va (bitsAt flags 9 2) (leafEntry flags place) frames s with
      | none => none
      | some (frames, s) => mapPages asid flags r frames s

/-! ## Removing a mapping (R247) -/

/-- Whether a flight reads or writes memory. -/
def memoryFlight (f : Flight) : Bool :=
  match f.kind with
  | .copy _ => true
  | .drop _ _ => true
  | .clean _ _ => true
  | .pull _ _ => true
  | .nbList _ _ _ => true
  | .vamo _ _ _ => true
  | _ => false

/-- What the contexts of an address space have on its way to or from memory: accesses, and flights with their cores.
(DEDUCED, log entry 54.) -/
def accessesOf (s : State) (asid : Nat) : List Nat :=
  (residentOf s asid).flatMap fun k => (getCore s k).pend.map Access.id
where
  residentOf (s : State) (asid : Nat) : List Nat :=
    (List.range nCores).filter fun k => (getCore s k).resident && (getCore s k).ctx.asid == asid

def flightsOf (s : State) (asid : Nat) : List (Nat × Nat) :=
  (accessesOf.residentOf s asid).flatMap fun k => ((getCore s k).flights.filter memoryFlight).map fun f => (k, f.seq)

/-- Whether everything that translated through an old entry has performed (R247 step 3). -/
def leavingDone (s : State) (p : Leaving) : Bool :=
  !(p.accesses.any (accessPending s)) && !(p.flights.any fun f => (getCore s f.1).flights.any fun g => g.seq == f.2)

/-- Physical lines of a leaf's page that stand in slices. -/
def cachedLines (s : State) (l : Leaf) : List Nat :=
  (leafStretches l).flatMap fun f =>
    ((getDie s (homeDie f.1)).l2.filter fun x => decide (f.1 ≤ x.phys * 256) && decide (x.phys * 256 < f.1 + f.2)).map L2Line.phys

/-- Change one allocation of an address space. -/
def updAlloc (asid va : Nat) (f : Alloc → Alloc) (s : State) : State :=
  updSpace asid (fun x => { x with allocs := x.allocs.map fun b => if b.va = va then f b else b }) s

/-- A page's mapping begins to go: V is cleared, and the translation leaves every die's translation cache (R247
steps 1 and 2). What has translated through the entry is noted. -/
def startLeaving (asid : Nat) (a : Alloc) (host : Option Nat) (s : State) (va : Nat) : State :=
  match walk s (getSpace s asid).root va with
  | .fail _ _ => s
  | .leaf l =>
    let e : Leaving := ⟨l.pte, l.page, l.size, host, accessesOf s asid, flightsOf s asid⟩
    let s := setLeaf asid va (bitsAt a.flags 9 2) 0 s
    let s := (List.range nDies).foldl (fun s d => updDie d (fun x =>
      { x with tlb := x.tlb.filter fun e => !(e.asid == asid && e.page == l.page) }) s) s
    updAlloc asid a.va (fun b => { b with leaving := b.leaving ++ [e] }) s

/-- The page's lines are written back and invalidated at their home slices, and every remote-data cache drops it
(R247 steps 4 and 5). -/
def dropPage (asid : Nat) (l : Leaf) (s : State) : State :=
  let s := (cachedLines s l).foldl (fun s p => evictLine p s) s
  (List.range nDies).foldl (fun s d =>
    rdcDropIf d (fun x => x.asid == asid && decide (l.page ≤ x.va * 256) && decide (x.va * 256 < l.page + l.size)) s) s

/-- The allocation of an address space that holds an address. -/
def allocOf (s : State) (asid va : Nat) : Option Alloc :=
  (getSpace s asid).allocs.find? fun a => decide (a.va ≤ va) && decide (va < a.va + a.length)

/-- The bytes of a page, as its leaf gives them. -/
def pageBytes (s : State) (l : Leaf) : List Byte := (List.range l.size).map fun i => physByte s (leafPhys l (l.page + i))

/-- The data of a page that is evicted moves to its host page (R247 step 6). -/
def finishEviction (asid : Nat) (a : Alloc) (p : Leaving) (host : Nat) (s : State) : State :=
  let s := dropPage asid p.leaf s
  let data := pageBytes s p.leaf
  updAlloc asid a.va (fun b => { b with leaving := b.leaving.erase p, evicted := b.evicted ++ [(p.page, host)] })
    { s with hostMem := KMap.setList 0 s.hostMem host data }

/-- A page that an eviction can begin with: device memory that is neither pinned nor locked, mapped, and not going
already. -/
def evictable (a : Alloc) (page : Nat) : Bool :=
  bitsAt a.flags 0 4 != 2 && !bitAt a.flags 7 && !bitAt a.flags 8 && a.freeing.isNone && !(a.leaving.any fun p => p.page == page)

/-- PAGE_EVICTION (R236, R247): an unpinned device page moves to a host page. Its mapping goes at once; its data moves
once every access that translated through it has performed. -/
def execPageEviction (asid va : Nat) (hostPage : Nat) (s : State) : Out :=
  match allocOf s asid va with
  | none => .next s
  | some a =>
    let z := allocPageSize a.flags
    let page := va / z * z
    let s := if evictable a page && hostPage % z == 0 then startLeaving asid a (some hostPage) s page else s
    match allocOf s asid va with
    | none => .next s
    | some a => match a.leaving.find? fun p => p.page == page with
      | none => .next s
      | some p => match p.host with
        | none => .next s
        | some h => .next (if leavingDone s p then finishEviction asid a p h s else s)

/-- An eviction whose page may move now: address space, page and host page. -/
def pendingEviction (s : State) : Option (Nat × Nat × Nat) :=
  s.spaces.findSome? fun e => e.2.allocs.findSome? fun a => a.leaving.findSome? fun p =>
    match p.host with
    | some h => if leavingDone s p then some (e.1, p.page, h) else none
    | none => none

/-! ## The mailbox (R250) -/

/-- Word at an offset of a core's mailbox window. -/
def mailWord (s : State) (core off : Nat) : Word := (wordAt s (dieOf core) 0 (mailboxOf core + off)).getD 0

/-- The memory manager answers: STATUS, then DONE. -/
def mailAnswer (core status : Nat) (s : State) : State :=
  let seq := mailWord s core 16
  putWord (dieOf core) 0 (mailboxOf core + 24) seq (putWord (dieOf core) 0 (mailboxOf core + 32) (BitVec.ofNat 64 status) s)

/-- Bring an evicted page back to a place of the memory manager's choice. -/
def bringBack (asid : Nat) (a : Alloc) (page host : Nat) (choice : AllocChoice) (s : State) : Option State :=
  let z := allocPageSize a.flags
  let place := choice.pages.headD 0
  let frames := choice.tables.map fun o => choice.tableDie * 2 ^ 36 + o
  match mapPages asid a.flags [(page, place)] frames s with
  | none => none
  | some s =>
    let data := KMap.getList 0 s.hostMem host z
    let s := match walk s (getSpace s asid).root page with
      | .leaf l => ((List.range (z / 4096)).map fun i => 4096 * i).foldl (fun s o =>
          pokeDevice (leafPhys l (page + o)).pa ((data.drop o).take 4096) s) s
      | .fail _ _ => s
    some (updSpace asid (fun x => { x with allocs := x.allocs.map fun b =>
      if b.va = a.va then { b with evicted := b.evicted.filter fun e => e.1 != page } else b }) s)

/-- The task of a core's handler is aborted with the cause, offset and column of its event. (DEDUCED, log entry 63.) -/
def abandonCore (core : Nat) (s : State) : State :=
  let c := getCore s core
  let w := c.ctx.trapCause
  if !c.resident then s
  else taskAbort c.ctx.task (bitsAt w 0 8) (bitsAt w 32 32) (bitsAt w 16 3) c.ctx.spidx s

/-- Forget a mailbox request that is answered. -/
def dropMail (core : Nat) (s : State) : State := { s with mailbox := s.mailbox.erase core }

/-- A page whose eviction has not moved it yet is mapped again where it is. -/
def keepPage (asid : Nat) (a : Alloc) (p : Leaving) (s : State) : State :=
  updAlloc asid a.va (fun b => { b with leaving := b.leaving.erase p }) (setLeaf asid p.page (bitsAt a.flags 9 2) p.pte s)

/-- RESOLVE (R250): operation 1; any other code but 2 is refused with STATUS 3. A page on its way out of device memory
stays (DESIGN CHOICE, log entry 84); one of an allocation that is being freed is in no allocation any more (DESIGN CHOICE,
log entry 90). -/
def execResolve (core : Nat) (choice : AllocChoice) (s : State) : Out :=
  let s := dropMail core s
  let asid := (getCore s core).ctx.asid
  let va := (mailWord s core 8).toNat
  let op := bitsAt (mailWord s core 0) 0 8
  .next (
    if op ≠ 1 then mailAnswer core 3 s
    else match allocOf s asid va with
      | none => mailAnswer core 2 s
      | some a =>
        let z := allocPageSize a.flags
        if a.freeing.isSome then mailAnswer core 2 s
        else match a.leaving.find? fun p => p.page == va / z * z with
        | some p => mailAnswer core 0 (keepPage asid a p s)
        | none => match a.evicted.find? fun e => e.1 == va / z * z with
        | none => mailAnswer core 0 s
        | some e => match bringBack asid a e.1 e.2 choice s with
          | none => mailAnswer core 1 s
          | some t => mailAnswer core 0 t)

/-- ABANDON (R250, R365): operation 2 of the mailbox of the core in focus. The task is aborted before DONE. -/
def execAbandon (s : State) : Out :=
  let k := s.cur
  .next (mailAnswer k 0 (abandonCore k (dropMail k s)))

end Sys2Proof.Machine
end

