-- ==== Sys2Proof/Machine/HostLink.lean ====
section
/-! DEFINITION. The host link: host requests and their slots (R398, R399), the device memory window (R394),
reports (R400), attestation (R390), and the firmware complex (R387 to R391). -/

namespace Sys2Proof.Machine

/-! ## Request slots -/

/-- A field of a request: `n` bytes at byte `off`. -/
def reqField (r : Line) (off n : Nat) : Nat := bitsAt r (8 * off) (8 * n)
def reqCode (r : Line) : Nat := reqField r 0 2

/-- The reserved bytes of each request: first byte and count (R399). -/
def reqReserved (code : Nat) : List (Nat × Nat) :=
  match code with
  | 1 => [(60, 4)]
  | 2 => [(14, 2), (32, 24), (60, 4)]
  | 3 => [(13, 3), (42, 14), (60, 4)]
  | 4 => [(10, 46), (60, 4)]
  | 5 => [(10, 6), (48, 8), (60, 4)]
  | 6 => [(10, 6), (24, 32), (60, 4)]
  | _ => [(15, 41), (60, 4)]

/-- The firmware writes a slot: the results, then STATUS. A completion raises vector 1. -/
def answer (slot : Nat) (req : Line) (status : Nat) (outs : List (Nat × List Byte)) (s : State) : State :=
  let b := KMap.setList 0 s.host.slots (64 * slot) (leBytes 64 req.toNat)
  let b := outs.foldl (fun m o => KMap.setList 0 m (64 * slot + o.1) o.2) b
  let b := KMap.setList 0 b (64 * slot + 4) (leBytes 4 status)
  { s with host := { s.host with
      slots := b, raised := if status = 2 then s.host.raised else s.host.raised ++ [1] } }

/-- A refusal with its reason. -/
def refuse (slot : Nat) (req : Line) (reason : Nat) (s : State) : State :=
  answer slot req 1 [(56, leBytes 4 reason)] s

/-- A request of the given CODE with its reserved bytes zero; anything else is refused with reason 1. (DEDUCED, log entry 53.) -/
def request (code slot : Nat) (req : Line) (s : State) (k : Except Nat State) : Out :=
  .next (
    if reqCode req ≠ code ∨ (reqReserved code).any (fun f => reqField req f.1 f.2 != 0) then refuse slot req 1 s
    else match k with
      | .ok t => t
      | .error reason => refuse slot req reason s)

/-- Whether a task is resident: from the first placement of a context until the last has ended, saved contexts
included. -/
def taskResident (t : Task) : Bool := t.life == .ready && !t.places.isEmpty && !allEnded t

/-- Whether any task is resident (R19, R398, R401). -/
def anyResident (s : State) : Bool :=
  (List.range nCores).any (fun k => (getCore s k).resident) || s.tasks.any fun e => taskResident e.2

/-- The feature bits the device offers (R402): bits 5:0 of FEAT0. -/
def offered : Word := 0x3F

/-- NEGOTIATE (R401, R402, R412). -/
def execNegotiate (slot : Nat) (req : Line) (s : State) : Out :=
  request 1 slot req s (
    if anyResident s then .error 4
    else
      let f0 := BitVec.ofNat 64 (reqField req 8 8) &&& offered
      let s := { s with
        feat0 := f0, feat1 := 0
        fw := { s.fw with bringUp := if s.fw.bringUp = .negotiate then .config else s.fw.bringUp } }
      .ok (answer slot req 0 [(24, leBytes 8 f0.toNat), (32, leBytes 8 0), (40, leBytes 8 offered.toNat), (48, leBytes 8 0)] s))

/-- The watchdog limits of a CONFIG, in cycles (R384: microseconds at 1.5 GHz); 0 keeps a limit. -/
def newLimits (req : Line) (old : KMap Nat) : KMap Nat :=
  (List.range 4).foldl (fun m p =>
    let v := reqField req (16 + 4 * p) 4
    if v = 0 then m else KMap.set 150000000 m p (v * 1500)) old

/-- CONFIG (R18, R19, R384, R410). Before NEGOTIATE it is refused (R412). -/
def execConfig (slot : Nat) (req : Line) (s : State) : Out :=
  request 2 slot req s (
    let cap := reqField req 12 2
    let lims := (List.range 4).map fun p => reqField req (16 + 4 * p) 4
    if s.fw.bringUp = .negotiate then .error 1
    else if anyResident s then .error 4
    else if (cap ≠ 0 ∧ (cap < 1200 ∨ 2400 < cap)) ∨ lims.any (fun v => v != 0 && (decide (v < 1000) || decide (10000000 < v))) then .error 2
    else .ok (answer slot req 0 [] { s with
      pkg := BitVec.ofNat 16 (reqField req 8 2), domain := BitVec.ofNat 16 (reqField req 10 2)
      fw := { s.fw with
        bringUp := .ready, cap := if cap = 0 then s.fw.cap else cap, limits := newLimits req s.fw.limits } }))

/-- The requests of bring-up step 6, refused before CONFIG (R412). -/
def afterConfig (s : State) (k : Except Nat State) : Except Nat State := if s.fw.bringUp = .ready then k else .error 1

/-- Whether an address space exists (R399): from the first ALLOC that names it. -/
def spaceExists (s : State) (asid : Nat) : Bool := (getSpace s asid).root != 0

/-- The lowest ring number not in use. (DESIGN CHOICE, log entry 56.) -/
def freeRing (s : State) : Option Nat := (List.range 4096).find? fun n => !(getRing s n).live

/-- RINGREG (R374, R399). -/
def execRingreg (slot : Nat) (req : Line) (s : State) : Out :=
  request 3 slot req s (afterConfig s (
    let asid := reqField req 8 2
    let log2n := reqField req 10 1
    let owner := reqField req 11 1
    let vec := reqField req 12 1
    let base := reqField req 16 8
    let ctl := reqField req 24 8
    let ctab := reqField req 32 8
    if asid = 0 ∨ log2n < 4 ∨ 16 < log2n ∨ 8 ≤ owner ∨ vec = 1 ∨ 64 ≤ vec ∨ base % 64 ≠ 0 ∨ ctl % 64 ≠ 0 ∨ ctab % 8 ≠ 0
        ∨ 2 ^ 57 ≤ base ∨ 2 ^ 57 ≤ ctl ∨ 2 ^ 57 ≤ ctab then .error 2
    else if !spaceExists s asid then .error 5
    else if vec ≠ 0 ∧ s.rings.any (fun e => e.2.live && e.2.vector == vec) then .error 3
    else match freeRing s with
      | none => .error 3
      | some n => .ok (answer slot req 0 [(40, leBytes 2 n)]
          (updRing n (fun _ => ⟨true, asid, base, log2n, ctl, ctab, owner, vec, false, false⟩) s))))

/-- RINGDEL (R399): launches already parsed run on, and raise no vector. -/
def execRingdel (slot : Nat) (req : Line) (s : State) : Out :=
  request 4 slot req s (afterConfig s (
    let n := reqField req 8 2
    if !(getRing s n).live then .error 5
    else
      let s := updRing n (fun r => { r with live := false, vector := 0, woken := false }) s
      .ok (answer slot req 0 [] { s with tasks := s.tasks.map fun e =>
        if e.2.ring = n then (e.1, { e.2 with desc := { e.2.desc with live := false, vector := 0 } }) else e })))

/-- The bounds of an allocation's range (R399). -/
def rangeOk (s : State) (asid va len z : Nat) : Bool :=
  va % z == 0 && va != 0 && decide (va + len ≤ mailboxBase)
    && !((getSpace s asid).allocs.any fun a => overlaps (va, len) (a.va, a.length))

/-- The checks of an ALLOC and its effect (R236, R399): the reason it is refused with, or the state and the
address. (DEDUCED, log entry 55.) (DESIGN CHOICE, log entry 57.) -/
def allocate (asid len : Nat) (flags : Word) (want : Nat) (choice : AllocChoice) (s : State) : Except Nat (Nat × State) :=
  let z := allocPageSize flags
  let kind := bitsAt flags 0 4
  if asid = 0 ∨ bitsAt flags 12 52 ≠ 0 ∨ bitsAt flags 9 2 = 3 ∨ 2 < kind ∨ len = 0 ∨ len % z ≠ 0
      ∨ (kind = 2 ∧ !bitAt s.feat0 5) then .error 2
  else if want ≠ 0 ∧ !rangeOk s asid want len z then .error 2
  else
    let va := if want ≠ 0 then want else choice.va
    if !rangeOk s asid va len z then .error 3
    else if bitAt flags 8 ∧ 4096 < (lockPages s asid).length + len / z then .error 3
    else if choice.pages.length ≠ len / z then .error 3
    else
      let a : Alloc := ⟨va, len, flags, none, [], []⟩
      let pages := choice.pages.zipIdx.map fun p => (va + p.2 * z, p.1)
      match mapPages asid flags pages (choice.tables.map fun o => choice.tableDie * 2 ^ 36 + o) s with
      | none => .error 3
      | some t => .ok (va, updSpace asid (fun x => { x with allocs := x.allocs ++ [a] }) t)

/-- ALLOC (R236, R399). The frames, the tables and an address that the request leaves open are the memory
manager's choice. -/
def execAlloc (slot : Nat) (req : Line) (choice : AllocChoice) (s : State) : Out :=
  request 5 slot req s (afterConfig s (
    match allocate (reqField req 8 2) (reqField req 16 8) (BitVec.ofNat 64 (reqField req 24 8)) (reqField req 32 8) choice s with
    | .error reason => .error reason
    | .ok (va, t) => .ok (answer slot req 0 [(40, leBytes 8 va)] t)))

/-- Whether a resident task holds a translation of the allocation locked (R245, R399). -/
def lockHeld (s : State) (asid : Nat) (a : Alloc) : Bool :=
  s.tasks.any fun e => e.2.asid == asid && e.2.locks.any fun p => decide (a.va ≤ p.2) && decide (p.2 < a.va + a.length)

/-- Whether a FREE waits before it takes the mappings away: for a task that holds the pages locked, or an eviction on
its way (R247, R399). -/
def freeWaits (s : State) (asid : Nat) (a : Alloc) : Bool := lockHeld s asid a || a.leaving.any fun p => p.host.isSome

/-- The mappings of an allocation begin to go, where they have not (R247 steps 1 and 2). -/
def startFree (asid : Nat) (a : Alloc) (s : State) : State :=
  if a.leaving.isEmpty then (allocPages a).foldl (fun s p => startLeaving asid a none s p) s else s

/-- The pages of an allocation whose mappings are going. -/
def leavingOf (s : State) (asid va : Nat) : List Leaving :=
  (((getSpace s asid).allocs.find? fun a => a.va == va).map Alloc.leaving).getD []

/-- The pages have been given up: their lines go, then the allocation and its frames (R247 steps 4 to 6). -/
def finishFree (asid : Nat) (a : Alloc) (s : State) : State :=
  let s := (leavingOf s asid a.va).foldl (fun s p => dropPage asid p.leaf s) s
  updSpace asid (fun x => { x with allocs := x.allocs.filter fun b => b.va != a.va }) s

/-- FREE (R247, R399): it stays pending while it must wait, and is then performed again. -/
def execFree (slot : Nat) (req : Line) (s : State) : Out :=
  request 6 slot req s (afterConfig s (
    let asid := reqField req 8 2
    match (getSpace s asid).allocs.find? fun a => a.va == reqField req 16 8 && (a.freeing.isNone || a.freeing == some slot) with
    | none => .error 5
    | some a =>
      let pend (s : State) : State := answer slot req 2 [] (updAlloc asid a.va (fun b => { b with freeing := some slot }) s)
      if freeWaits s asid a then .ok (pend s)
      else
        let s := startFree asid a s
        if (leavingOf s asid a.va).all (leavingDone s) then .ok (answer slot req 0 [] (finishFree asid a s))
        else .ok (pend s)))

/-- A pending FREE that may now go on: its slot. -/
def pendingFree (s : State) : Option Nat :=
  s.spaces.findSome? fun e => e.2.allocs.findSome? fun a =>
    match a.freeing with
    | some slot => if !freeWaits s e.1 a && a.leaving.all (leavingDone s) then some slot else none
    | none => none

/-- The 64 bytes of a slot. -/
def slotLine (s : State) (slot : Nat) : Line := BitVec.ofNat 512 (ofLeBytes (KMap.getList 0 s.host.slots (64 * slot) 64))

/-- The request of a slot whose results have not been written: STATUS aside, as the driver left it. -/
def slotRequest (s : State) (slot : Nat) : Line := putBits (slotLine s slot) 32 32 0

/-- PEERBIND (R399, R408). -/
def execPeerbind (slot : Nat) (req : Line) (s : State) : Out :=
  request 7 slot req s (afterConfig s (
    let asid := reqField req 8 2
    let pkg := reqField req 10 2
    let peer := reqField req 12 2
    let op := reqField req 14 1
    let key := asid * 65536 + pkg
    if asid = 0 ∨ pkg = 0xFFFF ∨ 1 < op then .error 2
    else if !spaceExists s asid then .error 5
    else if op = 0 then .ok (answer slot req 0 [] { s with peers := KMap.set none s.peers key (some peer) })
    else if (KMap.get none s.peers key).isNone then .error 5
    else .ok (answer slot req 0 [] { s with peers := KMap.set none s.peers key none })))

/-! ## Registers and memory of the BARs -/

/-- REPRD (R400). -/
def execReprd (v : Word) (s : State) : Out := .next { s with host := { s.host with repRd := v } }

/-- HOST_MEMORY_READ (R394): bytes through BAR4; a read of an unpopulated offset returns none (Unsupported
Request). -/
def execHostMemoryRead (offset size : Nat) (s : State) : Out :=
  let ok := (List.range size).all fun i => populated (offset + i)
  .next { s with host := { s.host with
    reads := s.host.reads ++ [if ok then physBytes s ⟨false, offset⟩ size else []] } }

/-- HOST_MEMORY_WRITE (R394): bytes through BAR4; a write to an unpopulated offset is discarded. -/
def execHostMemoryWrite (offset : Nat) (bytes : List Byte) (s : State) : Out := .next (pokeDevice offset bytes s)

/-! ## Attestation (R389, R390) -/

/-- What a measurement covers (R390): how the values are laid out as bytes for hashing is open (DESIGN CHOICE, log
entry 9). -/
def measured (s : State) (index : Nat) : List Byte :=
  match index with
  | 1 => s.fw.bootCode
  | 2 => flashBytes (activeImage s.fw)
  | 3 => Config.hashLayout 3 [(activeImage s.fw).svn, s.fw.minSvn]
  | 4 => Config.hashLayout 4 [s.feat0.toNat, s.feat1.toNat]
  | _ => Config.hashLayout 5 (((List.range 4).map fun p => KMap.get 150000000 s.fw.limits p) ++ [s.domain.toNat]
      ++ s.rings.flatMap fun e => if e.2.live then [e.1, e.2.asid, e.2.base, e.2.log2n, e.2.ctl, e.2.ctab, e.2.owner, e.2.vector] else [])

/-- SPDM_REQUEST (R390): a measurement, signed with the attestation key. -/
def execSpdmRequest (index : Nat) (s : State) : Out :=
  .next (
    if index = 0 ∨ 5 < index then s
    else
      let d := digestOf (measured s index)
      { s with host := { s.host with spdm := s.host.spdm ++ [(index, d, Config.sign s.fw.attKey d)] } })

/-! ## The firmware complex (R388, R391) -/

/-- LOCKSTEP_MISMATCH (R388): the complex freezes, for good where the last restart is less than a second ago (DESIGN
CHOICE, log entry 47). A mismatch in a live update freezes it likewise, and ends the update: the old image takes back
what it handed over (DESIGN CHOICE, log entry 110). -/
def execLockstepMismatch (fn : Nat) (s : State) : Out :=
  let freeze (s : State) : State :=
    let again := match s.fw.lastRestart with
      | some t => decide (tempoNow s < t + 1500000000)
      | none => false
    let (n, s) := drawOracle s
    let t := tempoNow s + 1 + n % freezeCycles
    { s with fw := { s.fw with complex := if again then .locked else .frozen t (tempoNow s + freezeCycles) fn } }
  match s.fw.complex with
  | .running => .next (freeze s)
  | .checking _ _ => .next (freeze s)
  | .updating _ _ => .next (freeze { s with fw := takeHandover s.fw })
  | .frozen _ _ _ => .next s
  | .locked => .next s

/-- LIVE_UPDATE (R391 steps 1 and 2): the image stands in the inactive slot, and the complex freezes. The packet that
the parser holds is finished, since each is parsed in one step. -/
def execLiveUpdate (image : Image) (s : State) : Out :=
  match s.fw.complex with
  | .running =>
    .next { s with fw := { (if s.fw.slotB then { s.fw with imageA := image } else { s.fw with imageB := image }) with
      complex := .checking image (tempoNow s + freezeCycles) } }
  | _ => .next s

/-- HEARTBEAT (R391 step 6): the new image runs with the state handed over, and its slot becomes active. -/
def execHeartbeat (s : State) : Out :=
  match s.fw.complex with
  | .updating _ _ =>
    .next (report 5 0 0 0 0 0 0 0 { s with fw := { takeHandover s.fw with complex := .running, slotB := !s.fw.slotB } })
  | _ => .next s

/-- HEARTBEAT_MISSED (R391 step 7): 50 ms have passed without one, and the old image takes its state back. -/
def execHeartbeatMissed (s : State) : Out :=
  match s.fw.complex with
  | .updating _ t =>
    .next (if t ≤ tempoNow s then report 5 0 3 0 0 0 0 0 { s with fw := { takeHandover s.fw with complex := .running } } else s)
  | _ => .next s

end Sys2Proof.Machine
end

