-- ==== Sys2Proof/Machine/Transport.lean ====
section
/-! DEFINITION. The scale-out transport (R403 to R409): frames received, their operations, acknowledgement,
probes and the stripe. -/

namespace Sys2Proof.Machine

/-! ## Sequence numbers (R406) -/

/-- How far `a` stands ahead of `b`, mod 2^32. -/
def psnAhead (a b : Nat) : Nat := (a + 2 ^ 32 - b % 2 ^ 32) % 2 ^ 32

/-- Frames that an ACKPSN passes leave the copies kept; those that the window now admits are sent. -/
def takeAck (pkg ack : Nat) (s : State) : State :=
  let c := getConn s pkg
  let kept := c.unacked.filter fun f => decide (2 ^ 31 ≤ psnAhead ack (f.psn + 1))
  let n := c.unacked.length - kept.length
  if n = 0 then s
  else
    let s := updConn pkg (fun c => { c with unacked := kept, lastAdvance := tempoNow s }) s
    ((kept.drop (4096 - n)).take n).foldl (fun s f => emitStriped pkg f s) s

/-- Resend a frame kept, on another port of the stripe where one exists. -/
def resend (pkg : Nat) (f : Frame) (s : State) : State :=
  let c := getConn s pkg
  match c.stripe.filter (fun p => p != f.port), c.stripe with
  | p :: r, _ => emitData pkg (nth p (p :: r) (c.turn % (r.length + 1))) f s
  | [], p :: _ => emitData pkg p f s
  | [], [] => s

/-- Send an ACK, or a NAK that names the first missing PSN. -/
def sendControl (pkg type nak : Nat) (s : State) : State :=
  let c := getConn s pkg
  match c.stripe with
  | [] => s
  | p :: _ => emit pkg (nth p c.stripe (c.turn % c.stripe.length)) { frameTo s pkg type with nakPsn := nak } s

/-! ## The stripe (R407) -/

/-- A frame of a peer has arrived on a port, which has link. (DEDUCED, log entry 64.) -/
def heardOn (f : Frame) (s : State) : State :=
  updConn f.srcPkg (fun c => { c with heard := KMap.set 0 c.heard f.via (tempoNow s + 1) })
    { s with links := s.links ||| BitVec.ofNat 4 (2 ^ f.via) }

/-- A port enters the stripe; a connection that had none sends what it kept. -/
def enterStripe (pkg port : Nat) (s : State) : State :=
  let c := getConn s pkg
  if c.stripe.contains port then s
  else
    let s := updConn pkg (fun c => { c with stripe := c.stripe ++ [port] }) s
    if c.stripe.isEmpty then (c.unacked.take 4096).foldl (fun s f => emitStriped pkg f s) s else s

/-- Without a port in its stripe a connection keeps its frames, but for its wakes, which are dropped and counted: such
a frame keeps its number, and carries no operation any more (R407; DESIGN CHOICE, log entry 85). -/
def dropKeptWakes (pkg : Nat) (s : State) : State :=
  let c := getConn s pkg
  let n := (c.unacked.filter fun f => f.op == 4).length
  if !c.stripe.isEmpty ∨ n = 0 then s
  else
    updConn pkg (fun c => { c with unacked := c.unacked.map fun f => if f.op = 4 then { f with op := 0, data := [], len := 32 } else f })
      { s with fw := { s.fw with wakesDropped := s.fw.wakesDropped + n } }

/-- A port leaves a connection's stripe (R407). -/
def leaveStripe (pkg port : Nat) (s : State) : State :=
  dropKeptWakes pkg (updConn pkg (fun c => { c with stripe := c.stripe.filter fun p => p != port }) s)

/-- What every received frame must be (R404). -/
def frameOk (s : State) (f : Frame) : Bool :=
  f.chk == frameChk f && f.ver == 1 && decide (1 ≤ f.type) && decide (f.type ≤ 5) && f.domain == s.domain.toNat
    && f.dstPkg == s.pkg.toNat && decide (f.port < 4)

/-- Whether a frame is addressed to one of the package's four addresses, and has come by one of its ports (R407). -/
def frameMine (s : State) (f : Frame) : Bool :=
  decide (f.via < 4) && (List.range 4).any fun k => f.dst == macOf s.domain.toNat s.pkg.toNat k

/-- Receive a frame of a type: one for another address does not arrive, a wrong one is dropped and counted. -/
def received (type : Nat) (f : Frame) (s : State) (k : State → State) : Out :=
  .next (
    if !frameMine s f then s
    else if !frameOk s f ∨ f.type ≠ type then { s with fw := { s.fw with framesDropped := s.fw.framesDropped + 1 } }
    else k (takeAck f.srcPkg f.ackPsn (heardOn f s)))

/-! ## Operations (R405) -/

/-- Rows of an operation: far address and bytes. -/
def frameRows (f : Frame) : List (Nat × List Byte) :=
  (List.range f.nRows).map fun i => ((f.va + i * f.rowPitch) % 2 ^ 57, (f.data.drop (i * f.rowBytes)).take f.rowBytes)

/-- Whether a frame's rows translate. -/
def rowsTranslate (s : State) (f : Frame) : Bool :=
  !(frameRows f).any fun r => (rangeFault s 0 f.asid true (r.2.length / 4096 + 2) r.1 r.2.length).isSome

/-- Commands of a peer with rows that have not performed, once this frame has come: a command's first frame starts it
anew, and its last one ends it. -/
def lostAfter (done : Bool) (f : Frame) (l : List (Nat × Nat)) : List (Nat × Nat) :=
  let key := (f.srcCore, f.cmdId)
  let l := if f.firstRow = 0 then l.filter fun k => k != key else l
  let l := if done then l else key :: l
  if f.firstRow + f.nRows = f.totalRows then l.filter fun k => k != key else l

/-- The rows of a frame, cut at the sectors' bounds. -/
def frameParts (f : Frame) : List (Nat × List Byte) :=
  (frameRows f).flatMap fun r => (piecesOf r.1 r.2.length).map fun p => (p.1, (r.2.drop (p.1 - r.1)).take p.2)

/-- A push's rows perform at their home slices; DONE follows once every row of the command has. A frame whose rows do
not translate performs nothing (DESIGN CHOICE, log entry 26). -/
def doWrite (f : Frame) (s : State) : State :=
  if f.nRows = 0 then s
  else
    let ok := rowsTranslate s f
    let missed := decide (f.firstRow ≠ 0) && (getConn s f.srcPkg).lost.contains (f.srcCore, f.cmdId)
    let s := if ok then writeParts (fun r => r.1 / 64) (fun r => writeVa 0 f.asid r.1 r.2 false) (frameParts f) s else s
    let s := updConn f.srcPkg (fun c => { c with lost := lostAfter ok f c.lost }) s
    if ok ∧ !missed ∧ f.firstRow + f.nRows = f.totalRows then
      sendData f.srcPkg { frameTo s f.srcPkg 1 with op := 5, cls := f.cls, srcCore := f.srcCore, cmdId := f.cmdId } s
    else s

/-- A pull's rows are read at their home slices and returned. -/
def doReadReq (f : Frame) (s : State) : State :=
  let addr (i : Nat) : Nat := (f.va + i * f.rowPitch) % 2 ^ 57
  if (List.range f.totalRows).any fun i => (rangeFault s 0 f.asid false (f.rowBytes / 4096 + 2) (addr i) f.rowBytes).isSome then s
  else
    let rows := (List.range f.totalRows).map fun i => (readVa s 0 f.asid (addr i) f.rowBytes).1
    let per := max 1 (4096 / f.rowBytes)
    let g : Frame := { frameTo s f.srcPkg 1 with
      op := 3, cls := f.cls, srcCore := f.srcCore, cmdId := f.cmdId, rowBytes := f.rowBytes, totalRows := f.totalRows }
    (chunks per (ceilDiv rows.length per) rows).zipIdx.foldl (fun s p =>
      sendData f.srcPkg { g with nRows := p.1.length, firstRow := p.2 * per, data := p.1.flatten } s) s

/-- The loose command of a core that an answer belongs to. -/
def looseFlight (s : State) (f : Frame) : Option Flight :=
  (getCore s f.srcCore).flights.find? fun g => match g.kind with
    | .copy cp => cp.path == .package && cp.peer == f.srcPkg && cp.cmdid == f.cmdId
    | _ => false

/-- The runs of a pull with the rows of an answer filled in: `o` is where a run stands among the rows' bytes. -/
def fillRuns (lo hi : Nat) (data : List Byte) : Nat → List (Dest × List Byte) → List Bool → List ((Dest × List Byte) × Bool)
  | o, r :: rs, b :: bs =>
    (if lo ≤ o ∧ o < hi then ((r.1, (data.drop (o - lo)).take r.2.length), false) else (r, b))
      :: fillRuns lo hi data (o + r.2.length) rs bs
  | _, _, _ => []

/-- The command lands in this cycle, in its place among the cycle's landings (R151, R199); while the core is held its
landing buffers stop, and it lands in the first cycle after the hold (R24, R191). -/
def landLoose (core : Nat) (g : Flight) (s : State) : State :=
  updCoreAt core (fun c => { c with flights := c.flights.map fun h =>
    if h.seq = g.seq then { h with due := c.ctime.toNat } else h }) s

/-- Rows of a pull arrive; it lands with its last row. -/
def doReadResp (f : Frame) (s : State) : State :=
  match looseFlight s f with
  | none => s
  | some g =>
    match g.kind with
    | .copy cp =>
      let lo := f.firstRow * f.rowBytes
      let l := fillRuns lo (lo + f.nRows * f.rowBytes) f.data 0 cp.runs cp.poison
      let g' : Flight := { g with kind := .copy { cp with runs := l.map Prod.fst, poison := l.map Prod.snd } }
      let s := updCoreAt f.srcCore (fun c => { c with flights := c.flights.map fun h => if h.seq = g.seq then g' else h }) s
      if l.any Prod.snd then s else landLoose f.srcCore g' s
    | _ => s

/-- The peer has performed every row of a push, which lands. -/
def doDone (f : Frame) (s : State) : State :=
  match looseFlight s f with
  | none => s
  | some g => landLoose f.srcCore g s

/-- A peer's wake word applies to a ring of this package (R378). -/
def doWake (f : Frame) (s : State) : State := wakeLocal (ofLeBytes (f.data.take 2)) s

/-- Execute a DATA frame. -/
def doFrame (f : Frame) (s : State) : State :=
  match f.op with
  | 1 => doWrite f s
  | 2 => doReadReq f s
  | 3 => doReadResp f s
  | 4 => doWake f s
  | 5 => doDone f s
  | _ => s

/-- A frame executes, and the next PSN is expected; an ACK goes out after every 16. -/
def executeFrame (f : Frame) (s : State) : State :=
  let p := f.srcPkg
  let s := doFrame f s
  let s := updConn p (fun c => { c with rxNext := (c.rxNext + 1) % 2 ^ 32, sinceAck := c.sinceAck + 1 }) s
  if 16 ≤ (getConn s p).sinceAck then sendControl p 2 0 s else s

/-- Execute the frames kept that now follow without a gap. -/
def executeAhead (pkg : Nat) : Nat → State → State
  | 0, s => s
  | fuel + 1, s =>
    let c := getConn s pkg
    match c.ahead.find? fun f => f.psn == c.rxNext with
    | none => updConn pkg (fun c => { c with gapSince := if c.ahead.isEmpty then none else some (tempoNow s) }) s
    | some f =>
      executeAhead pkg fuel (executeFrame f (updConn pkg (fun c => { c with ahead := c.ahead.filter fun g => g.psn != f.psn }) s))

/-- Receive a DATA frame with the given operation (R406): executed in PSN order, kept ahead of a gap, dropped
elsewhere; a duplicate is acknowledged again. -/
def receiveData (op : Nat) (f : Frame) (s : State) : Out :=
  received 1 f s (fun s =>
    let f := { f with op := op }
    let p := f.srcPkg
    let s := enterStripe p f.via s
    let c := getConn s p
    let d := psnAhead f.psn c.rxNext
    if d = 0 then executeAhead p 4096 (executeFrame f s)
    else if d < 4096 then
      if c.ahead.any fun g => g.psn == f.psn then s
      else updConn p (fun c => { c with
        ahead := c.ahead ++ [f], gapSince := if c.gapSince.isNone then some (tempoNow s) else c.gapSince }) s
    else if 2 ^ 31 ≤ d then sendControl p 2 0 s
    else s)

/-! ## Meanings: DATA frames -/

/-- WRITE (R405): a push arrives. -/
def execWrite (f : Frame) (s : State) : Out := receiveData 1 f s
/-- READREQ (R405): a pull's request arrives. -/
def execReadreq (f : Frame) (s : State) : Out := receiveData 2 f s
/-- READRESP (R405): rows of a pull arrive. -/
def execReadresp (f : Frame) (s : State) : Out := receiveData 3 f s
/-- WAKE (R378, R405). -/
def execWake (f : Frame) (s : State) : Out := receiveData 4 f s
/-- DONE (R405, R409). -/
def execDone (f : Frame) (s : State) : Out := receiveData 5 f s

/-! ## Meanings: control frames and timers -/

/-- ACK (R406). -/
def execAck (f : Frame) (s : State) : Out := received 2 f s id

/-- NAK (R406): the frame it names is sent again. -/
def execNak (f : Frame) (s : State) : Out :=
  received 3 f s (fun s =>
    match (getConn s f.srcPkg).unacked.find? fun g => g.psn == f.nakPsn with
    | some g => resend f.srcPkg g s
    | none => s)

/-- PROBE (R407): answered on the port it came by. -/
def execProbe (f : Frame) (s : State) : Out :=
  received 4 f s (fun s => emit f.srcPkg f.via (frameTo s f.srcPkg 5) s)

/-- PROBEACK (R407): its port enters the stripe. -/
def execProbeack (f : Frame) (s : State) : Out := received 5 f s (fun s => enterStripe f.srcPkg f.via s)

/-- Packages that a binding names. -/
def boundPeers (s : State) : List Nat := (s.peers.filterMap fun e => e.2.map fun _ => e.1 % 65536).eraseDups

/-- PROBE_PERIOD (R407): each millisecond, a PROBE on each port that has link to each bound peer. -/
def execProbePeriod (s : State) : Out :=
  let s := { s with nextProbe := tempoNow s + 1500000 }
  .next ((boundPeers s).foldl (fun s p =>
    (List.range 4).foldl (fun s k => if bitAt s.links k then emit p k (frameTo s p 4) s else s) s) s)

/-- STRIPE_TIMEOUT (R407): three probe periods with no frame of the peer on a port. -/
def execStripeTimeout (pkg port : Nat) (s : State) : Out :=
  let c := getConn s pkg
  .next (if c.stripe.contains port ∧ KMap.get 0 c.heard port + 4500000 ≤ tempoNow s + 1 then
    leaveStripe pkg port s
  else s)

/-- PORT_LINK_LOSS (R403, R407): the port leaves every stripe, and its frames go again on the others. -/
def execPortLinkLoss (port : Nat) (s : State) : Out :=
  let s := { s with links := s.links &&& ~~~(BitVec.ofNat 4 (2 ^ port)) }
  .next ((s.conns.map Prod.fst).foldl (fun s pkg =>
    let c := getConn s pkg
    if c.stripe.contains port then
      let s := leaveStripe pkg port s
      ((c.unacked.take 4096).filter fun f => f.port == port).foldl (fun s f => emitStriped pkg f s) s
    else s) s)

/-- Connections that satisfy a test. -/
def connsWith (p : Conn → Bool) (s : State) : List Nat := (s.conns.filter fun e => p e.2).map Prod.fst

/-- An ACK is due: frames executed, and 2,048 cycles since the last one. -/
def ackDue (s : State) (c : Conn) : Bool := decide (0 < c.sinceAck) && decide (c.lastAck + 2048 ≤ tempoNow s) && !c.stripe.isEmpty

/-- ACK_INTERVAL (R406). -/
def execAckInterval (s : State) : Out := .next ((connsWith (ackDue s) s).foldl (fun s p => sendControl p 2 0 s) s)

/-- A gap has stood for 2,048 cycles. -/
def nakDue (s : State) (c : Conn) : Bool :=
  (match c.gapSince with
    | some t => decide (t + 2048 ≤ tempoNow s)
    | none => false) && !c.stripe.isEmpty

/-- GAP_NAK (R406): the first missing PSN is named, and again where the gap stands as long once more. -/
def execGapNak (s : State) : Out :=
  .next ((connsWith (nakDue s) s).foldl (fun s p =>
    sendControl p 3 (getConn s p).rxNext (updConn p (fun c => { c with gapSince := some (tempoNow s) }) s)) s)

/-- ACKPSN has not advanced for 30,000 cycles. -/
def resendDue (s : State) (c : Conn) : Bool :=
  !c.unacked.isEmpty && decide (c.lastAdvance + 30000 ≤ tempoNow s) && !c.stripe.isEmpty

/-- RETRANSMIT_TIMEOUT (R406): the oldest unacknowledged frame is sent again. -/
def execRetransmitTimeout (s : State) : Out :=
  .next ((connsWith (resendDue s) s).foldl (fun s p =>
    match (getConn s p).unacked with
    | f :: _ => resend p f (updConn p (fun c => { c with lastAdvance := tempoNow s }) s)
    | [] => s) s)

end Sys2Proof.Machine
end

