-- ==== Sys2Proof/Machine/Package.lean ====
section
/-! DEFINITION. The package's own events: refresh and temperature (R252, R254), calibration by the firmware
(R309), power and fold maps (R14, R125, R410, R411), and reset (R412). -/

namespace Sys2Proof.Machine

/-! ## Refresh (R252, R254) -/

/-- Whether a running segment holds a normal latch for the stack of a die. -/
def normalHeld (s : State) (d : Nat) : Bool :=
  (List.range nCores).any fun k =>
    let c := getCore s k
    c.resident && (c.ctx.seg.phase == .running || c.ctx.seg.phase == .closing) && !bitAt c.ctx.latched d

/-- The next bank of a die's burst slot, or the next slot. -/
def nextBurst (d : Die) : Die :=
  if 511 ≤ d.burstBank then { d with burstBank := 0, burstAt := d.burstAt + 131072 } else { d with burstBank := d.burstBank + 1 }

/-- Whether a die's present slot is an extra one: an odd multiple of 2^17. -/
def extraSlot (d : Die) : Bool := d.burstAt / 131072 % 2 == 1

/-- REFRESH_BURST (R252, R254): the bank's burst is issued, or in an extra slot of a hot stack that still keeps
the normal cadence it is postponed; a ninth postponement is the deadline. (DEDUCED, log entry 43.) -/
def execRefreshBurst (die bank : Nat) (s : State) : Out :=
  .next (updDie die (fun d =>
    let e := nextBurst d
    if extraSlot d && d.hot && !d.doubled then
      let n := KMap.get 0 d.postponed bank
      if 8 ≤ n then { e with deadline := true } else { e with postponed := KMap.set 0 d.postponed bank (n + 1) }
    else e) s)

/-- Whether a die is to issue its postponed bursts: no running segment holds a normal latch for it. -/
def burstsReleased (s : State) (d : Nat) : Bool := (getDie s d).hot && !(getDie s d).doubled && !normalHeld s d

/-- POSTPONED_BURSTS_ISSUED (R254): the bursts are issued and the doubled cadence begins. -/
def execPostponedBurstsIssued (s : State) : Out :=
  .next ((List.range nDies).foldl (fun s d =>
    if burstsReleased s d then updDie d (fun x => { x with doubled := true, postponed := [] }) s else s) s)

/-- A segment that has latched normal and not been released when the stack of a die turns hot latches doubled, so
that none is released with a normal latch (R254; DEDUCED, log entry 29): with REFMIN it takes 0x21 precisely at
its ALIGN, and a tape that is played is left, with that reason or with reason 9 (R342). A gang that waits to be released again cannot be, and misses its start
(log entry 41). -/
def relatch (d : Nat) (s : State) : State :=
  let c := curCore s
  let p := c.ctx.seg.phase
  if !c.resident ∨ (p ≠ .pre ∧ p ≠ .waiting) ∨ bitAt c.ctx.latched d then s
  else if c.play.on then leaveTape (some (if hdrRefmin c.ctx.seg.hdr then 0x21 else 9)) (updCore restoreRelease s)
  else
    let s := latchModes (c.ctx.latched ||| BitVec.ofNat 8 (2 ^ d)) s
    if hdrRefmin c.ctx.seg.hdr && !c.ctx.seg.reReleased then alignFault 0x21 s else s

/-- TEMPERATURE_CROSSING (R252): the stack's hottest bank reads `celsius`. (DESIGN CHOICE, log entry 48.) What was
postponed for a stack that turns normal again is dropped (R254; DESIGN CHOICE, log entry 98). -/
def execTemperatureCrossing (die : Nat) (celsius : Int) (s : State) : Out :=
  let d := getDie s die
  let s := updDie die (fun x => { x with celsius := celsius }) s
  .next (
    if 85 ≤ celsius ∧ !d.hot then
      forCores (fun k s => onCore k (relatch die) s) (updDie die (fun x => { x with hot := true }) s)
    else if celsius ≤ 80 ∧ d.hot then
      updDie die (fun x => { x with hot := false, doubled := false, postponed := [], deadline := false }) s
    else s)

/-! ## Calibration (R309) -/

/-- The core on which the holder of an aperture stands. -/
def holderCore (s : State) (a : Aperture) : Option Nat :=
  match a.owner with
  | none => none
  | some (t, i) => (List.range nCores).find? fun k =>
    let c := getCore s k
    c.resident && c.ctx.task == t && c.ctx.spidx == i

/-- Whether an aperture is due for recalibration: 10 s of tempo in which it was granted, 2 °C from TREF, or a
recalibration that waits (R309). -/
def recalDue (x : Aperture) : Bool :=
  decide (15000000000 ≤ x.granted) || decide (128 ≤ ((x.temp.toNat : Int) - (trefNow x).toNat).natAbs) || x.recal

/-- Whether the firmware may recalibrate an aperture now: its own calibration is in force, and the holder, if
there is one, stands at a pre-emption point. -/
def recalAllowed (s : State) (a : Nat) : Bool :=
  let x := getAperture s a
  x.cal.isNone && (x.owner.isNone || match holderCore s x with
    | some k => atPoint (focus k s)
    | none => false)

/-- FIRMWARE_RECALIBRATION (R309): the holding context waits at its point for at most 30,000 cycles, which the
watchdog does not count. Where the holder stands at none, it waits for the next one. -/
def execFirmwareRecalibration (aperture : Nat) (s : State) : Out :=
  if !recalAllowed s aperture then .next (updAperture aperture (fun y => { y with recal := y.cal.isNone }) s)
  else
    let (n, s) := drawOracle s
    let x := getAperture s aperture
    let s := match holderCore s x with
      | some k => updCoreAt k (fun c => { c with recalUntil := max c.recalUntil (c.ctime.toNat + 1 + n % 30000) }) s
      | none => s
    .next (updAperture aperture (fun y => { y with
      own := y.own + 1, lent := none, tref := y.temp, epoch := y.epoch + 1, granted := 0, recal := false }) s)

/-! ## Power and fold maps (R14, R125, R410, R411) -/

/-- The class of a core whose plies of `hot` are throttled: no HALF bit above the highest live ply, and 0x77 in
place of 0xFF (R125). A core with four half-width hops and a dead ply keeps its class: 0x77 would make that ply
live. (DEDUCED, log entry 79.) -/
def foldClassOf (live half : Nat) : BitVec 8 :=
  let top := if 8 ≤ live then 3 else if 4 ≤ live then 2 else if 2 ≤ live then 1 else 0
  let half := half % 2 ^ (top + 1)
  if live = 15 ∧ half = 15 then 0x77 else BitVec.ofNat 8 (half * 16 + live)

/-- The class that the throttled plies of a core leave it. -/
def throttledClass (c : Core) : BitVec 8 :=
  let live := liveOf (c.fold &&& ~~~(c.hotPlies.setWidth 8))
  foldClassOf live (halfOf c.fold)

/-- FOLD_MAP_CHANGE (R14, R125): only while no context is resident. A ply that has not passed its test stays dead
(R17). A core with no live ply is out of service. (DEDUCED, log entry 60.) -/
def execFoldMapChange (core : Nat) (cls : BitVec 8) (s : State) : Out :=
  let live := liveOf (cls &&& (getDie s (dieOf core)).plymask.setWidth 8)
  .next (updCoreAt core (fun c =>
    if c.resident then c
    else if live = 0 then { c with inService := false, hotPlies := 0 }
    else { c with fold := foldClassOf live (halfOf cls), inService := true, hotPlies := 0 }) s)

/-- LOGIC_PLY_JUNCTION_LIMIT (R411): the ply counts as throttled on each core of the die at its next task
boundary. -/
def execLogicPlyJunctionLimit (die ply : Nat) (s : State) : Out :=
  .next ((coresOf die).foldl (fun s k => updCoreAt k (fun c =>
    { c with hotPlies := c.hotPlies ||| BitVec.ofNat 4 (2 ^ ply) }) s) s)

/-- The lowest priority among resident contexts. -/
def lowestPriority (s : State) : Nat :=
  ((List.range nCores).filter fun k => (getCore s k).resident).foldl (fun n k => min n (getCore s k).ctx.prio.toNat) 3

/-- The highest live ply of a core that has another. -/
def plyToDrop (c : Core) : BitVec 4 := if 2 ≤ foldDepth c.fold then BitVec.ofNat 4 (2 ^ foldTop c.fold) else 0

/-- POWER_CAP_EXCEEDED (R410): the average of a millisecond, in milliwatts. After ten above the cap in a row the
resident contexts of lowest priority are asked to leave, and their cores lose a ply before another context
comes. (DESIGN CHOICE, log entry 59.) -/
def execPowerCapExceeded (milliwatts : Nat) (s : State) : Out :=
  let n := if s.fw.cap * 1000 < milliwatts then s.fw.overMs + 1 else 0
  if n < 10 then .next { s with fw := { s.fw with overMs := n } }
  else
    let p := lowestPriority s
    let s := { s with fw := { s.fw with overMs := 0 } }
    .next (forCores (fun k s =>
      let c := getCore s k
      if c.resident && c.ctx.prio.toNat == p then
        requestPreempt k (updCoreAt k (fun c => { c with hotPlies := c.hotPlies ||| plyToDrop c }) s)
      else s) s)

/-- THERMAL_TRIP (R411): the hub removes package power. -/
def execThermalTrip (s : State) : Out := .next { s with powered := false, host := { s.host with up := false } }

/-! ## Reset (R389, R412) -/

/-- What is set at manufacture stays with a die through a reset: which plies passed their test (R17). -/
def resetDies (s : State) : KMap Die :=
  (List.range nDies).foldl (fun m d => KMap.set Die.reset m d { Die.reset with plymask := (getDie s d).plymask }) []

/-- The fold maps that the firmware sets from PLYMASK: every ply that passed its test is live, at full width, and a
core that has none is out of service (R17, R412 step 2; DESIGN CHOICE, log entry 11). -/
def resetCores (s : State) : KMap Core :=
  (List.range nCores).foldl (fun m k =>
    let live := (getDie s (dieOf k)).plymask.toNat
    KMap.set Core.reset m k { Core.reset with fold := foldClassOf live 0, inService := live != 0 }) []

/-- The hub after a reset: flash with its active slot, what is fused and the boot code stay. The boot code accepts the
active image or the complex stays locked (R389), and derives the attestation key (R390). -/
def bootFirmware (f : Firmware) : Firmware :=
  let b : Firmware := { Firmware.reset with
    slotB := f.slotB, imageA := f.imageA, imageB := f.imageB, minSvn := f.minSvn, secret := f.secret
    keyDigest := f.keyDigest, key := f.key, bootCode := f.bootCode }
  { b with
    complex := if imageOk b (activeImage b) then .running else .locked
    attKey := Config.deriveKey b.secret (digestOf (flashBytes (activeImage b))) }

/-- PACKAGE_RESET (R412): the machine of `State.reset`; what is set at manufacture, flash, host memory and what the
outside still sends stay. Device memory then reads as memory never written (DESIGN CHOICE, log entry 2). -/
def execPackageReset (s : State) : Out :=
  .next { State.reset with
    cores := resetCores s, dies := resetDies s, fw := bootFirmware s.fw, hostMem := s.hostMem
    inputs := s.inputs.map fun e => (e.1 - tempoNow s, e.2)
    stimuli := s.stimuli.map fun e => (e.1 - tempoNow s, e.2)
    oracle := s.oracle, free := s.free }

end Sys2Proof.Machine
end

