-- ==== Sys2Proof/Machine/Pick.lean ====
section
/-! DEFINITION. What happens next: the order of the events of one cycle (R23, R24, R366), the registers a word
waits for (R70), and the fetch (R45, R46, R40). Which event comes first among those of different agents in one
cycle is the model's choice (DESIGN CHOICE, log entry 28). -/

namespace Sys2Proof.Machine

/-- The next step: an event, a word with its size in bytes, or a word that is no instruction; each with the state
it acts on, its core in focus. -/
inductive Action where
  | event (i : Instr) (s : State)
  | word (i : Instr) (size : Nat) (s : State)
  | illegal (code : Nat) (s : State)
  deriving DecidableEq, Repr

/-! ## Outside events -/

/-- Who an event comes from: 0 from the package itself, 1 from outside (the host, peers, sensors), 2 from outside
through a firmware function, which a frozen complex keeps waiting (R388). -/
def originOf : Instr → Nat
  | .add _ _ _ => 0
  | .sub _ _ _ => 0
  | .mul _ _ _ => 0
  | .mulh _ _ _ => 0
  | .mulhu _ _ _ => 0
  | .div _ _ _ => 0
  | .divu _ _ _ => 0
  | .rem _ _ _ => 0
  | .remu _ _ _ => 0
  | .and _ _ _ => 0
  | .or _ _ _ => 0
  | .xor _ _ _ => 0
  | .shl _ _ _ => 0
  | .shr _ _ _ => 0
  | .sar _ _ _ => 0
  | .min _ _ _ => 0
  | .max _ _ _ => 0
  | .minu _ _ _ => 0
  | .maxu _ _ _ => 0
  | .slt _ _ _ => 0
  | .sltu _ _ _ => 0
  | .seq _ _ _ => 0
  | .clz _ _ => 0
  | .popc _ _ => 0
  | .mov _ _ => 0
  | .lea _ _ _ _ => 0
  | .madd _ _ _ => 0
  | .sel _ _ _ => 0
  | .fsh _ _ _ _ => 0
  | .bfx _ _ _ _ => 0
  | .bfi _ _ _ _ => 0
  | .addi _ _ _ => 0
  | .andi _ _ _ => 0
  | .ori _ _ _ => 0
  | .xori _ _ _ => 0
  | .shli _ _ _ => 0
  | .shri _ _ _ => 0
  | .sari _ _ _ => 0
  | .liw _ _ => 0
  | .lih _ _ => 0
  | .ldB _ _ _ _ => 0
  | .ldH _ _ _ _ => 0
  | .ldW _ _ _ _ => 0
  | .ldD _ _ _ _ => 0
  | .stB _ _ _ _ => 0
  | .stH _ _ _ _ => 0
  | .stW _ _ _ _ => 0
  | .stD _ _ _ _ => 0
  | .ldsB _ _ _ _ => 0
  | .ldsH _ _ _ _ => 0
  | .ldsW _ _ _ _ => 0
  | .ldsD _ _ _ _ => 0
  | .stsB _ _ _ _ => 0
  | .stsH _ _ _ _ => 0
  | .stsW _ _ _ _ => 0
  | .stsD _ _ _ _ => 0
  | .amoAdd _ _ _ _ _ _ => 0
  | .amoAnd _ _ _ _ _ _ => 0
  | .amoOr _ _ _ _ _ _ => 0
  | .amoXor _ _ _ _ _ _ => 0
  | .amoMin _ _ _ _ _ _ => 0
  | .amoMax _ _ _ _ _ _ => 0
  | .amoSwap _ _ _ _ _ _ => 0
  | .cas _ _ _ _ _ _ => 0
  | .ptb _ _ => 0
  | .bEq _ _ _ _ => 0
  | .bNe _ _ _ _ => 0
  | .bLt _ _ _ _ => 0
  | .bGe _ _ _ _ => 0
  | .bLtu _ _ _ _ => 0
  | .bGeu _ _ _ _ => 0
  | .jmp _ _ => 0
  | .bPnz _ _ => 0
  | .bPz _ _ => 0
  | .call _ _ => 0
  | .ret _ => 0
  | .loopw _ _ => 0
  | .segb _ => 0
  | .align _ => 0
  | .waitc _ _ _ _ => 0
  | .gets _ _ => 0
  | .sets _ _ => 0
  | .trap _ => 0
  | .fenceFull _ _ => 0
  | .fenceAcq _ _ => 0
  | .fenceRel _ _ => 0
  | .tapePlay _ => 0
  | .tapePatch _ _ => 0
  | .tapeGuard _ _ => 0
  | .barInit _ _ => 0
  | .barArrive _ => 0
  | .barWait _ _ => 0
  | .barTest _ _ => 0
  | .ways _ => 0
  | .flush _ _ _ => 0
  | .inval _ _ _ => 0
  | .discard _ _ _ => 0
  | .pref _ _ _ => 0
  | .sdef _ _ => 0
  | .sset _ _ _ => 0
  | .sget _ _ _ => 0
  | .sadv _ _ => 0
  | .hintRegion _ => 0
  | .recordForward _ => 0
  | .mark _ => 0
  | .mma _ => 0
  | .mpass _ => 0
  | .mzero _ => 0
  | .mload _ => 0
  | .mdrain _ => 0
  | .mstore _ => 0
  | .mrep _ => 0
  | .mchain _ => 0
  | .vadd _ => 0
  | .vsub _ => 0
  | .vmul _ => 0
  | .vfma _ => 0
  | .vmin _ => 0
  | .vmax _ => 0
  | .vabs _ => 0
  | .vneg _ => 0
  | .vmulh _ => 0
  | .vand _ => 0
  | .vor _ => 0
  | .vxor _ => 0
  | .vnot _ => 0
  | .vshl _ => 0
  | .vshr _ => 0
  | .vsar _ => 0
  | .vbfx _ => 0
  | .vfsh _ => 0
  | .vpopc _ => 0
  | .vclz _ => 0
  | .vcmp _ => 0
  | .vsel _ => 0
  | .vmov _ => 0
  | .vspl _ => 0
  | .viota _ => 0
  | .vcvt _ => 0
  | .vqnt _ => 0
  | .vdq _ => 0
  | .vrotr _ => 0
  | .vrotc _ => 0
  | .vbcr _ => 0
  | .vbcc _ => 0
  | .vredr _ => 0
  | .vredc _ => 0
  | .vscanr _ => 0
  | .vscanc _ => 0
  | .vtrb _ => 0
  | .vld _ => 0
  | .vst _ => 0
  | .vpop _ => 0
  | .vgath _ => 0
  | .vscat _ => 0
  | .vlut _ => 0
  | .vpart _ => 0
  | .vcnt _ => 0
  | .vamo _ => 0
  | .frcp _ => 0
  | .frsq _ => 0
  | .fsqrt _ => 0
  | .fexp2 _ => 0
  | .flog2 _ => 0
  | .fsin _ => 0
  | .fcos _ => 0
  | .ftanh _ => 0
  | .fsig _ => 0
  | .cpy _ => 0
  | .cpyL _ => 0
  | .cpyG _ => 0
  | .cpyS _ => 0
  | .cpyXMemory _ => 0
  | .cpyXScratchpad _ => 0
  | .cpyZ _ => 0
  | .cpyD _ => 0
  | .cpyW _ => 0
  | .oxf _ => 0
  | .oxc _ => 0
  | .omask _ => 0
  | .ocal _ => 0
  | .owin _ => 0
  | .oref _ => 0
  | .nbScore _ => 0
  | .nbSel _ => 0
  | .nbPut _ => 0
  | .nbStat _ => 0
  | .copyLanding _ => 0
  | .scalarLoadLanding _ => 0
  | .landingStage _ => 0
  | .drainPush _ => 0
  | .vectorLanding _ => 0
  | .opticalOutputLanding _ => 0
  | .nbScoreLanding _ => 0
  | .vamoAcknowledgement _ => 0
  | .barrierArrival _ => 0
  | .resumption _ _ _ => 0
  | .launch _ _ => 0
  | .abortRequest _ _ => 0
  | .ringScan _ => 0
  | .launchReady _ => 0
  | .launchPlacement _ _ _ => 0
  | .launchCompletion _ => 0
  | .hostWake _ => 1
  | .resolve _ _ => 0
  | .negotiate _ _ => 2
  | .config _ _ => 2
  | .ringreg _ _ => 2
  | .ringdel _ _ => 2
  | .alloc _ _ _ => 2
  | .free _ _ => 2
  | .peerbind _ _ => 2
  | .reprd _ => 1
  | .hostMemoryRead _ _ => 1
  | .hostMemoryWrite _ _ => 1
  | .spdmRequest _ => 2
  | .lockstepMismatch _ => 1
  | .liveUpdate _ => 2
  | .firmwareRecalibration _ => 2
  | .refreshBurst _ _ => 0
  | .temperatureCrossing _ _ => 1
  | .powerCapExceeded _ => 1
  | .foldMapChange _ _ => 2
  | .write _ => 1
  | .readreq _ => 1
  | .readresp _ => 1
  | .wake _ => 1
  | .done _ => 1
  | .ack _ => 1
  | .nak _ => 1
  | .probe _ => 1
  | .probeack _ => 1
  | .stripeTimeout _ _ => 0
  | .portLinkLoss _ => 1
  | .accessPerforms _ => 0
  | .hostLinkCompletion _ => 0
  | .engineAccessPerform _ => 0
  | .effectivePriorityPromotion _ => 0
  | .tapeAffinityWaitExpiry _ => 0
  | .pageEviction _ _ _ => 2
  | .logicPlyJunctionLimit _ _ => 1
  | .recordHintRegionIssue _ => 0
  | .leave => 0
  | .sege => 0
  | .eret => 0
  | .endCtx => 0
  | .yield => 0
  | .tapeRec => 0
  | .tapeEnd => 0
  | .tapeDrop => 0
  | .nop => 0
  | .segmentRelease => 0
  | .gangStartMissed => 0
  | .segeCompletion => 0
  | .walkCompletion => 0
  | .gangReRelease => 0
  | .replayResume => 0
  | .refreshDeadline => 0
  | .looseCodeWatchdog => 0
  | .looseCopyOverrun => 0
  | .barWaitCompletion => 0
  | .waitcSatisfied => 0
  | .waysChange => 0
  | .waysRetire => 0
  | .preemption => 0
  | .periodicReadinessTest => 0
  | .abandon => 0
  | .heartbeat => 1
  | .heartbeatMissed => 0
  | .postponedBurstsIssued => 0
  | .thermalTrip => 1
  | .packageReset => 1
  | .probePeriod => 0
  | .playedForward => 0
  | .ackInterval => 0
  | .gapNak => 0
  | .retransmitTimeout => 0
  | .coreClockCycle => 0
  | .machineCheck => 1

def isOutside (i : Instr) : Bool := originOf i != 0
def needsFirmware (i : Instr) : Bool := originOf i == 2

/-- Take an input off the list. A machine check falls on a core of the oracle's choice. (DESIGN CHOICE, log entry 61.) -/
def takeInput (e : Nat × Instr) (s : State) : Action :=
  let s := { s with inputs := s.inputs.erase e }
  match e.2 with
  | .machineCheck =>
    let (n, s) := drawOracle s
    .event .machineCheck (focus (n % nCores) s)
  | i => .event i s

/-- The first outside event that has arrived. (DESIGN CHOICE, log entry 25.) -/
def nextInput (s : State) : Option Action :=
  (s.inputs.find? fun e => decide (e.1 ≤ tempoNow s) && isOutside e.2 && (complexRuns s || !needsFirmware e.2)).map
    fun e => takeInput e s

/-- A package reset among the inputs of a package without power. -/
def nextReset (s : State) : Option Action :=
  (s.inputs.find? fun e => e.2 == .packageReset).map fun e => takeInput e s

/-! ## The firmware's work -/

/-- Where the memory manager puts a page that comes back: the place of the oracle's number where it is free, else the
lowest free one. A free place starts a stack or follows a stretch in use, where any is left. -/
def pageChoice (s : State) (core : Nat) : AllocChoice × State :=
  let (n, s) := drawOracle s
  let flags := match allocOf s (getCore s core).ctx.asid (mailWord s core 8).toNat with
    | some a => a.flags
    | none => 0
  let unit := if bitsAt flags 0 4 = 0 then allocPageSize flags / 8 else allocPageSize flags
  let ends := (usedStretches s).map fun f => ceilDiv (f.1 % 2 ^ 36 + f.2) unit * unit
  let least := ((0 :: ends).filter (placeOk s flags)).foldl (fun (b : Option Nat) p => some (min p (b.getD p))) none
  let place := if placeOk s flags (n * unit) then some (n * unit) else least
  (⟨0, place.toList, [], 0⟩, s)

/-- The oldest mailbox request: abandon, or anything else. -/
def nextMail (s : State) : Option Action :=
  match s.mailbox with
  | [] => none
  | k :: _ =>
    if bitsAt (mailWord s k 0) 0 8 = 2 then some (.event .abandon (focus k s))
    else
      let (c, s) := pageChoice s k
      some (.event (.resolve k c) s)

/-- A packet that the parser has copied. -/
def nextPacket (s : State) : Option Action :=
  match s.packets with
  | [] => none
  | (ring, p) :: _ => some (.event (if pktType p = 2 then .abortRequest ring p else .launch ring p) s)

/-- The first task, in launch order, that satisfies a test. -/
def firstTask (p : Task → Bool) (s : State) : Option Nat := (s.tasks.find? fun e => p e.2).map Prod.fst

/-- The first of a list of choices that finds something. -/
def firstOf (l : List (State → Option Action)) (s : State) : Option Action := l.findSome? fun f => f s

/-- The event a test of State makes of what it finds. -/
def eventOn {α : Type} (o : Option α) (f : α → Instr) (s : State) : Option Action :=
  match o with
  | some a => some (Action.event (f a) s)
  | none => none

/-- An event that is due while a condition holds. -/
def eventIf (b : Bool) (i : Instr) (s : State) : Option Action := if b then some (Action.event i s) else none

/-- A FREE that waited and may go on (R399). -/
def fwFree (s : State) : Option Action := eventOn (pendingFree s) (fun k => Instr.free k (slotRequest s k)) s

/-- An eviction whose page may move now (R247). -/
def fwEvict (s : State) : Option Action :=
  eventOn (pendingEviction s) (fun p => Instr.pageEviction p.1 p.2.1 p.2.2) s

/-- A ring that was woken (R376). -/
def fwRing (s : State) : Option Action :=
  eventOn (s.rings.find? fun e => e.2.live && e.2.woken && !e.2.overrun && ringReadable s e.2) (fun e => Instr.ringScan e.1) s

/-- A launch to test for readiness (R381). -/
def fwReady (s : State) : Option Action :=
  eventOn (firstTask (fun t => t.life == .queued && t.test) s) Instr.launchReady s

/-- A launch whose contexts have all ended (R386). -/
def fwDone (s : State) : Option Action :=
  eventOn (firstTask (fun t => t.life == .ready && allEnded t) s) Instr.launchCompletion s

/-- A launch that has waited long enough to be promoted (R383). -/
def fwPromote (s : State) : Option Action :=
  eventOn (firstTask (fun t => !(waitingCtxs t).isEmpty && decide (t.eff.toNat < (effectiveNow s t).toNat)) s)
    Instr.effectivePriorityPromotion s

/-- A launch whose wait for the core of its tape is over (R379). -/
def fwAffinity (s : State) : Option Action :=
  eventOn (firstTask (fun t => t.aff == 2 && t.affUntil != 0 && decide (t.affUntil ≤ tempoNow s)) s)
    Instr.tapeAffinityWaitExpiry s

/-- The periodic readiness test (R381). -/
def fwPeriodic (s : State) : Option Action :=
  eventIf (decide (s.fw.nextTest ≤ tempoNow s)) Instr.periodicReadinessTest s

/-- The instruction that a scheduler's choice is. -/
def choiceInstr : Choice → Instr
  | .start t i k => .launchPlacement t i k
  | .resume t i k => .resumption t i k

/-- A placement or a resumption (R379, R383). -/
def fwPlace (s : State) : Option Action := eventOn (nextChoice s) choiceInstr s

/-- What the firmware does next. -/
def nextFirmware (s : State) : Option Action :=
  if complexRuns s then
    firstOf [fwFree, fwEvict, nextMail, nextPacket, fwRing, fwReady, fwDone, fwPromote, fwAffinity, fwPeriodic, fwPlace] s
  else none

/-! ## The package's timers -/

/-- A stripe member with no frame for three probe periods. -/
def stripeStale (s : State) : Option (Nat × Nat) :=
  s.conns.findSome? fun e =>
    (e.2.stripe.find? fun p => decide (KMap.get 0 e.2.heard p + 4500000 ≤ tempoNow s + 1)).map fun p => (e.1, p)

/-- Whether a released stack exists whose postponed bursts are to be issued. -/
def anyReleased (s : State) : Bool := (List.range nDies).any (burstsReleased s)

/-- An image that has not raised its heartbeat in time (R391). -/
def timerHeartbeat (s : State) : Option Action :=
  match s.fw.complex with
  | .updating _ t => eventIf (decide (t ≤ tempoNow s)) Instr.heartbeatMissed s
  | _ => none

/-- A probe period (R407). -/
def timerProbe (s : State) : Option Action := eventIf (decide (s.nextProbe ≤ tempoNow s)) Instr.probePeriod s

def timerStripe (s : State) : Option Action := eventOn (stripeStale s) (fun p => Instr.stripeTimeout p.1 p.2) s

def timerResend (s : State) : Option Action := eventIf (!(connsWith (resendDue s) s).isEmpty) Instr.retransmitTimeout s

def timerNak (s : State) : Option Action := eventIf (!(connsWith (nakDue s) s).isEmpty) Instr.gapNak s

def timerAck (s : State) : Option Action := eventIf (!(connsWith (ackDue s) s).isEmpty) Instr.ackInterval s

/-- A bank whose postponement has reached its limit (R254). -/
def timerDeadline (s : State) : Option Action :=
  match (List.range nDies).find? fun d => (getDie s d).deadline with
  | some d => some (Action.event Instr.refreshDeadline (focus (16 * d) s))
  | none => none

def timerPostponed (s : State) : Option Action := eventIf (anyReleased s) Instr.postponedBurstsIssued s

/-- A burst slot (R252). -/
def timerBurst (s : State) : Option Action :=
  eventOn ((List.range nDies).find? fun d => decide ((getDie s d).burstAt ≤ tempoNow s))
    (fun d => Instr.refreshBurst d (getDie s d).burstBank) s

/-- An aperture that is due for recalibration (R309). -/
def timerRecal (s : State) : Option Action :=
  if complexRuns s then
    eventOn ((List.range (2 * nDies)).find? fun a => recalDue (getAperture s a) && recalAllowed s a)
      Instr.firmwareRecalibration s
  else none

/-- A core between tasks with a ply to take out of service (R411). -/
def timerFold (s : State) : Option Action :=
  if complexRuns s then
    eventOn (s.cores.find? fun e => !e.2.resident && e.2.hotPlies != 0)
      (fun e => Instr.foldMapChange e.1 (throttledClass e.2)) s
  else none

/-- A barrier arrival that reaches its copy (R284). -/
def timerArrival (s : State) : Option Action :=
  eventOn (s.arrivals.find? fun m => m.waits.isEmpty && decide (m.due ≤ tempoNow s)) Instr.barrierArrival s

/-- What the package's own timers do next. -/
def nextTimer (s : State) : Option Action :=
  firstOf [timerHeartbeat, timerProbe, timerStripe, timerResend, timerNak, timerAck, timerDeadline, timerPostponed,
    timerBurst, timerRecal, timerFold, timerArrival] s

/-! ## A core's events, in the order of a cycle -/

/-- Cores with a resident context. -/
def activeCores (s : State) : List Nat := (s.cores.filter fun e => e.2.resident).map Prod.fst

/-- A hold comes to its end, or its replay to the next cycle of the window (R362). -/
def holdEnds (s : State) : Option Instr :=
  let g := (curCtx s).seg
  match (curCore s).hold with
  | .walk t => if t ≤ tempoNow s then some .walkCompletion else none
  | .replay t => if t ≤ tempoNow s + (g.replayEnd + 1 - g.replayAt) then some .replayResume else none
  | _ => none

/-- Whether a pending access of the core in focus performs in this cycle. -/
def accessDue (s : State) (a : Access) : Bool :=
  let c := curCore s
  unblocked s a && !storeWaits c a && (if a.shadow then decide (a.due ≤ tempoNow s) else c.hold == .none && decide (a.due ≤ c.ctime.toNat))

/-- A pending store or load of the core in focus that performs. -/
def accessNext (s : State) (loads : Bool) : Option Instr :=
  ((curCore s).pend.find? fun a => (a.kind == .load) == loads && accessDue s a).map fun a =>
    if a.host then .hostLinkCompletion a else .accessPerforms a

def storeNext (s : State) : Option Instr := accessNext s false
def loadNext (s : State) : Option Instr := accessNext s true

/-- The event of a flight that lands. -/
def flightInstr (f : Flight) : Instr :=
  match f.kind with
  | .vec _ _ _ => .vectorLanding f
  | .mx _ _ => .landingStage f
  | .push _ _ => .drainPush f
  | .copy _ => .copyLanding f
  | .clean _ _ => .copyLanding f
  | .optical _ _ => .opticalOutputLanding f
  | .nbList _ _ _ => .nbScoreLanding f
  | .load _ _ _ => .scalarLoadLanding f
  | .vamo _ _ _ => .vamoAcknowledgement f
  | _ => .engineAccessPerform f

/-- The first flight of the core in focus that is due and waits for nothing. In a hold none lands, and so no lane of a
VAMO performs (R24, R187; DESIGN CHOICE, log entry 97). -/
def landingDue (s : State) : Option Flight :=
  let c := curCore s
  if c.hold != .none then none
  else firstFlight (fun f => decide (f.due ≤ c.ctime.toNat) && !landingWaits c f) c.flights

/-- The order in which the flights of several cores land in one cycle: what is overdue, then by column, then the one
that started earlier, so that the later prevails (R151, R199); among equals by core (DESIGN CHOICE, log entry 28). -/
def landingKey (s : State) (f : Flight) : List Nat :=
  let t := now s
  [2 ^ 64 - (t - f.due), landingPart f, f.col, 2 ^ 64 - (t - f.issued), s.cur]

/-- The first landing of this cycle among some cores: the core and its flight. -/
def firstLanding (s : State) (ks : List Nat) : Option (Nat × Flight) :=
  ks.foldl (fun b k => match landingDue (focus k s), b with
    | none, _ => b
    | some f, none => some (k, f)
    | some f, some g =>
      if lexBefore (landingKey (focus k s) f) (landingKey (focus g.1 s) g.2) then some (k, f) else b) none

def landingNext (s : State) : Option Action :=
  (firstLanding s (activeCores s)).map fun g => .event (flightInstr g.2) (focus g.1 s)

/-- A loose copy of the core in focus that is late (R207), and the watchdog (R43). -/
def overdueNext (s : State) : Option Instr :=
  let c := curCore s
  if c.hold == .none && c.flights.any fun f => (match f.kind with
      | .copy cp => isLoose cp.path && decide (f.issued + 2 ^ 20 ≤ c.ctime.toNat)
      | _ => false) then some .looseCopyOverrun
  else if watchdogLimit s c.ctx.prio.toNat < c.watchdog then some .looseCodeWatchdog
  else none

/-- A segment release of the core in focus, or a gang start that is missed (R32, R34, R35). -/
def releaseNext (s : State) : Option Instr :=
  let g := (curCtx s).seg
  if g.phase != .pre then none
  else if releaseReady s then some (if g.reReleased && segGang s then .gangReRelease else .segmentRelease)
  else if segGang s && decide (g.gangT ≤ tempoNow s) then some .gangStartMissed
  else none

/-- One issue of a queued record: its nest position and its place in the record (R36). -/
def issueOf (q : QRec) : Issue :=
  let (i0, i1, i2, i3) := nestAt q.x.raw q.next
  { q.x with i0 := i0, i1 := i1, i2 := i2, i3 := i3, first := q.next == 0, last := q.next + 1 == q.total }

/-- The next issue of the core in focus in some columns, in their order. -/
def columnNext (cols : List Nat) (s : State) : Option Instr :=
  let c := curCore s
  if c.hold != .none || !(c.ctx.seg.phase == .running || c.ctx.seg.phase == .closing) then none
  else cols.findSome? fun col => ((dueRecords c col).head?).bind fun q => recordInstr (issueOf q)

/-- Commands start before the cycle's other issues, so that their watches cover what these read (R210). -/
def commandNext (s : State) : Option Instr := columnNext [5] s

/-- The next column issue of the core in focus: columns in ascending order (R62). -/
def issueNext (s : State) : Option Instr := columnNext (List.range 8) s

/-- A wait of the core in focus that ends (R94, R221, R285): not while its context is held for a recalibration (R309). -/
def waitNext (s : State) : Option Instr :=
  if (curCore s).ctime.toNat < (curCore s).recalUntil then none
  else match (curCtx s).wait with
  | .none => none
  | .waitc _ _ _ _ =>
    match waitcWord s with
    | none => some .waitcSatisfied
    | some (_, thr, cls, w, bad) => if waitcOpen cls s && (bad || thr.ule w) then some .waitcSatisfied else none
  | .bar _ n => if barWaits n s then none else some .barWaitCompletion
  | .ways _ _ => if waysOrphaned s || waysReady s then some .waysChange else none
  | .waysDone t => if t ≤ tempoNow s then some .waysRetire else none

/-- SEGE of the core in focus completes (R39). -/
def closeNext (s : State) : Option Instr :=
  let c := curCore s
  if c.ctx.seg.phase == .closing && landedAll c && c.events.isEmpty && c.hold == .none && gangEnds s then some .segeCompletion else none

/-! ## Words (R45, R46, R70) -/

/-- Registers a word reads: n for gn, 32 + n for btn. -/
def sources : Instr → List Nat
  | .add _ a b => [a.toNat, b.toNat]
  | .sub _ a b => [a.toNat, b.toNat]
  | .mul _ a b => [a.toNat, b.toNat]
  | .mulh _ a b => [a.toNat, b.toNat]
  | .mulhu _ a b => [a.toNat, b.toNat]
  | .div _ a b => [a.toNat, b.toNat]
  | .divu _ a b => [a.toNat, b.toNat]
  | .rem _ a b => [a.toNat, b.toNat]
  | .remu _ a b => [a.toNat, b.toNat]
  | .and _ a b => [a.toNat, b.toNat]
  | .or _ a b => [a.toNat, b.toNat]
  | .xor _ a b => [a.toNat, b.toNat]
  | .shl _ a b => [a.toNat, b.toNat]
  | .shr _ a b => [a.toNat, b.toNat]
  | .sar _ a b => [a.toNat, b.toNat]
  | .min _ a b => [a.toNat, b.toNat]
  | .max _ a b => [a.toNat, b.toNat]
  | .minu _ a b => [a.toNat, b.toNat]
  | .maxu _ a b => [a.toNat, b.toNat]
  | .slt _ a b => [a.toNat, b.toNat]
  | .sltu _ a b => [a.toNat, b.toNat]
  | .seq _ a b => [a.toNat, b.toNat]
  | .clz _ a => [a.toNat]
  | .popc _ a => [a.toNat]
  | .mov _ a => [a.toNat]
  | .lea _ a b _ => [a.toNat, b.toNat]
  | .madd d a b => [d.toNat, a.toNat, b.toNat]
  | .sel d a b => [d.toNat, a.toNat, b.toNat]
  | .fsh _ a b _ => [a.toNat, b.toNat]
  | .bfx _ a _ _ => [a.toNat]
  | .bfi d a _ _ => [d.toNat, a.toNat]
  | .addi _ a _ => [a.toNat]
  | .andi _ a _ => [a.toNat]
  | .ori _ a _ => [a.toNat]
  | .xori _ a _ => [a.toNat]
  | .shli _ a _ => [a.toNat]
  | .shri _ a _ => [a.toNat]
  | .sari _ a _ => [a.toNat]
  | .liw _ _ => []
  | .lih d _ => [d.toNat]
  | .ldB _ a _ _ => [a.toNat]
  | .ldH _ a _ _ => [a.toNat]
  | .ldW _ a _ _ => [a.toNat]
  | .ldD _ a _ _ => [a.toNat]
  | .stB r a _ _ => [r.toNat, a.toNat]
  | .stH r a _ _ => [r.toNat, a.toNat]
  | .stW r a _ _ => [r.toNat, a.toNat]
  | .stD r a _ _ => [r.toNat, a.toNat]
  | .ldsB _ a _ _ => [a.toNat]
  | .ldsH _ a _ _ => [a.toNat]
  | .ldsW _ a _ _ => [a.toNat]
  | .ldsD _ a _ _ => [a.toNat]
  | .stsB r a _ _ => [r.toNat, a.toNat]
  | .stsH r a _ _ => [r.toNat, a.toNat]
  | .stsW r a _ _ => [r.toNat, a.toNat]
  | .stsD r a _ _ => [r.toNat, a.toNat]
  | .amoAdd _ a b _ _ _ => [a.toNat, b.toNat]
  | .amoAnd _ a b _ _ _ => [a.toNat, b.toNat]
  | .amoOr _ a b _ _ _ => [a.toNat, b.toNat]
  | .amoXor _ a b _ _ _ => [a.toNat, b.toNat]
  | .amoMin _ a b _ _ _ => [a.toNat, b.toNat]
  | .amoMax _ a b _ _ _ => [a.toNat, b.toNat]
  | .amoSwap _ a b _ _ _ => [a.toNat, b.toNat]
  | .cas d a b _ _ _ => [d.toNat, a.toNat, b.toNat]
  | .ptb _ _ => []
  | .bEq t a b _ => [32 + t.toNat, a.toNat, b.toNat]
  | .bNe t a b _ => [32 + t.toNat, a.toNat, b.toNat]
  | .bLt t a b _ => [32 + t.toNat, a.toNat, b.toNat]
  | .bGe t a b _ => [32 + t.toNat, a.toNat, b.toNat]
  | .bLtu t a b _ => [32 + t.toNat, a.toNat, b.toNat]
  | .bGeu t a b _ => [32 + t.toNat, a.toNat, b.toNat]
  | .jmp t _ => [32 + t.toNat]
  | .bPnz t _ => [32 + t.toNat]
  | .bPz t _ => [32 + t.toNat]
  | .call t _ => [32 + t.toNat]
  | .ret a => [a.toNat]
  | .loopw t a => [32 + t.toNat, a.toNat]
  | .segb _ => []
  | .align a => [a.toNat]
  | .waitc _ a b _ => [a.toNat, b.toNat]
  | .gets _ _ => []
  | .sets a _ => [a.toNat]
  | .trap _ => []
  | .fenceFull _ _ => []
  | .fenceAcq _ _ => []
  | .fenceRel _ _ => []
  | .tapePlay _ => []
  | .tapePatch _ a => [a.toNat]
  | .tapeGuard _ a => [a.toNat]
  | .barInit a _ => [a.toNat]
  | .barArrive _ => []
  | .barWait _ _ => []
  | .barTest _ _ => []
  | .ways a => [a.toNat]
  | .flush a b _ => [a.toNat, b.toNat]
  | .inval a b _ => [a.toNat, b.toNat]
  | .discard a b _ => [a.toNat, b.toNat]
  | .pref a b _ => [a.toNat, b.toNat]
  | .sdef a _ => [a.toNat]
  | .sset a _ _ => [a.toNat]
  | .sget _ _ _ => []
  | .sadv a _ => [a.toNat]
  | .hintRegion _ => []
  | .recordForward r => ((List.range 4).filter fun j => decide (1 ≤ slotCode r j) && decide (slotCode r j ≤ 9)).map (slotReg r)
  | .mark _ => []
  | .mma _ => []
  | .mpass _ => []
  | .mzero _ => []
  | .mload _ => []
  | .mdrain _ => []
  | .mstore _ => []
  | .mrep _ => []
  | .mchain _ => []
  | .vadd _ => []
  | .vsub _ => []
  | .vmul _ => []
  | .vfma _ => []
  | .vmin _ => []
  | .vmax _ => []
  | .vabs _ => []
  | .vneg _ => []
  | .vmulh _ => []
  | .vand _ => []
  | .vor _ => []
  | .vxor _ => []
  | .vnot _ => []
  | .vshl _ => []
  | .vshr _ => []
  | .vsar _ => []
  | .vbfx _ => []
  | .vfsh _ => []
  | .vpopc _ => []
  | .vclz _ => []
  | .vcmp _ => []
  | .vsel _ => []
  | .vmov _ => []
  | .vspl _ => []
  | .viota _ => []
  | .vcvt _ => []
  | .vqnt _ => []
  | .vdq _ => []
  | .vrotr _ => []
  | .vrotc _ => []
  | .vbcr _ => []
  | .vbcc _ => []
  | .vredr _ => []
  | .vredc _ => []
  | .vscanr _ => []
  | .vscanc _ => []
  | .vtrb _ => []
  | .vld _ => []
  | .vst _ => []
  | .vpop _ => []
  | .vgath _ => []
  | .vscat _ => []
  | .vlut _ => []
  | .vpart _ => []
  | .vcnt _ => []
  | .vamo _ => []
  | .frcp _ => []
  | .frsq _ => []
  | .fsqrt _ => []
  | .fexp2 _ => []
  | .flog2 _ => []
  | .fsin _ => []
  | .fcos _ => []
  | .ftanh _ => []
  | .fsig _ => []
  | .cpy _ => []
  | .cpyL _ => []
  | .cpyG _ => []
  | .cpyS _ => []
  | .cpyXMemory _ => []
  | .cpyXScratchpad _ => []
  | .cpyZ _ => []
  | .cpyD _ => []
  | .cpyW _ => []
  | .oxf _ => []
  | .oxc _ => []
  | .omask _ => []
  | .ocal _ => []
  | .owin _ => []
  | .oref _ => []
  | .nbScore _ => []
  | .nbSel _ => []
  | .nbPut _ => []
  | .nbStat _ => []
  | .copyLanding _ => []
  | .scalarLoadLanding _ => []
  | .landingStage _ => []
  | .drainPush _ => []
  | .vectorLanding _ => []
  | .opticalOutputLanding _ => []
  | .nbScoreLanding _ => []
  | .vamoAcknowledgement _ => []
  | .barrierArrival _ => []
  | .resumption _ _ _ => []
  | .launch _ _ => []
  | .abortRequest _ _ => []
  | .ringScan _ => []
  | .launchReady _ => []
  | .launchPlacement _ _ _ => []
  | .launchCompletion _ => []
  | .hostWake _ => []
  | .resolve _ _ => []
  | .negotiate _ _ => []
  | .config _ _ => []
  | .ringreg _ _ => []
  | .ringdel _ _ => []
  | .alloc _ _ _ => []
  | .free _ _ => []
  | .peerbind _ _ => []
  | .reprd _ => []
  | .hostMemoryRead _ _ => []
  | .hostMemoryWrite _ _ => []
  | .spdmRequest _ => []
  | .lockstepMismatch _ => []
  | .liveUpdate _ => []
  | .firmwareRecalibration _ => []
  | .refreshBurst _ _ => []
  | .temperatureCrossing _ _ => []
  | .powerCapExceeded _ => []
  | .foldMapChange _ _ => []
  | .write _ => []
  | .readreq _ => []
  | .readresp _ => []
  | .wake _ => []
  | .done _ => []
  | .ack _ => []
  | .nak _ => []
  | .probe _ => []
  | .probeack _ => []
  | .stripeTimeout _ _ => []
  | .portLinkLoss _ => []
  | .accessPerforms _ => []
  | .hostLinkCompletion _ => []
  | .engineAccessPerform _ => []
  | .effectivePriorityPromotion _ => []
  | .tapeAffinityWaitExpiry _ => []
  | .pageEviction _ _ _ => []
  | .logicPlyJunctionLimit _ _ => []
  | .recordHintRegionIssue _ => []
  | .leave => []
  | .sege => []
  | .eret => []
  | .endCtx => []
  | .yield => []
  | .tapeRec => []
  | .tapeEnd => []
  | .tapeDrop => []
  | .nop => []
  | .segmentRelease => []
  | .gangStartMissed => []
  | .segeCompletion => []
  | .walkCompletion => []
  | .gangReRelease => []
  | .replayResume => []
  | .refreshDeadline => []
  | .looseCodeWatchdog => []
  | .looseCopyOverrun => []
  | .barWaitCompletion => []
  | .waitcSatisfied => []
  | .waysChange => []
  | .waysRetire => []
  | .preemption => []
  | .periodicReadinessTest => []
  | .abandon => []
  | .heartbeat => []
  | .heartbeatMissed => []
  | .postponedBurstsIssued => []
  | .thermalTrip => []
  | .packageReset => []
  | .probePeriod => []
  | .playedForward => []
  | .ackInterval => []
  | .gapNak => []
  | .retransmitTimeout => []
  | .coreClockCycle => []
  | .machineCheck => []

/-- Whether a register of the running set may be read (R70): its last result's latency has passed. g0 has no
producer. -/
def readable (s : State) (r : Nat) : Bool :=
  let c := curCore s
  let k := regKey c.ctx r
  r == 0 || KMap.get 0 c.loading k == 0 && decide (KMap.get 0 c.busy k ≤ clk s)

/-- Whether an address stands in the instruction store. -/
def inStore (c : Ctx) (pc : Word) : Bool := decide (c.codeBase ≤ pc.toNat) && decide (pc.toNat < c.codeBase + c.codeSize)

/-- Whether the program counter stands in the instruction store. -/
def pcInStore (s : State) : Bool := inStore (curCtx s) (pcOf s)

/-- The bytes from the program counter to the end of its line (R45). -/
def fetchBytes (s : State) : List Byte :=
  let off := (pcOf s).toNat - (curCtx s).codeBase
  KMap.getList 0 (curCore s).istore off (64 - off % 64)

/-- The signature takes the words and record lines that a segment executes (R40). -/
def foldSignature (size : Nat) (s : State) : State :=
  let c := curCtx s
  if c.inShadow ∨ (c.seg.phase ≠ .pre ∧ c.seg.phase ≠ .running) then s
  else updSeg (fun g => { g with crc := crcBytes g.crc ((fetchBytes s).take size) }) s

/-- The word or record line at the program counter: execution off the store raises fetch-bounds, bytes that are
no instruction illegal-instruction (R46, R56). -/
def fetch (s : State) : Action :=
  if !pcInStore s then .illegal 0x02 s
  else
    let bs := fetchBytes s
    match decode bs with
    | .error _ => .illegal 0x00 s
    | .ok (i, rest) => .word i (bs.length - rest.length) (foldSignature (bs.length - rest.length) s)

/-- Whether a word that performs what must perform before it waits instead for a store of another core, which performs
in its own time (R24, R228, R260, R263). -/
def heldAbroad (s : State) (i : Instr) : Bool :=
  let abroad (cls : BitVec 4) (wr : Bool) : Bool :=
    waitsAbroad s || (waitsFor s cls wr (curCtx s).inShadow).any fun n => n % nCores != s.cur
  match i with
  | .flush _ _ cls => abroad cls true
  | .inval _ _ cls => abroad cls true
  | .discard _ _ cls => abroad cls true
  | .sdef _ _ => abroad 0 false
  | .eret => waitsAbroad s
  | .endCtx => waitsAbroad s
  | _ => false

/-- The sources of the word at the program counter may be read, and what it performs after may perform. -/
def sourcesReady (s : State) : Bool :=
  match fetch s with
  | .word i _ _ => ((sources i ++ tapeSources s i).all (readable s)) && !heldAbroad s i
  | _ => true

/-- Whether the control core of the core in focus can issue in this cycle, but for what waits at a pre-emption point. -/
def coreReady (s : State) : Bool :=
  let c := curCore s
  let p := c.ctx.seg.phase
  c.resident && c.ctx.wait == .none
    && (if c.ctx.inShadow then decide (c.shReady ≤ tempoNow s)
      else c.hold == .none && !c.play.on && decide (c.ready ≤ c.ctime.toNat) && decide (c.recalUntil ≤ c.ctime.toNat)
        && (p == .loose || p == .running || (p == .pre && runGoesOn c)))
    && sourcesReady s

/-- Whether the word at the program counter is END. -/
def atEnd (s : State) : Bool :=
  match fetch s with
  | .word .endCtx _ _ => true
  | _ => false

/-- Whether END retires in this cycle: no event of a higher class has fallen on its core in it, no YIELD before it has
still to be honoured, and dispatch runs (R95, R366, R388). -/
def endDue (s : State) : Bool :=
  let c := curCore s
  coreReady s && c.ctx.seg.phase == .loose && c.events.isEmpty && !c.yielding && complexRuns s && atEnd s

/-- A pre-emption of the core in focus that changes something (R367). An END of this cycle comes before it (R366,
R386). A frozen complex keeps the request waiting (R388, R391). -/
def preemptNext (s : State) : Option Instr :=
  if !((curCore s).preempt && atPoint s && complexRuns s) then none
  else
    let ks := wholeSet s
    if ks.any fun k => endDue (focus k s) then none
    else if ks.all (fun k => saveReady (focus k s)) || !(ks.all fun k => (getCore s k).preempt) then some .preemption else none

/-- Whether the control core of the core in focus issues in this cycle: at a pre-emption point it stops for a request,
unless the word is END, and for a frozen complex (R366, R367, R388). -/
def wordReady (s : State) : Bool :=
  let c := curCore s
  coreReady s && (c.ctx.inShadow || c.ctx.seg.phase != .loose
    || (complexRuns s && if atEnd s then endDue s else !c.preempt))

/-- Where a word's own fall-through leaves the instruction store, it raises fetch-bounds and performs nothing
(R46); `s` is the state it was fetched in and `t` what it did. A word that waits, and will fall through, raises it
before its wait. -/
def afterWord (size : Nat) (s t : State) : Out :=
  let next := pcOf s + BitVec.ofNat 64 size
  if (curCtx t).inShadow = (curCtx s).inShadow ∧ (curCore t).resident ∧ !inStore (curCtx s) next
      ∧ (pcOf t = next ∨ (pcOf t = pcOf s ∧ (curCtx t).wait ≠ .none)) then
    raise 0x02 0 s
  else .next t

/-- A word that is no instruction. -/
def illegalWord (code : Nat) (s : State) : Out := raise code 0 s

/-! ## The choice -/

/-- The event that a test finds on the first core that has one. -/
def onCores (f : State → Option Instr) (s : State) : Option Action :=
  (activeCores s).findSome? fun k => (f (focus k s)).map fun i => .event i (focus k s)

/-- The next entry of a tape that plays is due (R342). -/
def feedNext (s : State) : Option Instr := if feedDue s then some .playedForward else none

/-- The first core whose control core issues a word. -/
def coreWord (s : State) : Option Action :=
  match (activeCores s).find? fun k => wordReady (focus k s) with
  | some k => some (fetch (focus k s))
  | none => none

/-- The cores' events of this cycle, pass by pass: holds that end; stores that perform; landings; loads that
perform; what is overdue; releases; column issues; waits; closures; played entries; pre-emptions; then words. -/
def nextCore (s : State) : Option Action :=
  firstOf [onCores holdEnds, onCores storeNext, landingNext, onCores loadNext, onCores overdueNext,
    onCores releaseNext, onCores commandNext, onCores issueNext, onCores waitNext, onCores closeNext, onCores feedNext, onCores preemptNext,
    coreWord] s

/-- The next step of a package that has power: what happens in this cycle, else the next cycle. -/
def nextAction (s : State) : Action :=
  match firstOf [nextInput, nextFirmware, nextTimer, nextCore] s with
  | some a => a
  | none => Action.event .coreClockCycle s

end Sys2Proof.Machine
end

