-- ==== Sys2Proof/Machine/Dispatch.lean ====
section
/-! DEFINITION. The meaning of every instruction: one direct call for each constructor. -/

namespace Sys2Proof.Machine

def exec (i : Instr) (s : State) : Host.Outcome State Fault Refusal :=
  match i with
  | .add d a b => Sys2Proof.Machine.execAdd d a b s
  | .sub d a b => Sys2Proof.Machine.execSub d a b s
  | .mul d a b => Sys2Proof.Machine.execMul d a b s
  | .mulh d a b => Sys2Proof.Machine.execMulh d a b s
  | .mulhu d a b => Sys2Proof.Machine.execMulhu d a b s
  | .div d a b => Sys2Proof.Machine.execDiv d a b s
  | .divu d a b => Sys2Proof.Machine.execDivu d a b s
  | .rem d a b => Sys2Proof.Machine.execRem d a b s
  | .remu d a b => Sys2Proof.Machine.execRemu d a b s
  | .and d a b => Sys2Proof.Machine.execAnd d a b s
  | .or d a b => Sys2Proof.Machine.execOr d a b s
  | .xor d a b => Sys2Proof.Machine.execXor d a b s
  | .shl d a b => Sys2Proof.Machine.execShl d a b s
  | .shr d a b => Sys2Proof.Machine.execShr d a b s
  | .sar d a b => Sys2Proof.Machine.execSar d a b s
  | .min d a b => Sys2Proof.Machine.execMin d a b s
  | .max d a b => Sys2Proof.Machine.execMax d a b s
  | .minu d a b => Sys2Proof.Machine.execMinu d a b s
  | .maxu d a b => Sys2Proof.Machine.execMaxu d a b s
  | .slt d a b => Sys2Proof.Machine.execSlt d a b s
  | .sltu d a b => Sys2Proof.Machine.execSltu d a b s
  | .seq d a b => Sys2Proof.Machine.execSeq d a b s
  | .clz d a => Sys2Proof.Machine.execClz d a s
  | .popc d a => Sys2Proof.Machine.execPopc d a s
  | .mov d a => Sys2Proof.Machine.execMov d a s
  | .lea d a b s0 => Sys2Proof.Machine.execLea d a b s0 s
  | .madd d a b => Sys2Proof.Machine.execMadd d a b s
  | .sel d a b => Sys2Proof.Machine.execSel d a b s
  | .fsh d a b n => Sys2Proof.Machine.execFsh d a b n s
  | .bfx d a len1 pos => Sys2Proof.Machine.execBfx d a len1 pos s
  | .bfi d a len1 pos => Sys2Proof.Machine.execBfi d a len1 pos s
  | .addi d a imm => Sys2Proof.Machine.execAddi d a imm s
  | .andi d a imm => Sys2Proof.Machine.execAndi d a imm s
  | .ori d a imm => Sys2Proof.Machine.execOri d a imm s
  | .xori d a imm => Sys2Proof.Machine.execXori d a imm s
  | .shli d a n => Sys2Proof.Machine.execShli d a n s
  | .shri d a n => Sys2Proof.Machine.execShri d a n s
  | .sari d a n => Sys2Proof.Machine.execSari d a n s
  | .liw d lit => Sys2Proof.Machine.execLiw d lit s
  | .lih d lit => Sys2Proof.Machine.execLih d lit s
  | .ldB d a off cls => Sys2Proof.Machine.execLdB d a off cls s
  | .ldH d a off cls => Sys2Proof.Machine.execLdH d a off cls s
  | .ldW d a off cls => Sys2Proof.Machine.execLdW d a off cls s
  | .ldD d a off cls => Sys2Proof.Machine.execLdD d a off cls s
  | .stB s0 a off cls => Sys2Proof.Machine.execStB s0 a off cls s
  | .stH s0 a off cls => Sys2Proof.Machine.execStH s0 a off cls s
  | .stW s0 a off cls => Sys2Proof.Machine.execStW s0 a off cls s
  | .stD s0 a off cls => Sys2Proof.Machine.execStD s0 a off cls s
  | .ldsB d a off cls => Sys2Proof.Machine.execLdsB d a off cls s
  | .ldsH d a off cls => Sys2Proof.Machine.execLdsH d a off cls s
  | .ldsW d a off cls => Sys2Proof.Machine.execLdsW d a off cls s
  | .ldsD d a off cls => Sys2Proof.Machine.execLdsD d a off cls s
  | .stsB s0 a off cls => Sys2Proof.Machine.execStsB s0 a off cls s
  | .stsH s0 a off cls => Sys2Proof.Machine.execStsH s0 a off cls s
  | .stsW s0 a off cls => Sys2Proof.Machine.execStsW s0 a off cls s
  | .stsD s0 a off cls => Sys2Proof.Machine.execStsD s0 a off cls s
  | .amoAdd d a b scope dbl cls => Sys2Proof.Machine.execAmoAdd d a b scope dbl cls s
  | .amoAnd d a b scope dbl cls => Sys2Proof.Machine.execAmoAnd d a b scope dbl cls s
  | .amoOr d a b scope dbl cls => Sys2Proof.Machine.execAmoOr d a b scope dbl cls s
  | .amoXor d a b scope dbl cls => Sys2Proof.Machine.execAmoXor d a b scope dbl cls s
  | .amoMin d a b scope dbl cls => Sys2Proof.Machine.execAmoMin d a b scope dbl cls s
  | .amoMax d a b scope dbl cls => Sys2Proof.Machine.execAmoMax d a b scope dbl cls s
  | .amoSwap d a b scope dbl cls => Sys2Proof.Machine.execAmoSwap d a b scope dbl cls s
  | .cas d a b scope dbl cls => Sys2Proof.Machine.execCas d a b scope dbl cls s
  | .ptb t off => Sys2Proof.Machine.execPtb t off s
  | .bEq t a b h => Sys2Proof.Machine.execBEq t a b h s
  | .bNe t a b h => Sys2Proof.Machine.execBNe t a b h s
  | .bLt t a b h => Sys2Proof.Machine.execBLt t a b h s
  | .bGe t a b h => Sys2Proof.Machine.execBGe t a b h s
  | .bLtu t a b h => Sys2Proof.Machine.execBLtu t a b h s
  | .bGeu t a b h => Sys2Proof.Machine.execBGeu t a b h s
  | .jmp t h => Sys2Proof.Machine.execJmp t h s
  | .bPnz t h => Sys2Proof.Machine.execBPnz t h s
  | .bPz t h => Sys2Proof.Machine.execBPz t h s
  | .call t a => Sys2Proof.Machine.execCall t a s
  | .ret a => Sys2Proof.Machine.execRet a s
  | .loopw t a => Sys2Proof.Machine.execLoopw t a s
  | .segb off => Sys2Proof.Machine.execSegb off s
  | .align a => Sys2Proof.Machine.execAlign a s
  | .waitc d a b cls => Sys2Proof.Machine.execWaitc d a b cls s
  | .gets d n => Sys2Proof.Machine.execGets d n s
  | .sets a n => Sys2Proof.Machine.execSets a n s
  | .trap n => Sys2Proof.Machine.execTrap n s
  | .fenceFull scope mask => Sys2Proof.Machine.execFenceFull scope mask s
  | .fenceAcq scope mask => Sys2Proof.Machine.execFenceAcq scope mask s
  | .fenceRel scope mask => Sys2Proof.Machine.execFenceRel scope mask s
  | .tapePlay d => Sys2Proof.Machine.execTapePlay d s
  | .tapePatch k a => Sys2Proof.Machine.execTapePatch k a s
  | .tapeGuard i0 a => Sys2Proof.Machine.execTapeGuard i0 a s
  | .barInit a n => Sys2Proof.Machine.execBarInit a n s
  | .barArrive n => Sys2Proof.Machine.execBarArrive n s
  | .barWait d n => Sys2Proof.Machine.execBarWait d n s
  | .barTest d n => Sys2Proof.Machine.execBarTest d n s
  | .ways a => Sys2Proof.Machine.execWays a s
  | .flush a b cls => Sys2Proof.Machine.execFlush a b cls s
  | .inval a b cls => Sys2Proof.Machine.execInval a b cls s
  | .discard a b cls => Sys2Proof.Machine.execDiscard a b cls s
  | .pref a b cls => Sys2Proof.Machine.execPref a b cls s
  | .sdef a s0 => Sys2Proof.Machine.execSdef a s0 s
  | .sset a w s0 => Sys2Proof.Machine.execSset a w s0 s
  | .sget d w s0 => Sys2Proof.Machine.execSget d w s0 s
  | .sadv a s0 => Sys2Proof.Machine.execSadv a s0 s
  | .hintRegion w => Sys2Proof.Machine.execHintRegion w s
  | .recordForward raw => Sys2Proof.Machine.execRecordForward raw s
  | .mark x => Sys2Proof.Machine.execMark x s
  | .mma x => Sys2Proof.Machine.execMma x s
  | .mpass x => Sys2Proof.Machine.execMpass x s
  | .mzero x => Sys2Proof.Machine.execMzero x s
  | .mload x => Sys2Proof.Machine.execMload x s
  | .mdrain x => Sys2Proof.Machine.execMdrain x s
  | .mstore x => Sys2Proof.Machine.execMstore x s
  | .mrep x => Sys2Proof.Machine.execMrep x s
  | .mchain x => Sys2Proof.Machine.execMchain x s
  | .vadd x => Sys2Proof.Machine.execVadd x s
  | .vsub x => Sys2Proof.Machine.execVsub x s
  | .vmul x => Sys2Proof.Machine.execVmul x s
  | .vfma x => Sys2Proof.Machine.execVfma x s
  | .vmin x => Sys2Proof.Machine.execVmin x s
  | .vmax x => Sys2Proof.Machine.execVmax x s
  | .vabs x => Sys2Proof.Machine.execVabs x s
  | .vneg x => Sys2Proof.Machine.execVneg x s
  | .vmulh x => Sys2Proof.Machine.execVmulh x s
  | .vand x => Sys2Proof.Machine.execVand x s
  | .vor x => Sys2Proof.Machine.execVor x s
  | .vxor x => Sys2Proof.Machine.execVxor x s
  | .vnot x => Sys2Proof.Machine.execVnot x s
  | .vshl x => Sys2Proof.Machine.execVshl x s
  | .vshr x => Sys2Proof.Machine.execVshr x s
  | .vsar x => Sys2Proof.Machine.execVsar x s
  | .vbfx x => Sys2Proof.Machine.execVbfx x s
  | .vfsh x => Sys2Proof.Machine.execVfsh x s
  | .vpopc x => Sys2Proof.Machine.execVpopc x s
  | .vclz x => Sys2Proof.Machine.execVclz x s
  | .vcmp x => Sys2Proof.Machine.execVcmp x s
  | .vsel x => Sys2Proof.Machine.execVsel x s
  | .vmov x => Sys2Proof.Machine.execVmov x s
  | .vspl x => Sys2Proof.Machine.execVspl x s
  | .viota x => Sys2Proof.Machine.execViota x s
  | .vcvt x => Sys2Proof.Machine.execVcvt x s
  | .vqnt x => Sys2Proof.Machine.execVqnt x s
  | .vdq x => Sys2Proof.Machine.execVdq x s
  | .vrotr x => Sys2Proof.Machine.execVrotr x s
  | .vrotc x => Sys2Proof.Machine.execVrotc x s
  | .vbcr x => Sys2Proof.Machine.execVbcr x s
  | .vbcc x => Sys2Proof.Machine.execVbcc x s
  | .vredr x => Sys2Proof.Machine.execVredr x s
  | .vredc x => Sys2Proof.Machine.execVredc x s
  | .vscanr x => Sys2Proof.Machine.execVscanr x s
  | .vscanc x => Sys2Proof.Machine.execVscanc x s
  | .vtrb x => Sys2Proof.Machine.execVtrb x s
  | .vld x => Sys2Proof.Machine.execVld x s
  | .vst x => Sys2Proof.Machine.execVst x s
  | .vpop x => Sys2Proof.Machine.execVpop x s
  | .vgath x => Sys2Proof.Machine.execVgath x s
  | .vscat x => Sys2Proof.Machine.execVscat x s
  | .vlut x => Sys2Proof.Machine.execVlut x s
  | .vpart x => Sys2Proof.Machine.execVpart x s
  | .vcnt x => Sys2Proof.Machine.execVcnt x s
  | .vamo x => Sys2Proof.Machine.execVamo x s
  | .frcp x => Sys2Proof.Machine.execFrcp x s
  | .frsq x => Sys2Proof.Machine.execFrsq x s
  | .fsqrt x => Sys2Proof.Machine.execFsqrt x s
  | .fexp2 x => Sys2Proof.Machine.execFexp2 x s
  | .flog2 x => Sys2Proof.Machine.execFlog2 x s
  | .fsin x => Sys2Proof.Machine.execFsin x s
  | .fcos x => Sys2Proof.Machine.execFcos x s
  | .ftanh x => Sys2Proof.Machine.execFtanh x s
  | .fsig x => Sys2Proof.Machine.execFsig x s
  | .cpy x => Sys2Proof.Machine.execCpy x s
  | .cpyL x => Sys2Proof.Machine.execCpyL x s
  | .cpyG x => Sys2Proof.Machine.execCpyG x s
  | .cpyS x => Sys2Proof.Machine.execCpyS x s
  | .cpyXMemory x => Sys2Proof.Machine.execCpyXMemory x s
  | .cpyXScratchpad x => Sys2Proof.Machine.execCpyXScratchpad x s
  | .cpyZ x => Sys2Proof.Machine.execCpyZ x s
  | .cpyD x => Sys2Proof.Machine.execCpyD x s
  | .cpyW x => Sys2Proof.Machine.execCpyW x s
  | .oxf x => Sys2Proof.Machine.execOxf x s
  | .oxc x => Sys2Proof.Machine.execOxc x s
  | .omask x => Sys2Proof.Machine.execOmask x s
  | .ocal x => Sys2Proof.Machine.execOcal x s
  | .owin x => Sys2Proof.Machine.execOwin x s
  | .oref x => Sys2Proof.Machine.execOref x s
  | .nbScore x => Sys2Proof.Machine.execNbScore x s
  | .nbSel x => Sys2Proof.Machine.execNbSel x s
  | .nbPut x => Sys2Proof.Machine.execNbPut x s
  | .nbStat x => Sys2Proof.Machine.execNbStat x s
  | .copyLanding f => Sys2Proof.Machine.execCopyLanding f s
  | .scalarLoadLanding f => Sys2Proof.Machine.execScalarLoadLanding f s
  | .landingStage f => Sys2Proof.Machine.execLandingStage f s
  | .drainPush f => Sys2Proof.Machine.execDrainPush f s
  | .vectorLanding f => Sys2Proof.Machine.execVectorLanding f s
  | .opticalOutputLanding f => Sys2Proof.Machine.execOpticalOutputLanding f s
  | .nbScoreLanding f => Sys2Proof.Machine.execNbScoreLanding f s
  | .vamoAcknowledgement f => Sys2Proof.Machine.execVamoAcknowledgement f s
  | .barrierArrival m => Sys2Proof.Machine.execBarrierArrival m s
  | .resumption task spidx core => Sys2Proof.Machine.execResumption task spidx core s
  | .launch ring packet => Sys2Proof.Machine.execLaunch ring packet s
  | .abortRequest ring packet => Sys2Proof.Machine.execAbortRequest ring packet s
  | .ringScan ring => Sys2Proof.Machine.execRingScan ring s
  | .launchReady task => Sys2Proof.Machine.execLaunchReady task s
  | .launchPlacement task spidx core => Sys2Proof.Machine.execLaunchPlacement task spidx core s
  | .launchCompletion task => Sys2Proof.Machine.execLaunchCompletion task s
  | .hostWake w => Sys2Proof.Machine.execHostWake w s
  | .resolve core choice => Sys2Proof.Machine.execResolve core choice s
  | .negotiate slot req => Sys2Proof.Machine.execNegotiate slot req s
  | .config slot req => Sys2Proof.Machine.execConfig slot req s
  | .ringreg slot req => Sys2Proof.Machine.execRingreg slot req s
  | .ringdel slot req => Sys2Proof.Machine.execRingdel slot req s
  | .alloc slot req choice => Sys2Proof.Machine.execAlloc slot req choice s
  | .free slot req => Sys2Proof.Machine.execFree slot req s
  | .peerbind slot req => Sys2Proof.Machine.execPeerbind slot req s
  | .reprd v => Sys2Proof.Machine.execReprd v s
  | .hostMemoryRead offset size => Sys2Proof.Machine.execHostMemoryRead offset size s
  | .hostMemoryWrite offset bytes => Sys2Proof.Machine.execHostMemoryWrite offset bytes s
  | .spdmRequest index => Sys2Proof.Machine.execSpdmRequest index s
  | .lockstepMismatch fn => Sys2Proof.Machine.execLockstepMismatch fn s
  | .liveUpdate image => Sys2Proof.Machine.execLiveUpdate image s
  | .firmwareRecalibration aperture => Sys2Proof.Machine.execFirmwareRecalibration aperture s
  | .refreshBurst die bank => Sys2Proof.Machine.execRefreshBurst die bank s
  | .temperatureCrossing die celsius => Sys2Proof.Machine.execTemperatureCrossing die celsius s
  | .powerCapExceeded milliwatts => Sys2Proof.Machine.execPowerCapExceeded milliwatts s
  | .foldMapChange core cls => Sys2Proof.Machine.execFoldMapChange core cls s
  | .write f => Sys2Proof.Machine.execWrite f s
  | .readreq f => Sys2Proof.Machine.execReadreq f s
  | .readresp f => Sys2Proof.Machine.execReadresp f s
  | .wake f => Sys2Proof.Machine.execWake f s
  | .done f => Sys2Proof.Machine.execDone f s
  | .ack f => Sys2Proof.Machine.execAck f s
  | .nak f => Sys2Proof.Machine.execNak f s
  | .probe f => Sys2Proof.Machine.execProbe f s
  | .probeack f => Sys2Proof.Machine.execProbeack f s
  | .stripeTimeout pkg port => Sys2Proof.Machine.execStripeTimeout pkg port s
  | .portLinkLoss port => Sys2Proof.Machine.execPortLinkLoss port s
  | .accessPerforms a => Sys2Proof.Machine.execAccessPerforms a s
  | .hostLinkCompletion a => Sys2Proof.Machine.execHostLinkCompletion a s
  | .engineAccessPerform f => Sys2Proof.Machine.execEngineAccessPerform f s
  | .effectivePriorityPromotion task => Sys2Proof.Machine.execEffectivePriorityPromotion task s
  | .tapeAffinityWaitExpiry task => Sys2Proof.Machine.execTapeAffinityWaitExpiry task s
  | .pageEviction asid va hostPage => Sys2Proof.Machine.execPageEviction asid va hostPage s
  | .logicPlyJunctionLimit die ply => Sys2Proof.Machine.execLogicPlyJunctionLimit die ply s
  | .recordHintRegionIssue x => Sys2Proof.Machine.execRecordHintRegionIssue x s
  | .leave => Sys2Proof.Machine.execLeave s
  | .sege => Sys2Proof.Machine.execSege s
  | .eret => Sys2Proof.Machine.execEret s
  | .endCtx => Sys2Proof.Machine.execEndCtx s
  | .yield => Sys2Proof.Machine.execYield s
  | .tapeRec => Sys2Proof.Machine.execTapeRec s
  | .tapeEnd => Sys2Proof.Machine.execTapeEnd s
  | .tapeDrop => Sys2Proof.Machine.execTapeDrop s
  | .nop => Sys2Proof.Machine.execNop s
  | .segmentRelease => Sys2Proof.Machine.execSegmentRelease s
  | .gangStartMissed => Sys2Proof.Machine.execGangStartMissed s
  | .segeCompletion => Sys2Proof.Machine.execSegeCompletion s
  | .walkCompletion => Sys2Proof.Machine.execWalkCompletion s
  | .gangReRelease => Sys2Proof.Machine.execGangReRelease s
  | .replayResume => Sys2Proof.Machine.execReplayResume s
  | .refreshDeadline => Sys2Proof.Machine.execRefreshDeadline s
  | .looseCodeWatchdog => Sys2Proof.Machine.execLooseCodeWatchdog s
  | .looseCopyOverrun => Sys2Proof.Machine.execLooseCopyOverrun s
  | .barWaitCompletion => Sys2Proof.Machine.execBarWaitCompletion s
  | .waitcSatisfied => Sys2Proof.Machine.execWaitcSatisfied s
  | .waysChange => Sys2Proof.Machine.execWaysChange s
  | .waysRetire => Sys2Proof.Machine.execWaysRetire s
  | .preemption => Sys2Proof.Machine.execPreemption s
  | .periodicReadinessTest => Sys2Proof.Machine.execPeriodicReadinessTest s
  | .abandon => Sys2Proof.Machine.execAbandon s
  | .heartbeat => Sys2Proof.Machine.execHeartbeat s
  | .heartbeatMissed => Sys2Proof.Machine.execHeartbeatMissed s
  | .postponedBurstsIssued => Sys2Proof.Machine.execPostponedBurstsIssued s
  | .thermalTrip => Sys2Proof.Machine.execThermalTrip s
  | .packageReset => Sys2Proof.Machine.execPackageReset s
  | .probePeriod => Sys2Proof.Machine.execProbePeriod s
  | .playedForward => Sys2Proof.Machine.execPlayedForward s
  | .ackInterval => Sys2Proof.Machine.execAckInterval s
  | .gapNak => Sys2Proof.Machine.execGapNak s
  | .retransmitTimeout => Sys2Proof.Machine.execRetransmitTimeout s
  | .coreClockCycle => Sys2Proof.Machine.execCoreClockCycle s
  | .machineCheck => Sys2Proof.Machine.execMachineCheck s

end Sys2Proof.Machine
end

