-- ==== Sys2Proof/Machine/Step.lean ====
section
/-! DEFINITION. One step of the package: the next event or the next word, and its meaning. -/

namespace Sys2Proof.Machine

/-- Perform what has been chosen. A word's own fall-through off the instruction store raises fetch-bounds
(R46). -/
def perform : Action → Out
  | .event i t => exec i t
  | .word i size t =>
    match exec i t with
    | .next u => afterWord size t u
    | o => o
  | .illegal code t => illegalWord code t

/-- One step. Without power nothing happens but a package reset (R411, R412). -/
def step (s : State) : Host.Outcome State Fault Refusal :=
  if s.powered then perform (nextAction s)
  else match nextReset s with
    | some a => perform a
    | none => .fault .poweredOff

/-! ## A state whose next step fetches a given word -/

/-- Base of the code object that `withFetchWord` stands in for. -/
def fetchBase : Nat := 0x10000

/-- Offset of the word in it: the first word of a line, and for ALIGN the last (R92). -/
def fetchOffset (nbits w : Nat) : Nat :=
  match decodeTableWord nbits w with
  | some (.align _) => 124
  | _ => 64

/-- An aperture that is not due for recalibration. -/
def quietAperture (a : Aperture) : Aperture := { a with granted := 0, tref := a.temp, lent := none, recal := false }

/-- A die with nothing of its own to do in the present cycle. -/
def quietDie (t : Nat) (d : Die) : Die :=
  { d with
    deadline := false, postponed := [], hot := false, doubled := false, burstAt := max d.burstAt (t + 1)
    ap0 := quietAperture d.ap0, ap1 := quietAperture d.ap1 }

/-- A core whose context stands in loose code at the word, with nothing pending. -/
def fetchCore (nbits w : Nat) (c : Core) : Core :=
  { clearCore c with
    resident := true, inService := true, ready := 0, watchdog := 0
    istore := KMap.setList 0 [] (fetchOffset nbits w) (tableBytes nbits w)
    ctx := { c.ctx with
      codeBase := fetchBase, codeSize := 256, inShadow := false, wait := .none, seg := Seg.loose
      main := { c.ctx.main with pc := BitVec.ofNat 64 (fetchBase + fetchOffset nbits w) } } }

/-- `s` with the instruction in the instruction store of the core in focus, at its program counter, and nothing
else to do first: the core holds a context in loose code, no other core holds one, and no input, packet, request,
launch or timer is due (log entry 1). -/
def State.withFetchWord (s : State) (nbits w : Nat) : State :=
  { s with
    powered := true
    cores := KMap.set Core.reset [] s.cur (fetchCore nbits w (curCore s))
    dies := (List.range nDies).foldl (fun m d => KMap.set Die.reset m d (quietDie (tempoNow s) (KMap.get Die.reset s.dies d))) []
    spaces := s.spaces.map fun e => (e.1, { e.2 with allocs := e.2.allocs.map fun a => { a with freeing := none, leaving := [] } })
    tasks := [], rings := s.rings.map fun e => (e.1, { e.2 with woken := false })
    fw := { s.fw with complex := .running, handover := none, held := [], nextTest := max s.fw.nextTest (tempoNow s + 1) }
    nextProbe := max s.nextProbe (tempoNow s + 1)
    conns := [], arrivals := [], notes := [], packets := [], mailbox := [], inputs := [], stimuli := [] }

end Sys2Proof.Machine
end

