-- ==== Sys2Proof/Safety.lean ====
section
/-! DEFINITION. What counts as a safe run, and the terms in which claims are stated: what an instruction leaves
alone, the results of the words by plain arithmetic, and the invariants. -/

namespace Sys2Proof.Machine

/-! ## Runs and memories -/

/-- The step answers a next state. -/
def goesOn (o : Out) : Bool :=
  match o with
  | .next _ => true
  | .fault _ => false
  | .refused _ => false

/-- The first `n` steps from `s` all go on. -/
def safeRun : Nat → State → Bool
  | 0, _ => true
  | n + 1, s =>
    match step s with
    | .next t => safeRun n t
    | .fault _ => false
    | .refused _ => false

/-- The memories a core holds are in canonical form. -/
def Core.memWf (c : Core) : Bool := Memory.wf c.istore && Memory.wf c.sp

/-- The memories a task keeps (its code, the scratchpads of its saved contexts) are in canonical form. -/
def Task.memWf (t : Task) : Bool :=
  Memory.wf t.code && t.saved.all fun e => match e.2.sp with
    | .some m => Memory.wf m.1
    | .none => true

/-- Every memory of the package is in canonical form: DRAM and host memory, each core's instruction store and
scratchpad, and what the tasks keep. -/
def State.memWf (s : State) : Bool :=
  Memory.wf s.dram && Memory.wf s.hostMem && (s.cores.all fun e => e.2.memWf) && s.tasks.all fun e => e.2.memWf

/-! ## What an instruction leaves alone -/

/-- Nothing outside the core in focus has changed. -/
def OnlyFocus (s t : State) : Prop :=
  t = { s with cores := t.cores } ∧ ∀ k, k ≠ s.cur → getCore t k = getCore s k

/-- Of a core, nothing has changed but the running context, the control core's own timing, and the number that the
next access takes. -/
def OnlyControl (c e : Core) : Prop :=
  e = { c with
    ctx := e.ctx, ready := e.ready, shReady := e.shReady, busy := e.busy, loading := e.loading, nextId := e.nextId }

/-- Of a context, nothing has changed but the register set that runs and the recorder's note of it. -/
def OnlyRegs (c e : Ctx) : Prop :=
  e = { c with main := e.main, shadow := e.shadow, wmask := e.wmask }
    ∧ (if c.inShadow then e.main = c.main else e.shadow = c.shadow)

/-- Every byte of memory and of every scratchpad reads as before. -/
def SameBytes (s t : State) : Prop :=
  (∀ p, physByte t p = physByte s p) ∧ ∀ k a, KMap.get 0 (getCore t k).sp a = KMap.get 0 (getCore s k).sp a

/-- Cycle at which the context that runs may issue its next word. -/
def nextIssue (s : State) : Nat := if (curCtx s).inShadow then (curCore s).shReady else (curCore s).ready

/-- Cycle from which register `k` (n for gn, 32 + n for btn) of the running set may be read. -/
def readableAt (s : State) (k : Nat) : Nat := KMap.get 0 (curCore s).busy (regKey (curCtx s) k)

/-- A word has retired: the next word stands at `next` and issues `cyc` cycles on; of the package only the running
register set has changed, and the control core's own timing. -/
structure Retired (s t : State) (next : Word) (cyc : Nat) : Prop where
  focus : OnlyFocus s t
  core : OnlyControl (curCore s) (curCore t)
  ctx : OnlyRegs (curCtx s) (curCtx t)
  zero : readG t 0 = 0
  pc : pcOf t = next
  issue : nextIssue t = clk s + cyc
  bytes : SameBytes s t

/-- A word has retired, and of the registers only `d` has changed (none where `d` is g0). -/
structure WordDone (s t : State) (next : Word) (cyc : Nat) (d : BitVec 5) : Prop extends Retired s t next cyc where
  others : ∀ n, n ≠ d → readG t n = readG s n
  bt : ∀ b, readBt t b = readBt s b
  pred : readP t = readP s

/-- The word has written `v` to `d`, and it may be read `lat` cycles on (R49: g0 discards it). -/
def Wrote (s t : State) (d : BitVec 5) (v : Word) (lat : Nat) : Prop :=
  d ≠ 0 → readG t d = v ∧ readableAt t d.toNat = clk s + lat

/-! ## The results of the words, by plain arithmetic -/

/-- What an integer, immediate or literal word computes (R74, R76, R77, R79, R80): destination, value, bytes of the
word, latency. None for every other instruction. -/
def wordResult (s : State) : Instr → Option (BitVec 5 × Word × Nat × Nat)
  | .add d a b => some (d, BitVec.ofNat 64 ((readG s a).toNat + (readG s b).toNat), 4, 1)
  | .sub d a b => some (d, BitVec.ofInt 64 ((readG s a).toInt - (readG s b).toInt), 4, 1)
  | .mul d a b => some (d, BitVec.ofNat 64 ((readG s a).toNat * (readG s b).toNat), 4, 3)
  | .mulh d a b => some (d, BitVec.ofInt 64 ((readG s a).toInt * (readG s b).toInt / 2 ^ 64), 4, 3)
  | .mulhu d a b => some (d, BitVec.ofNat 64 ((readG s a).toNat * (readG s b).toNat / 2 ^ 64), 4, 3)
  | .and d a b => some (d, readG s a &&& readG s b, 4, 1)
  | .or d a b => some (d, readG s a ||| readG s b, 4, 1)
  | .xor d a b => some (d, readG s a ^^^ readG s b, 4, 1)
  | .shl d a b => some (d, BitVec.ofNat 64 ((readG s a).toNat * 2 ^ ((readG s b).toNat % 64)), 4, 1)
  | .shr d a b => some (d, BitVec.ofNat 64 ((readG s a).toNat / 2 ^ ((readG s b).toNat % 64)), 4, 1)
  | .sar d a b => some (d, BitVec.ofInt 64 ((readG s a).toInt / 2 ^ ((readG s b).toNat % 64)), 4, 1)
  | .min d a b => some (d, BitVec.ofInt 64 (Min.min (readG s a).toInt (readG s b).toInt), 4, 1)
  | .max d a b => some (d, BitVec.ofInt 64 (Max.max (readG s a).toInt (readG s b).toInt), 4, 1)
  | .minu d a b => some (d, BitVec.ofNat 64 (Min.min (readG s a).toNat (readG s b).toNat), 4, 1)
  | .maxu d a b => some (d, BitVec.ofNat 64 (Max.max (readG s a).toNat (readG s b).toNat), 4, 1)
  | .slt d a b => some (d, if (readG s a).toInt < (readG s b).toInt then 1 else 0, 4, 1)
  | .sltu d a b => some (d, if (readG s a).toNat < (readG s b).toNat then 1 else 0, 4, 1)
  | .seq d a b => some (d, if (readG s a).toNat = (readG s b).toNat then 1 else 0, 4, 1)
  | .clz d a => some (d, BitVec.ofNat 64 (64 - Nat.size (readG s a).toNat), 4, 1)
  | .popc d a => some (d, BitVec.ofNat 64 ((List.range 64).countP fun i => (readG s a).getLsbD i), 4, 1)
  | .mov d a => some (d, readG s a, 4, 1)
  | .lea d a b n => some (d, BitVec.ofNat 64 ((readG s a).toNat + (readG s b).toNat * 2 ^ n.toNat), 4, 1)
  | .madd d a b => some (d, BitVec.ofNat 64 ((readG s d).toNat + (readG s a).toNat * (readG s b).toNat), 4, 3)
  | .sel d a b => some (d, if (readG s d).toNat = 0 then readG s b else readG s a, 4, 1)
  | .fsh d a b n => some (d, BitVec.ofNat 64 (((readG s a).toNat * 2 ^ 64 + (readG s b).toNat) / 2 ^ n.toNat), 4, 1)
  | .addi d a m => some (d, BitVec.ofInt 64 ((readG s a).toInt + m.toInt), 4, 1)
  | .andi d a m => some (d, readG s a &&& BitVec.ofInt 64 m.toInt, 4, 1)
  | .ori d a m => some (d, readG s a ||| BitVec.ofInt 64 m.toInt, 4, 1)
  | .xori d a m => some (d, readG s a ^^^ BitVec.ofInt 64 m.toInt, 4, 1)
  | .shli d a n => some (d, BitVec.ofNat 64 ((readG s a).toNat * 2 ^ n.toNat), 4, 1)
  | .shri d a n => some (d, BitVec.ofNat 64 ((readG s a).toNat / 2 ^ n.toNat), 4, 1)
  | .sari d a n => some (d, BitVec.ofInt 64 ((readG s a).toInt / 2 ^ n.toNat), 4, 1)
  | .liw d l => some (d, BitVec.ofInt 64 l.toInt, 8, 1)
  | .lih d l => some (d, BitVec.ofNat 64 (l.toNat * 2 ^ 32 + (readG s d).toNat % 2 ^ 32), 8, 1)
  | _ => none

/-- What a division gives (R75): destination, divisor, value. The quotient goes toward zero, the remainder has
the sign of the dividend; by zero the quotient is all ones and the remainder the dividend. -/
def divResult (s : State) : Instr → Option (BitVec 5 × Word × Word)
  | .div d a b => some (d, readG s b,
      if (readG s b).toInt = 0 then BitVec.ofInt 64 (-1) else BitVec.ofInt 64 ((readG s a).toInt.tdiv (readG s b).toInt))
  | .divu d a b => some (d, readG s b,
      if (readG s b).toNat = 0 then BitVec.ofInt 64 (-1) else BitVec.ofNat 64 ((readG s a).toNat / (readG s b).toNat))
  | .rem d a b => some (d, readG s b,
      if (readG s b).toInt = 0 then readG s a else BitVec.ofInt 64 ((readG s a).toInt.tmod (readG s b).toInt))
  | .remu d a b => some (d, readG s b,
      if (readG s b).toNat = 0 then readG s a else BitVec.ofNat 64 ((readG s a).toNat % (readG s b).toNat))
  | _ => none

/-- Conditional branches and JMP (R54, R87): the branch-target register, and whether the branch is taken. -/
def branchOf (s : State) : Instr → Option (BitVec 3 × Bool)
  | .bEq t a b _ => some (t, decide (readG s a = readG s b))
  | .bNe t a b _ => some (t, decide (readG s a ≠ readG s b))
  | .bLt t a b _ => some (t, decide ((readG s a).toInt < (readG s b).toInt))
  | .bGe t a b _ => some (t, decide ((readG s b).toInt ≤ (readG s a).toInt))
  | .bLtu t a b _ => some (t, decide ((readG s a).toNat < (readG s b).toNat))
  | .bGeu t a b _ => some (t, decide ((readG s b).toNat ≤ (readG s a).toNat))
  | .jmp t _ => some (t, true)
  | .bPnz t _ => some (t, decide (readP s ≠ 0))
  | .bPz t _ => some (t, decide (readP s = 0))
  | _ => none

/-- The target may be entered: inside the code object, a multiple of 4, neither inside a record line but at its
first word, nor the second word of a literal pair (R46, R87). -/
def Enterable (s : State) (target : Word) : Prop := targetFault (curCore s) target = none

/-- What LOOPW makes of P, from the window and the counter's fields (R89). -/
def loopWindowNat (p : BitVec 16) (a : Word) : Nat :=
  (2 * p.toNat + if a.toNat % 2 ^ 32 = 0 then 0 else 1) % 2 ^ (a.toNat / 2 ^ 32 % 16 + 1)

/-- The field of BFX and BFI reaches from bit `pos` to bit `pos + len1` (R78). -/
def inField (pos len1 : BitVec 6) (k : Nat) : Bool := decide (pos.toNat ≤ k) && decide (k ≤ pos.toNat + len1.toNat)

/-! ## Memory -/

/-- The caches of a die agree with DRAM (R212, R213, R228): one line for each physical line, at its home; a dirty
sector is valid; a valid clean sector holds what DRAM holds. -/
structure CoherentDie (s : State) (d : Nat) : Prop where
  one : ((getDie s d).l2.map L2Line.phys).Nodup
  home : ∀ l ∈ (getDie s d).l2, homeDie (l.phys * 256) = d
  dirty : ∀ l ∈ (getDie s d).l2, ∀ i, i < 4 → bitAt l.dirty i = true → bitAt l.valid i = true
  clean : ∀ l ∈ (getDie s d).l2, ∀ i, i < 4 → bitAt l.valid i = true → bitAt l.dirty i = false →
    ∀ k, k < 64 → KMap.get 0 l.data (64 * i + k) = KMap.get 0 s.dram (l.phys * 256 + 64 * i + k)

/-- The caches of the package agree with DRAM. -/
def Coherent (s : State) : Prop := ∀ d, CoherentDie s d

/-- A flight without the key rows that a scoring read has seen. -/
def unseen (f : Flight) : Flight :=
  match f.kind with
  | .nbList x q _ => { f with kind := .nbList x q [] }
  | _ => f

/-- Of a core, nothing has changed but what scoring reads in flight see of a DRAM update (R322). -/
def OnlySeen (c e : Core) : Prop := e = { c with flights := e.flights } ∧ e.flights.map unseen = c.flights.map unseen

/-- Of the package, only memory and the caches before it may have changed, with what scoring reads in flight see of it
and the count of free values drawn (R322). -/
structure OnlyMemory (s u : State) : Prop where
  rest : u = { s with
    dies := u.dies, dram := u.dram, hostMem := u.hostMem, memBad := u.memBad, cores := u.cores, free := u.free }
  cores : ∀ k, OnlySeen (getCore s k) (getCore u k)

/-- The bytes `bs` stand at `p` and after it, and every other byte of memory reads as before. -/
structure Stored (s u : State) (p : Phys) (bs : List Byte) : Prop where
  only : OnlyMemory s u
  stored : ∀ k, k < bs.length → physByte u ⟨p.host, p.pa + k⟩ = bs.getD k 0
  kept : ∀ q : Phys, (q.host = p.host → q.pa < p.pa ∨ p.pa + bs.length ≤ q.pa) → physByte u q = physByte s q

/-- Byte `k` of a register word. -/
def byteOf (v : Word) (k : Nat) : Byte := v.extractLsb' (8 * k) 8

/-- The low `n` bytes of a register word, least significant first (R4). -/
def lowBytes (v : Word) (n : Nat) : List Byte := (List.range n).map (byteOf v)

/-- The word whose low bytes are `bs`, zero-extended (R4, R81). -/
def wordOfBytes (bs : List Byte) : Word :=
  BitVec.ofNat 64 ((List.range bs.length).foldl (fun a k => a + (bs.getD k 0).toNat * 2 ^ (8 * k)) 0)

/-- The effective address g[a] + sext(off11) × size, modulo 2^64 (R81, R83). -/
def effective (s : State) (a : BitVec 5) (off : BitVec 11) (size : Nat) : Nat :=
  ((((readG s a).toNat : Int) + off.toInt * size) % 2 ^ 64).toNat

/-- What a load reads: the bytes at its place, or this die's copy of a place on another die, where one may serve it
(R225, R227). -/
def seenBytes (s : State) (va n : Nat) (p : Phys) : List Byte :=
  match rdcHit s (curDie s) (curCtx s).asid va p with
  | some l => KMap.getList 0 l.data (va % 256) n
  | none => physBytes s p n

/-- Whether what a load reads is poisoned (R360). -/
def seenBad (s : State) (va : Nat) (p : Phys) : Bool :=
  match rdcHit s (curDie s) (curCtx s).asid va p with
  | some l => bitAt l.bad (va / 64 % 4)
  | none => sectorBad s p

/-- Nothing of this core waits to perform, its reads have seen no store early, and the choices left open all fall to
their first value. -/
structure QuietPort (s : State) : Prop where
  pend : (curCore s).pend = []
  fences : (curCore s).fences = []
  observed : (curCore s).observed = []
  oracle : s.oracle = []

/-- Numbers of stores that have issued and not performed. -/
def PendingStores (s : State) (ids : List Nat) : Prop :=
  ∀ i ∈ ids, ∃ k, ∃ b ∈ (getCore s k).pend, b.id = i ∧ b.kind = .store

/-- An access that a fence over the classes of a mask orders: of those classes, and of the agent that runs. -/
def Ordered (s : State) (mask : BitVec 16) (a : Access) : Prop :=
  a.shadow = (curCtx s).inShadow ∧ bitAt mask a.cls.toNat = true

/-- No acquire is complete with the performing of an access (R263). -/
def EndsNoAcquire (s : State) (a : Access) : Prop :=
  ∀ f ∈ (curCore s).fences, f.loads = [] ∨ ∃ i ∈ f.loads, i ≠ a.id ∧ accessPending s i = true

/-- LD words: destination, address, size. -/
def loadOf (s : State) : Instr → Option (BitVec 5 × Nat × Nat)
  | .ldB d a off _ => some (d, effective s a off 1, 1)
  | .ldH d a off _ => some (d, effective s a off 2, 2)
  | .ldW d a off _ => some (d, effective s a off 4, 4)
  | .ldD d a off _ => some (d, effective s a off 8, 8)
  | _ => none

/-- ST words: source, address, size. -/
def storeOf (s : State) : Instr → Option (BitVec 5 × Nat × Nat)
  | .stB r a off _ => some (r, effective s a off 1, 1)
  | .stH r a off _ => some (r, effective s a off 2, 2)
  | .stW r a off _ => some (r, effective s a off 4, 4)
  | .stD r a off _ => some (r, effective s a off 8, 8)
  | _ => none

/-- LDS words: destination, scratchpad offset, size. -/
def scratchLoadOf (s : State) : Instr → Option (BitVec 5 × Nat × Nat)
  | .ldsB d a off _ => some (d, effective s a off 1, 1)
  | .ldsH d a off _ => some (d, effective s a off 2, 2)
  | .ldsW d a off _ => some (d, effective s a off 4, 4)
  | .ldsD d a off _ => some (d, effective s a off 8, 8)
  | _ => none

/-- STS words: source, scratchpad offset, size. -/
def scratchStoreOf (s : State) : Instr → Option (BitVec 5 × Nat × Nat)
  | .stsB r a off _ => some (r, effective s a off 1, 1)
  | .stsH r a off _ => some (r, effective s a off 2, 2)
  | .stsW r a off _ => some (r, effective s a off 4, 4)
  | .stsD r a off _ => some (r, effective s a off 8, 8)
  | _ => none

/-- The state in which the walks of a range word's pages are done. -/
def walked (s : State) (a b : BitVec 5) : State := (walkHere (readG s a).toNat (readG s b).toNat (spoil 0x20 s)).2

/-- Signed value of the low `n` bytes of a word. -/
def signedOf (n : Nat) (v : Word) : Int := (BitVec.ofNat (8 * n) v.toNat).toInt

/-- AMO and CAS words (R84): destination, address, size, scope, and the new word for the old one, of which the low
`size` bytes are stored. -/
def atomicOf (s : State) : Instr → Option (BitVec 5 × Nat × Nat × BitVec 2 × (Word → Word))
  | .amoAdd d a b sc z _ => some (d, (readG s a).toNat, 4 + 4 * z.toNat, sc, fun old => old + readG s b)
  | .amoAnd d a b sc z _ => some (d, (readG s a).toNat, 4 + 4 * z.toNat, sc, fun old => old &&& readG s b)
  | .amoOr d a b sc z _ => some (d, (readG s a).toNat, 4 + 4 * z.toNat, sc, fun old => old ||| readG s b)
  | .amoXor d a b sc z _ => some (d, (readG s a).toNat, 4 + 4 * z.toNat, sc, fun old => old ^^^ readG s b)
  | .amoMin d a b sc z _ => some (d, (readG s a).toNat, 4 + 4 * z.toNat, sc, fun old =>
      if signedOf (4 + 4 * z.toNat) old ≤ signedOf (4 + 4 * z.toNat) (readG s b) then old else readG s b)
  | .amoMax d a b sc z _ => some (d, (readG s a).toNat, 4 + 4 * z.toNat, sc, fun old =>
      if signedOf (4 + 4 * z.toNat) old ≤ signedOf (4 + 4 * z.toNat) (readG s b) then readG s b else old)
  | .amoSwap d a b sc z _ => some (d, (readG s a).toNat, 4 + 4 * z.toNat, sc, fun _ => readG s b)
  | .cas d a b sc z _ => some (d, (readG s a).toNat, 4 + 4 * z.toNat, sc, fun old =>
      if lowBytes old (4 + 4 * z.toNat) = lowBytes (readG s d) (4 + 4 * z.toNat) then readG s b else old)
  | _ => none

/-- The ordering class of an AMO or CAS word (R84). -/
def atomicClass : Instr → BitVec 4
  | .amoAdd _ _ _ _ _ c => c
  | .amoAnd _ _ _ _ _ c => c
  | .amoOr _ _ _ _ _ c => c
  | .amoXor _ _ _ _ _ c => c
  | .amoMin _ _ _ _ _ c => c
  | .amoMax _ _ _ _ _ c => c
  | .amoSwap _ _ _ _ _ c => c
  | .cas _ _ _ _ _ c => c
  | _ => 0

/-- The word that an AMO or CAS in the port puts in the place of the old one, of which the low bytes are stored (R84). -/
def atomicWordOf (a : Access) (old : Word) : Word :=
  match a.kind with
  | .amo 0 => old + a.data
  | .amo 1 => old &&& a.data
  | .amo 2 => old ||| a.data
  | .amo 3 => old ^^^ a.data
  | .amo 4 => if signedOf a.size old ≤ signedOf a.size a.data then old else a.data
  | .amo 5 => if signedOf a.size old ≤ signedOf a.size a.data then a.data else old
  | .amo _ => a.data
  | _ => if lowBytes old a.size = lowBytes a.exp a.size then a.data else old

/-! ## Exceptions -/

/-- The main context runs loose code. -/
structure LooseMain (s : State) : Prop where
  main : (curCtx s).inShadow = false
  loose : (curCtx s).seg.phase = .loose

/-- Loose code runs, of the task or of its handler. -/
def RunsLoose (s : State) : Prop := (curCtx s).inShadow = true ∨ (curCtx s).seg.phase = .loose

/-- A precise trap has been taken (R350, R352 to R355): the shadow context stands at the handler with its own
registers, g1 holding the mailbox window; the cause, the word's address and TRAPINFO are saved; the task's own
registers and everything else are as they were. -/
structure Trapped (s t : State) (code : Nat) (info pc : Word) : Prop where
  focus : OnlyFocus s t
  core : curCore t = { curCore s with
    ctx := curCtx t, shReady := (curCore t).shReady, busy := (curCore t).busy, loading := (curCore t).loading }
  ctx : curCtx t = { curCtx s with
    inShadow := true, shadow := (curCtx t).shadow
    trapCause := (curCtx t).trapCause, trapPc := (curCtx t).trapPc, trapInfo := (curCtx t).trapInfo }
  cause : (curCtx t).trapCause = BitVec.ofNat 64 code
  pc : (curCtx t).trapPc = BitVec.ofNat 64 (pc.toNat % 2 ^ 57)
  info : (curCtx t).trapInfo = info
  handler : pcOf t = BitVec.ofNat 64 ((curCtx s).codeBase + (curCtx s).handler)
  mailbox : readG t 1 = BitVec.ofNat 64 (0x01FFFFFF00000000 + 0x10000 * (s.cur / 16) + 0x40 * (s.cur % 16))
  clear : (∀ n, n ≠ 1 → readG t n = 0) ∧ (∀ b, readBt t b = 0) ∧ readP t = 0
  issue : (curCore t).shReady = tempoNow s + 1
  bytes : SameBytes s t

/-- Core `k` holds a context of the task in focus that has reached ALIGN of the gang of header `h` and not released (R34). -/
def FormsWith (s : State) (h : Line) (k : Nat) : Prop :=
  (getCore s k).resident = true ∧ (getCore s k).ctx.task = (curCtx s).task
    ∧ ((getCore s k).ctx.seg.phase = .pre ∨ (getCore s k).ctx.seg.phase = .waiting)
    ∧ hdrGang (getCore s k).ctx.seg.hdr = true ∧ hdrGangid (getCore s k).ctx.seg.hdr = hdrGangid h

/-- It agrees on T, CYCLES and GANGSIZE (R34). -/
def AgreesWith (s : State) (h : Line) (t : Nat) (k : Nat) : Prop :=
  (getCore s k).ctx.seg.gangT = t ∧ hdrCycles (getCore s k).ctx.seg.hdr = hdrCycles h
    ∧ hdrGangsize (getCore s k).ctx.seg.hdr = hdrGangsize h

/-- The segment of the core in focus is to complete (R39, R40): its closure has begun, everything has landed and
performed, nothing is raised, the drain queue is empty, and the count and the signature agree, unless its window has
already replayed for them (R363); and so it stands with every member of its gang (R364; the model's reading, log entry 92). -/
structure Completes (s : State) : Prop where
  closing : (curCtx s).seg.phase = .closing
  main : (curCtx s).inShadow = false
  landed : landedAll (curCore s) = true
  quiet : (curCore s).events = [] ∧ (curCore s).hold = .none ∧ (curCore s).drain = []
  agrees : (curCtx s).seg.endReplayed = true
    ∨ ((curCtx s).seg.segeAt = some (hdrCycles (curCtx s).seg.hdr)
      ∧ crcFinal (curCtx s).seg.crc = hdrSig (curCtx s).seg.hdr)
  gang : segGang s = true → ∀ k ∈ releasedGang s,
    (getCore s k).ctx.seg.phase = .closing ∧ endMismatches (getCore s k).ctx.seg = []

/-- WIDEN once a segment completes (R121). -/
def widenAfter (c : Ctx) : Word :=
  if passedThreshold c then c.widen ||| BitVec.ofNat 64 (2 ^ hdrSegnum c.seg.hdr) else c.widen

/-- The arrivals that a segment holds back, in their order, have taken effect (R284). -/
def arrived (s : State) : State := (curCtx s).seg.arrivals.foldl (fun v n => arriveNow n v) s

/-- What a word raises of itself in loose code, with TRAPINFO (R75, R81, R83, R84, R94, R118, R55, R357): misalignment,
scratchpad bounds, an arithmetic trap, a register number that is not listed, ERET outside the shadow context. -/
def trapOf (s : State) (i : Instr) : Option (Nat × Word) :=
  match loadOf s i, storeOf s i, scratchLoadOf s i, scratchStoreOf s i, atomicOf s i, divResult s i with
  | some (_, va, n), _, _, _, _, _ => if va % n = 0 then none else some (0x04, BitVec.ofNat 64 (va % 2 ^ 57))
  | _, some (_, va, n), _, _, _, _ => if va % n = 0 then none else some (0x04, BitVec.ofNat 64 (va % 2 ^ 57))
  | _, _, some (_, off, n), _, _, _ =>
    if off % n ≠ 0 then some (0x04, BitVec.ofNat 64 (off % 2 ^ 57))
    else if off + n ≤ 2 ^ 21 then none else some (0x06, BitVec.ofNat 64 (off % 2 ^ 57))
  | _, _, _, some (_, off, n), _, _ =>
    if off % n ≠ 0 then some (0x04, BitVec.ofNat 64 (off % 2 ^ 57))
    else if off + n ≤ 2 ^ 21 then none else some (0x06, BitVec.ofNat 64 (off % 2 ^ 57))
  | _, _, _, _, some (_, va, n, _, _), _ => if va % n = 0 then none else some (0x04, BitVec.ofNat 64 (va % 2 ^ 57))
  | _, _, _, _, _, some (_, b, _) => if b = 0 ∧ (curCtx s).atrap = true then some (0x05, 0) else none
  | _, _, _, _, _, _ =>
    match i with
    | .gets _ n => if specialListed n.toNat && !(decide (0x30 ≤ n.toNat) && decide (n.toNat ≤ 0x37)) then none else some (0x00, 0)
    | .sets _ n => if specialListed n.toNat then none else some (0x00, 0)
    | .eret => some (0x00, 0)
    | .sege => some (0x00, 0)
    | .waitc _ a _ _ => if (readG s a).toNat % 8 = 0 then none else some (0x04, BitVec.ofNat 64 ((readG s a).toNat % 2 ^ 57))
    | .sdef a _ => if (readG s a).toNat % 64 = 0 then none else some (0x04, BitVec.ofNat 64 ((readG s a).toNat % 2 ^ 57))
    | _ => none

/-- The registers and everything else are as they were, and execution stands at `next`: the effect of a word is in
the rest of `t`. -/
structure RegsKept (s t : State) (next : Word) : Prop where
  g : ∀ n, readG t n = readG s n
  bt : ∀ b, readBt t b = readBt s b
  pred : readP t = readP s
  pc : pcOf t = next

/-! ## Tasks and reports -/

/-- Where a context of a task stands (R29). -/
def placeOf (s : State) (task spidx : Nat) : Place := KMap.get .unplaced (getTask s task).places spidx

/-- Byte `k` of report entry `n` of the ring (R400). -/
def reportByte (s : State) (n k : Nat) : Byte := KMap.get 0 s.host.reports (32 * (n % 256) + k)

/-- A report has been written to the ring, which was not full, and MSI-X vector 0 raised: kind and code (R400). -/
def Reported (s t : State) (kind code : Nat) : Prop :=
  t.host.repWr = s.host.repWr + 1 ∧ t.host.raised = s.host.raised ++ [0]
    ∧ reportByte t s.host.repWr.toNat 0 = BitVec.ofNat 8 kind
    ∧ (∀ k, k < 4 → reportByte t s.host.repWr.toNat (4 + k) = BitVec.ofNat 8 (code / 256 ^ k))

/-- The report ring has room (R400). -/
def reportRoom (s : State) : Prop := s.host.repWr - s.host.repRd ≠ 256

/-- The host is told of an end: at once where the complex dispatches and the ring has room, and where it does not dispatch
the report is kept until it does (R365, R388). -/
def Told (s t : State) (kind code : Nat) : Prop :=
  (complexRuns s = true → reportRoom s → Reported s t kind code)
    ∧ (complexRuns s = false → t.host.repWr = s.host.repWr
      ∧ ∃ r, t.fw.held = s.fw.held ++ [r] ∧ r.kind = kind ∧ r.code = code)

/-- A task has been aborted (R365): it runs nowhere, all its contexts have ended, and it is over. -/
structure TaskGone (s t : State) (task : Nat) : Prop where
  ended : (getTask t task).life = .aborted
  places : ∀ i, i < (getTask s task).contexts → placeOf t task i = .ended
  cores : ∀ k, k < 128 → (getCore s k).ctx.task = task → (getCore t k).resident = false
  others : ∀ k, k < 128 → (getCore s k).ctx.task ≠ task →
    (getCore t k).resident = (getCore s k).resident ∧ (getCore t k).ctx = (getCore s k).ctx

/-- Reason 1 of R380: a reserved TYPE, AFF = 3, NWAIT above 4, PDIE above 8, or the reserved header bit. -/
def packetFlawed (p : Line) : Bool :=
  decide (bitsAt p 32 4 ≠ 1 ∧ bitsAt p 32 4 ≠ 2) || decide (bitsAt p 41 2 = 3) || decide (4 < bitsAt p 38 3)
    || decide (8 < bitsAt p 43 4) || bitAt p 47

/-- Kind and extent of entry `i` of the loop table in a code-object header (R27, R372). -/
def levelOf (h : List Byte) (i : Nat) : Nat × Nat :=
  (fieldOf h (0x30 + 4 * i) 4 % 4, fieldOf h (0x30 + 4 * i) 4 / 256 % 65536 + 1)

/-- Product of the extents of the levels of a kind (R28). -/
def extentsOf (h : List Byte) (kind : Nat) : Nat :=
  (((List.range 8).map (levelOf h)).filter fun l => decide (l.1 = kind)).foldr (fun l n => l.2 * n) 1

/-- The table of R380 for a packet whose code object begins with the bytes `h`: reason, and whether it holds. (The second
condition on optical apertures is R402's: they are not negotiated.) -/
def launchFlaws (s : State) (ring : Nat) (p : Line) (h : List Byte) : List (Nat × Bool) :=
  let code := bitsAt p 64 64
  let pdie := bitsAt p 43 4
  let size := fieldOf h 0x08 4
  let entry := fieldOf h 0x18 8
  let dieLevel := (List.range 8).any fun i => decide ((levelOf h i).1 = 3)
  let contexts := extentsOf h 2 * extentsOf h 3
  let r := getRing s ring
  [(1, packetFlawed p),
   (2, decide (code % 4096 ≠ 0) || decide (fieldOf h 0 4 ≠ 0x4B583843) || decide (fieldOf h 4 2 ≠ 1)
      || decide (size % 64 ≠ 0 ∨ size < 256 ∨ 8388608 < size) || decide (entry % 4 ≠ 0 ∨ entry < 0x100 ∨ size < entry + 4)
      || decide (fieldOf h 0x12 6 ≠ 0 ∨ fieldOf h 0x50 176 ≠ 0) || (firmwareBytes s r.owner r.asid code size).isNone),
   (3, ((List.range 8).any fun i => (List.range i).any fun j =>
          decide ((levelOf h j).1 = 0) && decide ((levelOf h i).1 ≠ 0))
      || decide (16 < extentsOf h 2) || decide (8 < extentsOf h 3) || (dieLevel && decide (pdie ≠ 0))),
   (4, decide (16 < fieldOf h 0x0E 1) || decide (8 < fieldOf h 0x0F 1) || decide (2 < fieldOf h 0x10 1)
      || decide (1024 < fieldOf h 0x0C 2) || (decide (0 < fieldOf h 0x10 1) && !bitAt s.feat0 2)),
   (5, decide (4096 < (lockPages s r.asid).length)),
   (6, ((List.range (bitsAt p 38 3)).any fun j => decide (bitsAt p (256 + 64 * j + 48) 16 = 0xFFFF)) || !tableOk s r),
   (7, decide (fieldOf h 6 2 / 4 % 2 = 1) && (
      if dieLevel then decide (((List.range (extentsOf h 3)).map (coresInService s)).sum < contexts)
      else if pdie = 0 then (List.range 8).all fun d => decide (coresInService s d < contexts)
      else decide (coresInService s (pdie - 1) < contexts)))]

/-- The 64-bit word at `p` has grown by one, and every other byte of memory reads as before. -/
def OneAdded (s t : State) (p : Phys) : Prop :=
  (∀ k, k < 8 → physByte t ⟨p.host, p.pa + k⟩ = byteOf (wordOfBytes (physBytes s p 8) + 1) k)
    ∧ ∀ q : Phys, (q.host = p.host → q.pa < p.pa ∨ p.pa + 8 ≤ q.pa) → physByte t q = physByte s q

/-! ## Host requests and frames -/

/-- A request of the given CODE whose reserved bytes are zero (R399). -/
def WellAddressed (code : Nat) (req : Line) : Prop :=
  reqCode req = code ∧ ∀ f ∈ reqReserved code, reqField req f.1 f.2 = 0

/-- STATUS of a request slot (R398). -/
def slotStatus (s : State) (slot : Nat) : Nat := ofLeBytes (KMap.getList 0 s.host.slots (64 * slot + 4) 4)

/-- A field of a request slot: `n` bytes at byte `off` (R399). -/
def slotField (s : State) (slot off n : Nat) : Nat := ofLeBytes (KMap.getList 0 s.host.slots (64 * slot + off) n)

/-- The request has been answered with STATUS 0, and vector 1 raised (R398). -/
def Answered (s t : State) (slot : Nat) : Prop :=
  slotStatus t slot = 0 ∧ t.host.raised = s.host.raised ++ [1]

/-- The request has been refused with STATUS 1 and the given REASON, and vector 1 raised (R398, R399). -/
def Refused (s t : State) (slot reason : Nat) : Prop :=
  slotStatus t slot = 1 ∧ slotField t slot 56 4 = reason ∧ t.host.raised = s.host.raised ++ [1]

/-- A FREE stays pending: STATUS 2, no interrupt, and the allocation remembers its slot (R399). -/
def FreePends (s t : State) (slot asid va : Nat) : Prop :=
  slotStatus t slot = 2 ∧ t.host.raised = s.host.raised
    ∧ ∃ b ∈ (getSpace t asid).allocs, b.va = va ∧ b.freeing = some slot

/-- Guard `i` is recorded on the tape of the core in focus, and its register does not hold the value recorded (R338,
R341). -/
def guardFails (s : State) (i : Nat) : Bool :=
  bitAt (curCore s).tape.gmask i
    && (curCtx s).main.read (KMap.get 0 (curCore s).tape.greg i).toNat != KMap.get 0 (curCore s).tape.gval i

/-! ## Cycles and ways -/

/-- Nothing but the clock happens at the end of this cycle: no stimulus, no notification kept, no event of a core, and no
abort to end. -/
def QuietCycle (s : State) : Prop :=
  s.stimuli = [] ∧ s.notes = []
    ∧ ∀ k, k < 128 → (getCore s k).events = [] ∧ (getCore s k).ctx.seg.phase ≠ .aborting

/-- The one event of this cycle is `e` on core `k`: no stimulus, no notification kept, no other core's event, and no abort
to end on another core. -/
def OneEvent (s : State) (k : Nat) (e : Event) : Prop :=
  s.stimuli = [] ∧ s.notes = [] ∧ k < 128 ∧ (getCore s k).events = [e] ∧ (getCore s k).hold = .none
    ∧ ∀ j, j < 128 → (getCore s j).ctx.seg.phase ≠ .aborting ∧ (j ≠ k → (getCore s j).events = [])

/-- Nothing happens at the end of this cycle but that the abort of core `k` has drained. -/
def Drained (s : State) (k : Nat) : Prop :=
  s.stimuli = [] ∧ s.notes = [] ∧ k < 128 ∧ (∀ j, j < 128 → (getCore s j).events = [])
    ∧ (∀ j, j < 128 → j ≠ k → (getCore s j).ctx.seg.phase ≠ .aborting)
    ∧ (getCore s k).resident = true ∧ (getCore s k).ctx.seg.phase = .aborting ∧ (getCore s k).hold = .none
    ∧ (getCore s k).flights = [] ∧ (getCore s k).pend = [] ∧ (getCore s k).play.on = false

/-- Causes that abort a solo segment (R351, letter A of its Solo column). -/
def soloAborts : List Nat :=
  [0, 1, 2, 3, 4, 5, 6, 7, 9, 0x0A, 0x0B, 0x0C, 0x0D, 0x0F, 0x20, 0x25, 0x26, 0x27, 0x2A, 0x2B, 0x2C, 0x2D, 0x2E, 0x2F]
    ++ [0x50, 0x51, 0x52, 0x53, 0x54, 0x55]

/-- A scalar load on its way to its register. -/
def loadFlight (f : Flight) : Bool :=
  match f.kind with
  | .load _ _ _ => true
  | _ => false

/-- Every segment's own access of core `c` but its scalar loads, and what else waits. -/
def keptPend (c : Core) : List Access := c.pend.filter fun a => !(a.kind == .load && a.seg)

/-- The handler of core `k` starts on what TRAPCAUSE, TRAPPC and TRAPINFO hold (R249, R352, R355); `x` is the context
before, `y` after. -/
structure HandlerEntered (x y : Ctx) (k how code col offset : Nat) (info pc : Word) : Prop where
  shadow : y.inShadow = true
  cause : y.trapCause = BitVec.ofNat 64 (offset % 2 ^ 32 * 2 ^ 32 + col % 8 * 2 ^ 16 + how * 2 ^ 8 + code % 256)
  pc : y.trapPc = BitVec.ofNat 64 (pc.toNat % 2 ^ 57)
  info : y.trapInfo = info
  handler : y.shadow.pc = BitVec.ofNat 64 (x.codeBase + x.handler)
  mailbox : y.shadow.read 1 = BitVec.ofNat 64 (0x01FFFFFF00000000 + 0x10000 * (k / 16) + 0x40 * (k % 16))
  clear : (∀ n, n ≠ 1 → y.shadow.read n = 0) ∧ y.shadow.bt = [] ∧ y.shadow.p = 0

/-- An abort has begun on a core (R35 steps 1 and 2, R358 steps 1 and 2): `c` before, `d` after; `e` is its event. -/
structure AbortBegun (c d : Core) (e : Event) (offset : Nat) : Prop where
  phase : d.ctx.seg.phase = .aborting
  event : d.ctx.seg.ev = e ∧ d.ctx.seg.evOffset = offset
  stops : d.queue = [] ∧ d.retry = [] ∧ d.hold = .none ∧ d.events = []
  loads : d.flights = c.flights.filter (fun f => !loadFlight f) ∧ d.pend = keptPend c
  dropped : d.ctx.seg.arrivals = [] ∧ d.ctx.seg.notes = 0 ∧ d.ctx.seg.trap = none
  kept : d.ctx.main = c.ctx.main ∧ d.ctx.acc = c.ctx.acc ∧ d.ctx.vregs = c.ctx.vregs ∧ d.sp = c.sp
  release : d.ctx.seg.snap = c.ctx.seg.snap ∧ d.ctx.seg.accs = c.ctx.seg.accs ∧ d.ctx.seg.alignPc = c.ctx.seg.alignPc

/-- What an abort leaves of a core but its registers (R35 steps 3 and 4, R358 steps 2 to 5): streams return to what they
were at release, the drain queue is empty, the accumulators of the segment are zero, and what was written stays. -/
structure AbortLeaves (c d : Core) : Prop where
  streams : d.ctx.streams = c.ctx.seg.snap.streams ∧ d.ctx.tm = c.ctx.seg.snap.tm ∧ d.ctx.xt = c.ctx.seg.snap.xt
  drain : d.drain = []
  zeroed : ∀ a m n, a < 4 → m < 64 → n < 64 → bitAt c.ctx.seg.accs a = true → accElem d.ctx a m n = 0
  others : ∀ a m n, a < 4 → m < 64 → n < 64 → bitAt c.ctx.seg.accs a = false → accElem d.ctx a m n = accElem c.ctx a m n
  kept : d.ctx.vregs = c.ctx.vregs ∧ d.sp = c.sp

/-- Dirty sectors that slice `x` of the die in focus holds in the ways from `w` on (R222). -/
def waysDirty (s : State) (w x : Nat) : Nat :=
  (((getDie s (curDie s)).l2.filter fun l => decide (l.slice = x) && decide (w ≤ l.way)).map fun l =>
    (List.range 4).countP fun i => bitAt l.dirty i).sum

/-- Slices above the cores of the group in focus (R212). -/
def groupSlices (s : State) : List Nat :=
  (groupCores s).flatMap fun k => (List.range 32).map fun j => 32 * (k % 16) + j

/-- D of R222: sectors that a shrinking to `w` ways writes back across the group. -/
def waysWritten (s : State) (w : Nat) : Nat := ((groupSlices s).map (waysDirty s w)).sum

/-- Dmax of R222: the most that one slice writes back. -/
def waysBusiest (s : State) (w : Nat) : Nat := ((groupSlices s).map (waysDirty s w)).foldr Nat.max 0

/-- Qg of R222: the group's DRAM share. -/
def waysShare (s : State) : Nat := ((groupCores s).map fun k => (getCore s k).ctx.q).sum

/-- Device address of the mailbox window of core `k` (R250); where a die's mailbox page lies is the model's choice (log
entry 12). -/
def mailboxAt (k : Nat) : Nat := k / 16 * 2 ^ 36 + 976561 * 65536 + 64 * (k % 16)

/-- Device address of the leaf entry of a page in an address space whose tables reach it (R242). -/
def leafEntryAt (s : State) (asid va psize : Nat) : Nat :=
  let next (t i : Nat) : Nat := bitsAt (readPte s t i) 12 36 * 4096
  let t2 := next (next (getSpace s asid).root (va / 2 ^ 48 % 512)) (va / 2 ^ 39 % 512)
  if psize = 2 then t2 + 8 * (va / 2 ^ 30 % 512)
  else next t2 (va / 2 ^ 30 % 512) + 8 * if psize = 1 then va / 2 ^ 21 % 512 else va / 2 ^ 16 % 16384

/-- Far address of row `i` of a DATA frame's operation (R405). -/
def frameRowAt (f : Frame) (i : Nat) : Nat := (f.va + i * f.rowPitch) % 2 ^ 57

/-- The rows of a WRITE, cut at the sectors' bounds: address and bytes (R405). -/
def pushedParts (f : Frame) : List (Nat × List Byte) :=
  (List.range f.nRows).flatMap fun i => (piecesOf (frameRowAt f i) f.rowBytes).map fun p =>
    (p.1, (((f.data.drop (i * f.rowBytes)).take f.rowBytes).drop (p.1 - frameRowAt f i)).take p.2)

/-- The byte at a place of memory as parts written in order leave it, each where its address translates to for an address
space; none where no part does. -/
def partByte (s : State) (die asid : Nat) (parts : List (Nat × List Byte)) (q : Phys) : Option Byte :=
  parts.reverse.findSome? fun r => match translate s die asid r.1 true with
    | .ok p _ => if p.host = q.host ∧ p.pa ≤ q.pa ∧ q.pa < p.pa + r.2.length then some (r.2.getD (q.pa - p.pa) 0) else none
    | .fault _ _ => none

/-- Where run `n` of a pull stands among the bytes of its rows, and whether rows `f` brings are its own (R405). -/
def runAt (cp : Copy) (n : Nat) : Nat := ((cp.runs.take n).map fun r => r.2.length).sum
def runComes (f : Frame) (cp : Copy) (n : Nat) : Bool :=
  decide (f.firstRow * f.rowBytes ≤ runAt cp n) && decide (runAt cp n < f.firstRow * f.rowBytes + f.nRows * f.rowBytes)

/-- The only flight of the core that issued it is the loose command that a frame answers (R405). -/
def Answers (s : State) (f : Frame) (g : Flight) (cp : Copy) : Prop :=
  (getCore s f.srcCore).flights = [g] ∧ g.kind = .copy cp ∧ cp.path = .package ∧ cp.peer = f.srcPkg ∧ cp.cmdid = f.cmdId

/-! ## Issues of records -/

/-- The record issue that an instruction is; none for every other instruction. -/
def recordOf : Instr → Option Issue
  | .mark x => some x
  | .mma x => some x
  | .mpass x => some x
  | .mzero x => some x
  | .mload x => some x
  | .mdrain x => some x
  | .mstore x => some x
  | .mrep x => some x
  | .mchain x => some x
  | .vadd x => some x
  | .vsub x => some x
  | .vmul x => some x
  | .vfma x => some x
  | .vmin x => some x
  | .vmax x => some x
  | .vabs x => some x
  | .vneg x => some x
  | .vmulh x => some x
  | .vand x => some x
  | .vor x => some x
  | .vxor x => some x
  | .vnot x => some x
  | .vshl x => some x
  | .vshr x => some x
  | .vsar x => some x
  | .vbfx x => some x
  | .vfsh x => some x
  | .vpopc x => some x
  | .vclz x => some x
  | .vcmp x => some x
  | .vsel x => some x
  | .vmov x => some x
  | .vspl x => some x
  | .viota x => some x
  | .vcvt x => some x
  | .vqnt x => some x
  | .vdq x => some x
  | .vrotr x => some x
  | .vrotc x => some x
  | .vbcr x => some x
  | .vbcc x => some x
  | .vredr x => some x
  | .vredc x => some x
  | .vscanr x => some x
  | .vscanc x => some x
  | .vtrb x => some x
  | .vld x => some x
  | .vst x => some x
  | .vpop x => some x
  | .vgath x => some x
  | .vscat x => some x
  | .vlut x => some x
  | .vpart x => some x
  | .vcnt x => some x
  | .vamo x => some x
  | .frcp x => some x
  | .frsq x => some x
  | .fsqrt x => some x
  | .fexp2 x => some x
  | .flog2 x => some x
  | .fsin x => some x
  | .fcos x => some x
  | .ftanh x => some x
  | .fsig x => some x
  | .cpy x => some x
  | .cpyL x => some x
  | .cpyG x => some x
  | .cpyS x => some x
  | .cpyXMemory x => some x
  | .cpyXScratchpad x => some x
  | .cpyZ x => some x
  | .cpyD x => some x
  | .cpyW x => some x
  | .oxf x => some x
  | .oxc x => some x
  | .omask x => some x
  | .ocal x => some x
  | .owin x => some x
  | .oref x => some x
  | .nbScore x => some x
  | .nbSel x => some x
  | .nbPut x => some x
  | .nbStat x => some x
  | .recordHintRegionIssue x => some { x with nul := true }
  | _ => none

/-- The first cycle that the column's spacing allows an issue (R127, R149, R173, R188). -/
def spacingOf (s : State) (i : Instr) : Nat :=
  match i with
  | .mma _ => mxFree s
  | .mpass _ => mxFree s
  | .mzero _ => mxFree s
  | .mload _ => mxFree s
  | .mdrain _ => mxFree s
  | .mstore _ => mxFree s
  | .mrep _ => mxFree s
  | .mchain _ => mxFree s
  | .recordHintRegionIssue x =>
    if x.col = 1 then mxFree s else if x.col = 4 then KMap.get 0 (curCore s).mulUntil x.col else 0
  | .vmul x => KMap.get 0 (curCore s).mulUntil x.col
  | .vfma x => KMap.get 0 (curCore s).mulUntil x.col
  | .vmulh x => KMap.get 0 (curCore s).mulUntil x.col
  | .frcp x => KMap.get 0 (curCore s).mulUntil x.col
  | .frsq x => KMap.get 0 (curCore s).mulUntil x.col
  | .fsqrt x => KMap.get 0 (curCore s).mulUntil x.col
  | .fexp2 x => KMap.get 0 (curCore s).mulUntil x.col
  | .flog2 x => KMap.get 0 (curCore s).mulUntil x.col
  | .fsin x => KMap.get 0 (curCore s).mulUntil x.col
  | .fcos x => KMap.get 0 (curCore s).mulUntil x.col
  | .ftanh x => KMap.get 0 (curCore s).mulUntil x.col
  | .fsig x => KMap.get 0 (curCore s).mulUntil x.col
  | .vamo x => if stSpace x.sD = 0 then 0 else KMap.get 0 (curCore s).atomUntil x.col
  | _ => 0

/-- The multiply or SF lanes of an issue's column, held for 4 cycles. -/
def lanesHeld (x : Issue) (s : State) : State :=
  updCore (fun c => { c with mulUntil := KMap.set 0 c.mulUntil x.col (now s + 4) }) s

/-- The lanes that an issue holds, whether or not it performs: the multiply and SF lanes for 4 cycles (R149, R173; of
the hint region those of column SF), the atomic port for 16 (R188). -/
def held (s : State) (i : Instr) : State :=
  match i with
  | .vmul x => lanesHeld x s
  | .vfma x => lanesHeld x s
  | .vmulh x => lanesHeld x s
  | .frcp x => lanesHeld x s
  | .frsq x => lanesHeld x s
  | .fsqrt x => lanesHeld x s
  | .fexp2 x => lanesHeld x s
  | .flog2 x => lanesHeld x s
  | .fsin x => lanesHeld x s
  | .fcos x => lanesHeld x s
  | .ftanh x => lanesHeld x s
  | .fsig x => lanesHeld x s
  | .recordHintRegionIssue x => if x.col = 4 then lanesHeld x s else s
  | .vamo x =>
    if stSpace x.sD = 0 then s
    else updCore (fun c => { c with atomUntil := KMap.set 0 c.atomUntil x.col (now s + 16) }) s
  | _ => s

/-- The issue is not nullified, and its cycle is its own (R37, R38). -/
def Goes (s : State) (i : Instr) (x : Issue) : Prop :=
  recordOf i = some x ∧ x.nul = false ∧ collides (curCore s) x.col (spacingOf s i) = false

/-- An issue has taken its cycle and its place in the queue (R36, R37). Beside what it puts in flight, nothing has
changed but the window that opens in its cycle, which an issue that a replay would repeat joins (R361), and, with its
record's last issue, a notification (R385). -/
structure Issued (s t : State) (x : Issue) : Prop where
  focus : OnlyFocus s t
  core : curCore t = { curCore s with
    ctx := curCtx t, flights := (curCore t).flights, nextId := (curCore t).nextId
    queue := advanceQueue x.seq (curCore s).queue
    lastIssue := KMap.set 0 (curCore s).lastIssue x.col (now s + 1) }
  ctx : curCtx t = { curCtx s with seg := (curCtx t).seg, notify := (curCtx t).notify }
  seg : (curCtx t).seg = { (curCtx s).seg with
    mark := (curCtx t).seg.mark, hist := (curCtx t).seg.hist, replayed := (curCtx t).seg.replayed
    endReplayed := (curCtx t).seg.endReplayed, notes := (curCtx t).seg.notes }
  quiet : (x.last && recNT x.raw) = false →
    (curCtx t).notify = (curCtx s).notify ∧ (curCtx t).seg.notes = (curCtx s).seg.notes
  same : windowOpens (curCore s) = false → (curCtx t).seg.mark = (curCtx s).seg.mark
    ∧ (curCtx t).seg.replayed = (curCtx s).seg.replayed ∧ (curCtx t).seg.endReplayed = (curCtx s).seg.endReplayed
  opens : windowOpens (curCore s) = true → (curCtx t).seg.mark.m = now s
    ∧ (curCtx t).seg.replayed = false ∧ (curCtx t).seg.endReplayed = false
  hist : (curCtx t).seg.hist = (if windowOpens (curCore s) then [] else (curCtx s).seg.hist)
    ++ if replayable x && !x.nul then [(now s, x, issuePc (curCore s) x.seq)] else []

/-- The issue has put one result in flight, which lands or performs `lat` cycles on. -/
def Launched (s t : State) (x : Issue) (lat : Nat) (k : FKind) : Prop :=
  (curCore t).flights = (curCore s).flights ++ [⟨now s + lat, x.col, now s, (curCore s).nextId, k⟩]
    ∧ (curCore t).nextId = (curCore s).nextId + 1

/-- Nothing has been put in flight. -/
def NoFlight (s t : State) : Prop :=
  (curCore t).flights = (curCore s).flights ∧ (curCore t).nextId = (curCore s).nextId

/-- An operation's pages are in the translation cache, and the choices left open all fall to their first value. -/
def Resident (s : State) (ranges : List (Nat × Nat)) : Prop := s.oracle = [] ∧ ∀ r ∈ ranges, missing s r = []

/-! ## Copies -/

/-- Cycles from a copy's start to its landing (R196). -/
def landsAfter (c : Ctx) (p : Path) (bytes refresh : Nat) : Nat :=
  match p with
  | .ss => 6 + (bytes + 511) / 512
  | .ls => 40 + (bytes + 511) / 512
  | .dram => 110 + (bytes + 64 * c.q - 1) / (64 * c.q) + refresh
  | .remote => 110 + (bytes + 64 * c.m - 1) / (64 * c.m) + refresh + 48
  | _ => 110 + (bytes + 64 * c.m - 1) / (64 * c.m) + 48

/-- Bytes that a copy counts (R200 to R205): rows of D, of CPY.S those of A. -/
def copiedBytes (x : Issue) : Nat :=
  if opOf x.raw = 3 then stRows x.sA * stRowBytes x.sA else stRows x.sD * stRowBytes x.sD

/-- Byte `j` of the fill of CPY.Z and of CPY.L's pad: the immediate's low byte, or byte `j` of the register's image
(R202). -/
def fillByte (s : State) (x : Issue) (j : Nat) : Byte :=
  if isImm (nameB x.raw) then BitVec.ofInt 8 (immOf (nameB x.raw))
  else byteOf ((vecElem (curCtx s) (vecB x) (j / 4)).setWidth 64) (j % 4)

/-- Image of the batch in which position `p` of CPY.L lies (R203): n. -/
def windowOf (x : Issue) (p : Nat) : Nat :=
  (stRowOrg x.sA + stRows x.sD * x.i2 + p) / ((recMod x.raw 9 9 + 1) * (recMod x.raw 0 9 + 1))

/-- What CPY.L puts into row `p` of D (R203). -/
def loweredRow (s : State) (x : Issue) (p : Nat) : List Byte :=
  let oh := recMod x.raw 9 9 + 1
  let ow := recMod x.raw 0 9 + 1
  let ih := recMod x.raw 27 9 + 1
  let iw := recMod x.raw 18 9 + 1
  let st := recMod x.raw 42 2 + 1
  let n := windowOf x p
  let q := (stRowOrg x.sA + stRows x.sD * x.i2 + p) % (oh * ow)
  let y : Int := (q / ow : Nat) * (st : Int) - recMod x.raw 36 3 + x.i1
  let z : Int := (q % ow : Nat) * (st : Int) - recMod x.raw 39 3 + x.i0
  if recMod x.raw 44 8 + 1 ≤ n then List.replicate (stRowBytes x.sD) 0
  else if y < 0 ∨ (ih : Int) ≤ y ∨ z < 0 ∨ (iw : Int) ≤ z then (List.range (stRowBytes x.sD)).map (fillByte s x)
  else (readRow s s.cur x.sA (posA x) ((n * ih + y.toNat) * iw + z.toNat) (stRowBytes x.sA)).map Prod.fst

/-- The rows of D that a copy writes, in order, with their bytes: CPY row by row but those that the tail mask of its
pair names, CPY.L by its windows, CPY.G and CPY.S by their index list, CPY.Z its fill (R200 to R203, R205). -/
def copiedRows (s : State) (x : Issue) : List (Nat × List Byte) :=
  let row (r : Nat) : List Byte := (readRow s s.cur x.sA (posA x) r (stRowBytes x.sA)).map Prod.fst
  let index (k : Nat) : Elem := vecElem (curCtx s) (vecB x) k
  match opOf x.raw with
  | 1 => (List.range (stRows x.sD)).map fun p => (p, loweredRow s x p)
  | 2 => (List.range (stRows x.sD)).map fun k =>
      (k, if active (index k) then row (index k).toNat else List.replicate (stRowBytes x.sD) 0)
  | 3 => ((List.range (stRows x.sA)).filter fun k => active (index k)).map fun k => ((index k).toNat, row k)
  | 5 => (List.range (stRows x.sD)).map fun r => (r, (List.range (stRowBytes x.sD)).map (fillByte s x))
  | 0 => ((List.range (stRows x.sD)).filter fun r =>
      !(modBit x.raw 51 && (KMap.get 0 (curCtx s).tm (recMod x.raw 45 6)).getLsbD r)).map fun r => (r, row r)
  | _ => (List.range (stRows x.sD)).map fun r => (r, row r)

/-! ## Vector atomics -/

/-- The 32-bit word at `a` of a memory given byte by byte. -/
def wordIn (m : Nat → Byte) (a : Nat) : Elem :=
  BitVec.ofNat 32 ((m a).toNat + (m (a + 1)).toNat * 2 ^ 8 + (m (a + 2)).toNat * 2 ^ 16 + (m (a + 3)).toNat * 2 ^ 24)

/-- A scratchpad after the active lanes of a VAMO, in ascending order: each replaces the word at its place (R187). -/
def atomsApplied (x : Issue) : List (Elem × Elem) → (Nat → Byte) → Nat → Byte
  | [], m => m
  | (v, i) :: r, m =>
    let at_ := (flatAddr x.sD (posD x) i).toNat
    atomsApplied x r (fun a =>
      if active i = true ∧ at_ ≤ a ∧ a < at_ + 4 then
        byteOf ((vamoLane (vOpx x.raw) (vTy x.raw) (wordIn m at_) v).setWidth 64) (a - at_)
      else m a)

/-- The lanes of a VAMO after the one that has performed are to come, within 600 cycles of its issue (R187). -/
def lanesToCome (f : Flight) (x : Issue) (vals idx : List Elem) (s : State) : State :=
  if idx.any active then
    updCore (fun c => { c with
      flights := c.flights ++ [{ f with due := Min.min f.due (f.issued + 600), kind := .vamo x vals idx }] }) s
  else s

/-! ## Lanes of vector operations -/

/-- Lane `p` of operands D, A and B; an immediate stands in every lane (R152). -/
def laneD (s : State) (x : Issue) (p : Nat) : Elem := vecElem (curCtx s) (vecD x) p
def laneA (s : State) (x : Issue) (p : Nat) : Elem := vecElem (curCtx s) (vecA x) p
def laneB (s : State) (x : Issue) (ty p : Nat) : Elem :=
  if isImm (nameB x.raw) then immElem ty (nameB x.raw) else vecElem (curCtx s) (vecB x) p

/-- A lane's integer: signed for TY 1, unsigned for TY 2 (R152). -/
def laneInt (ty : Nat) (e : Elem) : Int := if ty = 1 then e.toInt else (e.toNat : Int)

/-- Whether condition OPX of VCMP holds of two integers (R158). -/
def cmpHolds (opx : Nat) (i j : Int) : Bool :=
  match opx with
  | 0 => decide (i = j)
  | 1 => decide (i ≠ j)
  | 2 => decide (i < j)
  | 3 => decide (i ≤ j)
  | 4 => decide (j < i)
  | _ => decide (j ≤ i)

/-- Lanes of A that VPART and VCNT select, ascending (R181, R182). -/
def lanesWhere (s : State) (x : Issue) (yes : Bool) : List Nat :=
  (List.range 1024).filter fun p => ((laneA s x p == 0) == vInv x.raw) == yes

/-- What an element-lane operation puts into lane `p` of its result, and its latency (R155 to R160, R164 to R168,
R174, R181, R182, R186): integers by plain arithmetic, binary32 by the exact value rounded once. -/
def laneResult (s : State) : Instr → Option (Nat × (Nat → Elem))
  | .vadd x => some (if vTy x.raw = 0 then 4 else 2, fun p =>
      if vTy x.raw = 0 then addF (arithMode x.raw) (f32 (laneA s x p)) (f32 (laneB s x 0 p))
      else BitVec.ofNat 32 ((laneA s x p).toNat + (laneB s x (vTy x.raw) p).toNat))
  | .vsub x => some (if vTy x.raw = 0 then 4 else 2, fun p =>
      if vTy x.raw = 0 then addF (arithMode x.raw) (f32 (laneA s x p)) (f32 (laneB s x 0 p)).neg
      else BitVec.ofInt 32 ((laneA s x p).toInt - (laneB s x (vTy x.raw) p).toInt))
  | .vmul x => some (8, fun p =>
      if vTy x.raw = 0 then roundF32 (arithMode x.raw) ((f32 (laneA s x p)).mul (f32 (laneB s x 0 p)))
      else BitVec.ofNat 32 ((laneA s x p).toNat * (laneB s x (vTy x.raw) p).toNat))
  | .vfma x => some (8, fun p =>
      if vTy x.raw = 0 then
        addF (arithMode x.raw) (f32 (laneD s x p)) ((f32 (laneA s x p)).mul (f32 (laneB s x 0 p)))
      else BitVec.ofNat 32 ((laneD s x p).toNat + (laneA s x p).toNat * (laneB s x (vTy x.raw) p).toNat))
  | .vmin x => some (2, fun p =>
      if vTy x.raw = 0 then minMaxLane false 0 (laneA s x p) (laneB s x 0 p)
      else BitVec.ofInt 32 (Min.min (laneInt (vTy x.raw) (laneA s x p)) (laneInt (vTy x.raw) (laneB s x (vTy x.raw) p))))
  | .vmax x => some (2, fun p =>
      if vTy x.raw = 0 then minMaxLane true 0 (laneA s x p) (laneB s x 0 p)
      else BitVec.ofInt 32 (Max.max (laneInt (vTy x.raw) (laneA s x p)) (laneInt (vTy x.raw) (laneB s x (vTy x.raw) p))))
  | .vabs x => some (2, fun p =>
      if vTy x.raw = 0 then BitVec.ofNat 32 ((laneA s x p).toNat % 2 ^ 31)
      else if vTy x.raw = 1 then BitVec.ofNat 32 (laneA s x p).toInt.natAbs else laneA s x p)
  | .vneg x => some (2, fun p =>
      if vTy x.raw = 0 then BitVec.ofNat 32 ((laneA s x p).toNat + 2 ^ 31) else BitVec.ofInt 32 (-(laneA s x p).toInt))
  | .vmulh x => some (8, fun p =>
      if vTy x.raw = 1 then BitVec.ofInt 32 ((laneA s x p).toInt * (laneB s x 1 p).toInt / 2 ^ 32)
      else BitVec.ofNat 32 ((laneA s x p).toNat * (laneB s x (vTy x.raw) p).toNat / 2 ^ 32))
  | .vand x => some (2, fun p => laneA s x p &&& laneB s x 1 p)
  | .vor x => some (2, fun p => laneA s x p ||| laneB s x 1 p)
  | .vxor x => some (2, fun p => laneA s x p ^^^ laneB s x 1 p)
  | .vnot x => some (2, fun p => BitVec.ofNat 32 (2 ^ 32 - 1 - (laneA s x p).toNat))
  | .vshl x => some (2, fun p => BitVec.ofNat 32 ((laneA s x p).toNat * 2 ^ ((laneB s x 1 p).toNat % 32)))
  | .vshr x => some (2, fun p => BitVec.ofNat 32 ((laneA s x p).toNat / 2 ^ ((laneB s x 1 p).toNat % 32)))
  | .vsar x => some (2, fun p => BitVec.ofInt 32 ((laneA s x p).toInt / 2 ^ ((laneB s x 1 p).toNat % 32)))
  | .vbfx x => some (2, fun p => BitVec.ofNat 32 ((laneA s x p).toNat / 2 ^ vSh x.raw % 2 ^ (vLen x.raw + 1)))
  | .vfsh x => some (2, fun p =>
      BitVec.ofNat 32 (((laneA s x p).toNat * 2 ^ 32 + (laneB s x 1 p).toNat) / 2 ^ vSh x.raw))
  | .vpopc x => some (2, fun p => BitVec.ofNat 32 ((List.range 32).countP fun i => (laneA s x p).getLsbD i))
  | .vclz x => some (2, fun p => BitVec.ofNat 32 (32 - Nat.size (laneA s x p).toNat))
  | .vcmp x => some (3, fun p =>
      if vTy x.raw = 0 then cmpLane (vOpx x.raw) 0 (laneA s x p) (laneB s x 0 p)
      else if cmpHolds (vOpx x.raw) (laneInt (vTy x.raw) (laneA s x p)) (laneInt (vTy x.raw) (laneB s x (vTy x.raw) p))
      then BitVec.allOnes 32 else 0)
  | .vsel x => some (2, fun p => if laneD s x p = 0 then laneB s x 1 p else laneA s x p)
  | .vmov x => some (2, fun p =>
      if isImm (nameA x.raw) then immElem (vTy x.raw) (nameA x.raw) else laneA s x p)
  | .vspl x => some (2, fun _ =>
      if splSrc x.raw = 0 then immElem (splTy x.raw) (nameA x.raw)
      else if splSrc x.raw = 1 then splVal x.raw else laneA s x (64 * splRow x.raw + splCol x.raw))
  | .viota x => some (2, fun p =>
      if vTy x.raw = 0 then rneF32 (Val.ofInt (immOf (nameA x.raw) + p)) else BitVec.ofInt 32 (immOf (nameA x.raw) + p))
  | .vdq x => some (4, fun p => dqElem x.sB (vecImageBits (curCtx s) (vecA x) (2048 * (p / 64)) 2048) (p % 64))
  | .vrotr x => some (3, fun p =>
      laneA s x (64 * (p / 64) + (p % 64 + 64 - (laneB s x 1 (64 * (p / 64))).toNat % 64) % 64))
  | .vrotc x => some (5, fun p =>
      laneA s x (64 * ((p / 64 + 16 - (laneB s x 1 (p % 64)).toNat % 16) % 16) + p % 64))
  | .vbcr x => some (2, fun p => laneA s x (64 * (p / 64) + vIdx x.raw))
  | .vbcc x => if vIdx x.raw < 16 then some (4, fun p => laneA s x (64 * vIdx x.raw + p % 64)) else none
  | .vredr x => some (8, fun p => treeFold (foldOp (vOpx x.raw) (vTy x.raw)) 6
      ((List.range 64).map fun k => laneA s x (64 * (p / 64) + k)))
  | .vredc x => some (6, fun p => treeFold (foldOp (vOpx x.raw) (vTy x.raw)) 4
      ((List.range 16).map fun r => laneA s x (64 * r + p % 64)))
  | .vscanr x => some (10, fun p => (scanFold (foldOp (vOpx x.raw) (vTy x.raw)) 6
      ((List.range 64).map fun k => laneA s x (64 * (p / 64) + k))).getD (p % 64) 0)
  | .vscanc x => some (8, fun p => (scanFold (foldOp (vOpx x.raw) (vTy x.raw)) 4
      ((List.range 16).map fun r => laneA s x (64 * r + p % 64))).getD (p / 64) 0)
  | .vtrb x => some (4, fun p => laneA s x (64 * (p % 16) + p % 64 / 16 * 16 + p / 64))
  | .vpart x => some (6, fun p =>
      let val (q : Nat) : Elem := if isImm (nameB x.raw) then BitVec.ofInt 32 (q + immOf (nameB x.raw)) else laneB s x 1 q
      if p < (lanesWhere s x true).length then val ((lanesWhere s x true).getD p 0)
      else if vFill x.raw then BitVec.allOnes 32
      else val ((lanesWhere s x false).getD (p - (lanesWhere s x true).length) 0))
  | .vcnt x => some (3, fun _ => BitVec.ofNat 32 (lanesWhere s x true).length)
  | .frcp x => some (12, fun p => sfValue 0 (laneA s x p))
  | .frsq x => some (14, fun p => sfValue 1 (laneA s x p))
  | .fsqrt x => some (16, fun p => sfValue 2 (laneA s x p))
  | .fexp2 x => some (14, fun p => sfValue 3 (laneA s x p))
  | .flog2 x => some (16, fun p => sfValue 4 (laneA s x p))
  | .fsin x => some (20, fun p => sfValue 5 (laneA s x p))
  | .fcos x => some (20, fun p => sfValue 6 (laneA s x p))
  | .ftanh x => some (22, fun p => sfValue 7 (laneA s x p))
  | .fsig x => some (24, fun p => sfValue 8 (laneA s x p))
  | _ => none

/-- The list holds 1,024 elements, of which number `p` is `f p`. -/
def LanesAre (vals : List Elem) (f : Nat → Elem) : Prop := vals.length = 1024 ∧ ∀ p, p < 1024 → vals.getD p 0 = f p

/-- Byte of the scratchpad of the core in focus. -/
def spByte (s : State) (a : Nat) : Byte := KMap.get 0 (curCore s).sp a

/-- Word `k` of the first `n` bytes of a row of a tile in scratchpad, bytes past them zero (R169). -/
def rowWord (s : State) (st : Line) (t : Int) (row n k : Nat) : Elem :=
  BitVec.ofNat 32 ((List.range 4).foldl (fun v j =>
    v + if 4 * k + j < n then (spByte s (rowByte st t row (4 * k + j))).toNat * 2 ^ (8 * j) else 0) 0)

/-- What VLD puts into lane `p` (R169): words of 16 rows of 64, or in operand form of 64 rows of 16, or with CV the
elements converted; what the tile does not hold is zero. -/
def loadedLane (s : State) (x : Issue) (p : Nat) : Elem :=
  if vOpf x.raw then
    if p / 16 < Min.min (stRows x.sA) 64 then rowWord s x.sA (posA x) (p / 16) (Min.min (stRowBytes x.sA) 64) (p % 16) else 0
  else
    let row := 16 * ((vRg x.raw + x.i0) % 4) + p / 64
    if stRows x.sA ≤ row then 0
    else if vCv x.raw then
      if p % 64 < stCols x.sA then loadElem (curCore s) x.sA (posA x) row (p % 64) else 0
    else rowWord s x.sA (posA x) row (Min.min (stRowBytes x.sA) 256) (p % 64)

/-! ## Conversions -/

/-- Element (r, c) of A as a conversion to stream B takes it: its value, divided by SCALE2 where a narrow format's L2SC
is set (R162, R163). -/
def convertedFrom (s : State) (x : Issue) (r c : Nat) : Val :=
  let v := elemAs (vTy x.raw) (laneA s x (64 * r + c))
  if (stFmt x.sB).isNarrow && stL2sc x.sB then v.div (f32 (stScale2 x.sB)) else v

/-- Mode of element (r, c): the draw's coordinates are the stream's origins and the element's place (R109). -/
def convertedMode (x : Issue) (r c : Nat) : Mode := stMode x.sB (stRowOrg x.sB + r) (stColOrg x.sB + c)

/-- Bit `b` of row `r` of a packed row image (R161). -/
def rowBit (vals : List Elem) (r b : Nat) : Bool := (vals.getD (64 * r + b / 32) 0).getLsbD (b % 32)

/-- Block `q` of row `r` as VQNT quantises it (R110, R163). -/
def convertedBlock (s : State) (x : Issue) (r q : Nat) : Block :=
  quantBlock (stFmt x.sB) (stOvf x.sB) ((List.range (stBlk x.sB)).map fun k =>
    (convertedFrom s x r (q * stBlk x.sB + k), convertedMode x r (q * stBlk x.sB + k)))

/-! ## Landings -/

/-- What a window's marker keeps while the result `f` lands: only an issue from before the marker changes the chains and
the drain queue that a replay begins with (log entry 22). -/
def MarkKept (f : Flight) (m n : Marker) : Prop :=
  n = { m with chains := n.chains, drain := n.drain } ∧ (m.m ≤ f.issued → n = m)

/-- A result in flight has landed or performed: it is in flight no longer, those in `new` are, and of the package
nothing has changed but what the core in focus holds for its context's data. -/
structure Landed (s t : State) (f : Flight) (new : List Flight) : Prop where
  focus : OnlyFocus s t
  flights : (curCore t).flights = ((curCore s).flights.filter fun g => g.seq != f.seq) ++ new
  core : curCore t = { curCore s with
    ctx := curCtx t, flights := (curCore t).flights, nextId := (curCore t).nextId, sp := (curCore t).sp
    spBad := (curCore t).spBad, vBad := (curCore t).vBad, accBad := (curCore t).accBad, drain := (curCore t).drain }
  ctx : curCtx t = { curCtx s with
    vregs := (curCtx t).vregs, acc := (curCtx t).acc, accSt := (curCtx t).accSt, foldrep := (curCtx t).foldrep
    streams := (curCtx t).streams, seg := (curCtx t).seg, blks := (curCtx t).blks, nanb := (curCtx t).nanb
    scores := (curCtx t).scores }
  seg : (curCtx t).seg = { (curCtx s).seg with
    chains := (curCtx t).seg.chains, mark := (curCtx t).seg.mark, atEnd := (curCtx t).seg.atEnd }
  mark : MarkKept f (curCtx s).seg.mark (curCtx t).seg.mark
  atEnd : (curCtx t).seg.atEnd.map Prod.snd = (curCtx s).seg.atEnd.map Prod.snd

/-- The vector registers are as they were but for lanes `lo` to `lo + vals.length - 1` of the file, which hold
`vals`. -/
def VecWritten (s t : State) (lo : Nat) (vals : List Elem) : Prop :=
  ∀ i, KMap.get 0 (curCtx t).vregs i =
    if lo ≤ i ∧ i < lo + vals.length then vals.getD (i - lo) 0 else KMap.get 0 (curCtx s).vregs i

/-- The scratchpad holds, at each address that `bytes` names, the byte named last, and is as it was elsewhere. -/
def SpWritten (s t : State) (bytes : List (Nat × Byte)) : Prop :=
  ∀ a, spByte t a = match bytes.reverse.find? fun b => b.1 == a with
    | some b => b.2
    | none => spByte s a

/-- Byte `a` of the scratchpad of core `k` as the runs of a copy write it: the last run that covers it; none where no
run does (R199). -/
def scratchByte (k : Nat) (runs : List (Dest × List Byte)) (a : Nat) : Option Byte :=
  runs.reverse.findSome? fun r => match r.1 with
    | .sp j off => if j = k ∧ off ≤ a ∧ a < off + r.2.length then some (r.2.getD (a - off) 0) else none
    | _ => none

/-- Whether a run writes into sector `q` of the scratchpad of core `k`. -/
def scratchTouches (k q : Nat) (r : Dest × List Byte) : Bool :=
  match r.1 with
  | .sp j off => j == k && decide (0 < r.2.length) && decide (off < 64 * q + 64) && decide (64 * q < off + r.2.length)
  | _ => false

/-- Whether sector `q` of the scratchpad of core `k` is marked after runs with their poison: a poisoned run marks what
it touches, a clean one clears what it covers whole (R360). -/
def scratchMark (k q : Nat) : List ((Dest × List Byte) × Bool) → Bool → Bool
  | [], b => b
  | r :: l, b => scratchMark k q l (
      if scratchTouches k q r.1 = false then b
      else r.2 || (b && !(match r.1.1 with
        | .sp _ off => decide (off ≤ 64 * q) && decide (64 * q + 64 ≤ off + r.1.2.length)
        | _ => false)))

/-- The byte at a place of memory as the runs of a copy write it, each where its address translates to; none where no
run does. -/
def memoryByte (s : State) (runs : List (Dest × List Byte)) (q : Phys) : Option Byte :=
  runs.reverse.findSome? fun r => match r.1 with
    | .va va => match translate s (curDie s) (curCtx s).asid va true with
      | .ok p _ =>
        if p.host = q.host ∧ p.pa ≤ q.pa ∧ q.pa < p.pa + r.2.length then some (r.2.getD (q.pa - p.pa) 0) else none
      | .fault _ _ => none
    | _ => none

/-- The accumulators, their states and their chains are as they were. -/
def AccKept (s t : State) : Prop :=
  (curCtx t).acc = (curCtx s).acc ∧ (curCtx t).accSt = (curCtx s).accSt ∧ (curCtx t).foldrep = (curCtx s).foldrep
    ∧ (curCtx t).seg.chains = (curCtx s).seg.chains

/-- Element (m, n) of accumulator `a`. -/
def accAt (s : State) (a m n : Nat) : Elem := accElem (curCtx s) a m n

/-- A record as it stands in its column's queue when it has just entered (R37, R116): its fields with slots applied, its
streams as they were, its first issue, and its count of issues. -/
structure Queued (s : State) (a : Applied) (nul : Bool) (q : QRec) : Prop where
  raw : q.x.raw = a.raw
  col : q.x.col = colOf a.raw
  offsets : q.x.offD = a.offD ∧ q.x.offA = a.offA ∧ q.x.offB = a.offB
  streams : q.x.sD = snapOf (curCtx s) (nameD a.raw) ∧ q.x.sA = snapOf (curCtx s) (nameA a.raw)
    ∧ q.x.sB = snapOf (curCtx s) (nameB a.raw)
  nul : q.x.nul = nul
  start : q.start = (if (curCtx s).seg.phase = .running then (curCtx s).seg.start else 0) + recStamp a.raw
  spaced : q.ii = recII a.raw
  total : q.total = tripOf a.raw 0 * tripOf a.raw 1 * tripOf a.raw 2 * tripOf a.raw 3
  next : q.next = 0
  pc : q.pc = pcOf s

/-- Of the package nothing has changed but one optical aperture and the count of free values drawn. -/
structure OnlyAperture (s u : State) (a : Nat) : Prop where
  rest : u = { s with dies := u.dies, free := u.free }
  dies : ∀ d, getDie u d = { getDie s d with ap0 := (getDie u d).ap0, ap1 := (getDie u d).ap1 }
  others : ∀ b, b ≠ a → getAperture u b = getAperture s b

/-! ## Encodings -/

/-- The majors that R50 assigns, the record mark among them. -/
def majorAssigned (m : Nat) : Bool :=
  (decide (0x01 ≤ m) && decide (m ≤ 0x05)) || (decide (0x08 ≤ m) && decide (m ≤ 0x0E)) || m == 0x10
    || (decide (0x18 ≤ m) && decide (m ≤ 0x29)) || (decide (0x30 ≤ m) && decide (m ≤ 0x35))
    || (decide (0x38 ≤ m) && decide (m ≤ 0x3B)) || (decide (0x40 ≤ m) && decide (m ≤ 0x46)) || m == 0x48
    || (decide (0x4A ≤ m) && decide (m ≤ 0x4D)) || (decide (0x50 ≤ m) && decide (m ≤ 0x54))
    || (decide (0x58 ≤ m) && decide (m ≤ 0x5B)) || (decide (0x70 ≤ m) && decide (m ≤ 0x7F))

/-! ## What is next -/

/-- The word at the program counter of core `k` is what happens next: nothing from outside, of the firmware, of a
timer, and no event of a core falls in this cycle before it (R23, R366). -/
structure WordIsNext (s : State) (k : Nat) : Prop where
  powered : s.powered = true
  outside : nextInput s = none
  firmware : nextFirmware s = none
  timers : nextTimer s = none
  events : ∀ f ∈ [holdEnds, storeNext, loadNext, overdueNext, releaseNext, commandNext, issueNext, waitNext, closeNext,
    feedNext, preemptNext], onCores f s = none
  landings : landingNext s = none
  word : (activeCores s).find? (fun j => wordReady (focus j s)) = some k

/-- The words that the shadow context may not execute (R355). -/
def shadowForbidden : Instr → Bool
  | .segb _ => true
  | .align _ => true
  | .sege => true
  | .endCtx => true
  | .yield => true
  | .trap _ => true
  | .tapePlay _ => true
  | .tapePatch _ _ => true
  | .tapeGuard _ _ => true
  | .tapeRec => true
  | .tapeEnd => true
  | .tapeDrop => true
  | .barInit _ _ => true
  | .barArrive _ => true
  | .barWait _ _ => true
  | .barTest _ _ => true
  | .ways _ => true
  | _ => false

end Sys2Proof.Machine
end

