-- ==== Sys2Proof/Certificates/Slice0/Obligations.lean ====
section
/-! DEFINITION. The statements for the provers: what the rules of the manual say the machine does. -/

open Sys2Proof Sys2Proof.Machine

/-! ## Control-core words that compute -/

/-- R74, R76, R77, R79, R80, with R70 and R71: an integer, immediate or literal word writes its result to d, readable
after its latency, takes one issue cycle, and changes nothing else. -/
def Obligations.IntegerWordResult : Prop :=
  ∀ (s : State) (i : Instr) (d : BitVec 5) (v : Word) (size lat : Nat),
    wordResult s i = some (d, v, size, lat) →
    ∃ t, exec i s = .next t ∧ WordDone s t (pcOf s + BitVec.ofNat 64 size) 1 d ∧ Wrote s t d v lat

/-- R75, R78: a division whose divisor is not zero, or whose task has no arithmetic trap, writes its result 20 cycles on;
BFX gives the field's bits, zero-extended; BFI replaces them and keeps the other bits of d. -/
def Obligations.DivisionAndFieldResult : Prop :=
  (∀ (s : State) (i : Instr) (d : BitVec 5) (b v : Word),
    divResult s i = some (d, b, v) → (b ≠ 0 ∨ (curCtx s).atrap = false) →
    ∃ t, exec i s = .next t ∧ WordDone s t (pcOf s + 4) 1 d ∧ Wrote s t d v 20)
  ∧ (∀ (s : State) (d a : BitVec 5) (len1 pos : BitVec 6),
    (∃ t v, exec (.bfx d a len1 pos) s = .next t ∧ WordDone s t (pcOf s + 4) 1 d ∧ Wrote s t d v 1
      ∧ ∀ k, k < 64 → v.getLsbD k = (decide (k ≤ len1.toNat) && (readG s a).getLsbD (pos.toNat + k)))
    ∧ (∃ t v, exec (.bfi d a len1 pos) s = .next t ∧ WordDone s t (pcOf s + 4) 1 d ∧ Wrote s t d v 1
      ∧ ∀ k, k < 64 → v.getLsbD k =
        if inField pos len1 k then (readG s a).getLsbD (k - pos.toNat) else (readG s d).getLsbD k))

/-! ## Scalar memory -/

/-- R81 (with R70, R225, R226, R335): outside a segment, an aligned load that translates, with nothing of its class before
it, writes d with the bytes at its address, zero-extended, and no byte of memory changes; the core remembers the stores
whose bytes the die's copy gave it before they performed; a store writes the low bytes of
its register at the place its address translates to, and no other byte and no register changes, a recording tape being
spoiled first. -/
def Obligations.LoadStoreResult : Prop :=
  (∀ (s : State) (i : Instr) (d : BitVec 5) (va size : Nat) (p : Phys),
    loadOf s i = some (d, va, size) → RunsLoose s → QuietPort s → Coherent s →
    va % size = 0 → isWakePage va = false → accessTr s va false = .ok p true → seenBad s va p = false →
    ∃ t u v lat cls ids, exec i s = .next t ∧ Stored s u p [] ∧ PendingStores s ids
      ∧ v = noteObserved cls (curCtx s).inShadow ids u ∧ WordDone v t (pcOf s + 4) 1 d
      ∧ Wrote v t d (wordOfBytes (seenBytes s va size p)) lat)
  ∧ (∀ (s : State) (i : Instr) (r : BitVec 5) (va size : Nat) (p : Phys),
    storeOf s i = some (r, va, size) → inSegment s = false → QuietPort s → Coherent s →
    va % size = 0 → isWakePage va = false → isMailbox va = false → accessTr s va true = .ok p true → p.pa % size = 0 →
    ∃ t u, exec i s = .next t ∧ Stored (spoil 0x20 s) u p (lowBytes (readG s r) size) ∧ WordDone u t (pcOf s + 4) 1 0)

/-- R82, R258, R259: in a segment an LD or ST whose page the translation cache holds enters the port, to perform 60
cycles after its issue, and the next word issues in the next cycle; a store that performs leaves the pending list, and its
bytes then stand at its place; a load of the segment that performs takes the bytes at its place, zero-extended, and lands
200 cycles after its issue; one of loose code writes its register as it performs; a load that lands writes its register if
it is still its last producer (the model's reading, log entry 32). -/
def Obligations.SegmentAccesses : Prop :=
  (∀ (s : State) (i : Instr) (r : BitVec 5) (va size : Nat) (p : Phys) (wr : Bool),
    (if wr then storeOf s i else loadOf s i) = some (r, va, size) → inSegment s = true → s.oracle = [] →
    va % size = 0 → isWakePage va = false → accessTr s va wr = .ok p true → p.host = false →
    (wr = false → loadsInFlight (curCore s) < 8) →
    ∃ t a, exec i s = .next t ∧ (curCore t).pend = (curCore s).pend ++ [a]
      ∧ a.va = va ∧ a.size = size ∧ a.due = now s + 60 ∧ a.kind = (if wr then .store else .load)
      ∧ (wr = true → a.data = readG s r) ∧ (wr = false → a.reg = r.toNat)
      ∧ (∀ n, readG t n = readG s n) ∧ (∀ b, readBt t b = readBt s b) ∧ readP t = readP s
      ∧ pcOf t = pcOf s + 4 ∧ nextIssue t = clk s + 1 ∧ t.dram = s.dram ∧ t.hostMem = s.hostMem)
  ∧ (∀ (s : State) (a : Access) (p : Phys) (hit : Bool), Coherent s → a.kind = .store → isWakePage a.va = false →
    isMailbox a.va = false → translate s (curDie s) (curCtx s).asid a.va true = .ok p hit → EndsNoAcquire s a →
    p.pa % a.size = 0 → (a.size = 1 ∨ a.size = 2 ∨ a.size = 4 ∨ a.size = 8) →
    (∃ t u, exec (.accessPerforms a) s = .next t ∧ Stored u t p (lowBytes a.data a.size)
      ∧ OnlyFocus s u ∧ (curCore u).pend = (curCore s).pend.filter (fun b => b.id != a.id))
    ∧ ∃ t u, exec (.hostLinkCompletion a) s = .next t ∧ Stored u t p (lowBytes a.data a.size)
      ∧ OnlyFocus s u ∧ (curCore u).pend = (curCore s).pend.filter (fun b => b.id != a.id))
  ∧ (∀ (s : State) (i : Instr) (a : Access) (p : Phys) (hit : Bool),
    (i = .accessPerforms a ∨ i = .hostLinkCompletion a) → Coherent s → a.kind = .load → isWakePage a.va = false →
    translate s (curDie s) (curCtx s).asid a.va false = .ok p hit → EndsNoAcquire s a → p.pa % a.size = 0 →
    (a.size = 1 ∨ a.size = 2 ∨ a.size = 4 ∨ a.size = 8) → seenBad s a.va p = false → a.shadow = false →
    (∀ n, a.seg = true → a.due = n + 60 →
      ∃ t, exec i s = .next t ∧ (∀ q, physByte t q = physByte s q) ∧ (curCtx t).main = (curCtx s).main
        ∧ (curCore t).events = (curCore s).events
        ∧ (curCore t).pend = (curCore s).pend.filter (fun b => b.id != a.id)
        ∧ (curCore t).flights.map unseen = ((curCore s).flights
            ++ [(⟨n + 200, 0, n, a.id, .load a.reg a.id (wordOfBytes (seenBytes s a.va a.size p))⟩ : Flight)]).map unseen)
    ∧ (a.seg = false → a.reg ≠ 0 → a.reg < 32 → KMap.get 0 (curCore s).loading a.reg = a.id →
      ∃ t, exec i s = .next t ∧ (∀ q, physByte t q = physByte s q) ∧ (curCore t).events = (curCore s).events
        ∧ (curCtx t).main.read a.reg = wordOfBytes (seenBytes s a.va a.size p)
        ∧ (∀ n, n ≠ a.reg → (curCtx t).main.read n = (curCtx s).main.read n)
        ∧ (curCore t).pend = (curCore s).pend.filter (fun b => b.id != a.id)))
  ∧ (∀ (s : State) (f : Flight) (r id : Nat) (v : Word), f.kind = .load r id v → r ≠ 0 → r < 32 →
    ∃ t, exec (.scalarLoadLanding f) s = .next t ∧ OnlyFocus s t
      ∧ (KMap.get 0 (curCore s).loading r = id → (curCtx t).main.read r = v)
      ∧ (KMap.get 0 (curCore s).loading r ≠ id → (curCtx t).main = (curCtx s).main)
      ∧ ∀ n, n ≠ r → (curCtx t).main.read n = (curCtx s).main.read n)

/-- R83, with R151: an aligned LDS inside the scratchpad writes d with the bytes at its offset, readable 4 cycles on; an STS
writes the low bytes of its register there, in a segment as a landing of the next cycle, before those of the columns, and
in loose code before any word that follows. Nothing else changes. -/
def Obligations.ScratchpadWords : Prop :=
  (∀ (s : State) (i : Instr) (d : BitVec 5) (off size : Nat),
    scratchLoadOf s i = some (d, off, size) → off % size = 0 → off + size ≤ 2 ^ 21 →
    watched (curCore s) off size = false → spBadIn (curCore s) off size = false →
    ∃ t, exec i s = .next t ∧ WordDone s t (pcOf s + 4) 1 d
      ∧ Wrote s t d (wordOfBytes ((List.range size).map fun k => KMap.get 0 (curCore s).sp (off + k))) 4)
  ∧ (∀ (s : State) (i : Instr) (r : BitVec 5) (off size : Nat),
    scratchStoreOf s i = some (r, off, size) → off % size = 0 → off + size ≤ 2 ^ 21 →
    (inSegment s = false →
      ∃ t u, exec i s = .next t ∧ WordDone u t (pcOf s + 4) 1 0 ∧ OnlyFocus (spoil 0x20 s) u
        ∧ curCore u = { curCore (spoil 0x20 s) with sp := (curCore u).sp }
        ∧ ∀ a, KMap.get 0 (curCore u).sp a =
            if off ≤ a ∧ a < off + size then byteOf (readG s r) (a - off) else KMap.get 0 (curCore s).sp a)
    ∧ (inSegment s = true →
      ∃ t u, exec i s = .next t ∧ WordDone u t (pcOf s + 4) 1 0 ∧ OnlyFocus (spoil 0x20 s) u
        ∧ curCore u = { curCore (spoil 0x20 s) with
            nextId := (curCore s).nextId + 1
            flights := (curCore s).flights ++ [⟨now s + 1, 0, now s, (curCore s).nextId, .sts off (lowBytes (readG s r) size)⟩] }))

/-- R84, R85: outside a segment, an AMO or CAS whose word translates, and which nothing before it holds, writes the new
word at its place and the old one, zero-extended, to d, for a device word after 60 cycles on its die and 150 on another, 64
more at package or system scope, which drops this die's remote-data cache, and those of a redirect (R246); one that a
pending access of its class holds back waits in the port with its operands, and holds back what follows it; when it
performs, the same holds of its place, its register and the cache. (That it waits there while words go on is the model's
reading, log entry 86; a completion of the host link takes the cycles that the model leaves open.) -/
def Obligations.AtomicResult : Prop :=
  (∀ (s : State) (i : Instr) (d : BitVec 5) (va size : Nat) (scope : BitVec 2) (g : Word → Word) (p : Phys),
    atomicOf s i = some (d, va, size, scope, g) → RunsLoose s → s.cur < 128 →
    va % size = 0 → isWakePage va = false → accessTr s va true = .ok p true →
    (QuietPort s → Coherent s → p.pa % size = 0 → sectorBad s p = false →
      ∃ t u lat, exec i s = .next t
        ∧ Stored (spoil 0x20 s) u p (lowBytes (g (wordOfBytes (physBytes s p size))) size)
        ∧ (2 ≤ scope.toNat → (getDie u (curDie s)).rdc = [])
        ∧ (p.host = false → lat = redirectCycles s (curCtx s).asid va p.pa
            + (if homeDie p.pa = curDie s then 60 else 150) + if 2 ≤ scope.toNat then 64 else 0)
        ∧ WordDone u t (pcOf s + 4) 1 d ∧ Wrote u t d (wordOfBytes (physBytes s p size)) lat)
    ∧ (∀ b ∈ (curCore s).pend, b.shadow = (curCtx s).inShadow → b.cls = atomicClass i → accessPending s b.id = true →
      ∃ t a f, exec i s = .next t ∧ (curCore t).pend = (curCore s).pend ++ [a] ∧ (curCore t).fences = (curCore s).fences ++ [f]
        ∧ a.va = va ∧ a.size = size ∧ a.reg = d.toNat ∧ a.scope = scope ∧ b.id ∈ a.waits ∧ isAtomic a.kind = true
        ∧ a.shadow = (curCtx s).inShadow ∧ (∀ old, lowBytes (atomicWordOf a old) size = lowBytes (g old) size)
        ∧ f.ids = [a.id] ∧ f.loads = [a.id] ∧ f.shadow = a.shadow ∧ f.reads = true ∧ f.writes = true
        ∧ (∀ n, readG t n = readG s n) ∧ SameBytes s t ∧ pcOf t = pcOf s + 4 ∧ nextIssue t = clk s + 1))
  ∧ (∀ (s : State) (i : Instr) (a : Access) (p : Phys) (hit : Bool),
    (i = .accessPerforms a ∨ i = .hostLinkCompletion a) → Coherent s → isAtomic a.kind = true → isWakePage a.va = false →
    translate s (curDie s) (curCtx s).asid a.va true = .ok p hit → p.pa % a.size = 0 → (a.size = 4 ∨ a.size = 8) →
    sectorBad s p = false → s.oracle = [] →
    ∃ t u, exec i s = .next t ∧ OnlyFocus s u
      ∧ Stored u t p (lowBytes (atomicWordOf a (wordOfBytes (physBytes s p a.size))) a.size)
      ∧ (curCore u).pend.map Access.id = ((curCore s).pend.filter fun b => b.id != a.id).map Access.id
      ∧ (a.shadow = false → a.reg ≠ 0 → a.reg < 32 → KMap.get 0 (curCore s).loading a.reg = a.id →
        (curCtx t).main.read a.reg = wordOfBytes (physBytes s p a.size)
          ∧ (p.host = false → KMap.get 0 (curCore t).busy a.reg = now s + redirectCycles s (curCtx s).asid a.va p.pa
            + (if homeDie p.pa = curDie s then 60 else 150) + if 2 ≤ a.scope.toNat then 64 else 0))
      ∧ (∀ n, n ≠ a.reg → (curCtx t).main.read n = (curCtx s).main.read n)
      ∧ ∀ f ∈ (curCore s).fences, f.loads = [a.id] → 2 ≤ f.scope → a.id % 128 = s.cur →
        (getDie t (curDie s)).rdc = [])

/-! ## Branches, calls and loops -/

/-- R87 (with R54, R71): a taken branch whose target may be entered continues there, one that is not taken at the next
word; either takes three issue cycles and changes no register. -/
def Obligations.BranchResult : Prop :=
  ∀ (s : State) (i : Instr) (b : BitVec 3) (taken : Bool),
    branchOf s i = some (b, taken) → (taken = true → Enterable s (readBt s b)) →
    ∃ t, exec i s = .next t ∧ WordDone s t (if taken then readBt s b else pcOf s + 4) 3 0

/-- R88, R86: CALL writes the link to g[a] and continues at bt[N]; RET continues at g[a]; PTB writes
bt[N] := its address + 4 × off22 and no other register. -/
def Obligations.CallReturnPtb : Prop :=
  (∀ (s : State) (b : BitVec 3) (a : BitVec 5), Enterable s (readBt s b) →
    ∃ t, exec (.call b a) s = .next t ∧ WordDone s t (readBt s b) 3 a ∧ Wrote s t a (pcOf s + 4) 1)
  ∧ (∀ (s : State) (a : BitVec 5), Enterable s (readG s a) →
    ∃ t, exec (.ret a) s = .next t ∧ WordDone s t (readG s a) 3 0)
  ∧ (∀ (s : State) (b : BitVec 3) (off : BitVec 22),
    ∃ t, exec (.ptb b off) s = .next t ∧ Retired s t (pcOf s + 4) 1
      ∧ readBt t b = pcOf s + BitVec.ofInt 64 (4 * off.toInt) ∧ readableAt t (32 + b.toNat) = clk s + 1
      ∧ (∀ n, readG t n = readG s n) ∧ (∀ c, c ≠ b → readBt t c = readBt s c) ∧ readP t = readP s)

/-- R56, R89, R90: LOOPW shifts the window and steps the counter; while P is not zero it counts a pass and continues at
bt[N], else it leaves P = 1, LPASS = 0 and no kill horizon (in the shadow context it leaves the task's LPASS and horizon as
they stand: the model's reading, log entry 72); LEAVE makes the current pass the kill horizon inside a segment
and changes nothing in loose code; NOP and every word of the hint region change nothing. -/
def Obligations.LoopAndLeave : Prop :=
  (∀ (s : State) (b : BitVec 3) (a : BitVec 5),
    (loopWindowNat (readP s) (readG s a) ≠ 0 → Enterable s (readBt s b) →
      ∃ t, exec (.loopw b a) s = .next t
        ∧ Retired (updCtx (fun c => if c.inShadow then c else { c with lpass := c.lpass + 1 }) s) t (readBt s b) 3
        ∧ readP t = BitVec.ofNat 16 (loopWindowNat (readP s) (readG s a))
        ∧ readG t a = (if (readG s a).toNat % 2 ^ 32 = 0 then readG s a else readG s a - 1)
        ∧ (∀ n, n ≠ a → readG t n = readG s n) ∧ (∀ c, readBt t c = readBt s c))
    ∧ (loopWindowNat (readP s) (readG s a) = 0 →
      ∃ t, exec (.loopw b a) s = .next t
        ∧ Retired (updCtx (fun c => if c.inShadow then c else { c with lpass := 0, hz := none }) s) t (pcOf s + 4) 3
        ∧ readP t = 1 ∧ (∀ n, readG t n = readG s n) ∧ (∀ c, readBt t c = readBt s c)))
  ∧ (∀ s : State, ∃ t, exec .leave s = .next t ∧
    WordDone (updCtx (fun c => if inSegment s then { c with hz := some c.lpass } else c) s) t (pcOf s + 4) 1 0)
  ∧ (∀ s : State, ∃ t, exec .nop s = .next t ∧ WordDone s t (pcOf s + 4) 1 0)
  ∧ (∀ (s : State) (w : IWord), ∃ t, exec (.hintRegion w) s = .next t ∧ WordDone s t (pcOf s + 4) 1 0)

/-! ## Special registers, exceptions -/

/-- R97, R55, with R16, R17, R18, R22, R23, R29, R30, R41, R121, R126, R128, R218, R253, R346, R352, R384, R402: GETS writes d with
the register numbered, each as its own rule maps it; MICROPC from the shadow context alone. Where two records of a column
are under way at once, MICROPC shows the one forwarded first (the model's choice, log entry 73). -/
def Obligations.GetsResult : Prop :=
  ∀ (s : State) (d : BitVec 5) (n : BitVec 15),
    specialListed n.toNat = true → ((curCtx s).inShadow = true ∨ n.toNat < 0x30 ∨ 0x37 < n.toNat) →
    ∃ t v, exec (.gets d n) s = .next t ∧ WordDone s t (pcOf s + 4) 1 d ∧ Wrote s t d v 1
      ∧ (n.toNat = 0x00 → v = BitVec.ofNat 64 (32 * (s.cur % 16) * 2 ^ 8 + s.cur / 16 % 8 * 2 ^ 4 + s.cur % 16))
      ∧ (n.toNat = 0x01 → v = BitVec.ofNat 64 ((getDie s (s.cur / 16)).plymask.toNat * 2 ^ 8 + s.cur / 16))
      ∧ (n.toNat = 0x02 → v = BitVec.ofNat 64 (s.domain.toNat * 65536 + s.pkg.toNat))
      ∧ (∀ k, k < 8 → n.toNat = 0x08 + k → v.toNat = (KMap.get 0 (curCtx s).loopc k).toNat)
      ∧ (n.toNat = 0x10 → v = s.tempo) ∧ (n.toNat = 0x11 → v = (curCore s).ctime)
      ∧ (n.toNat = 0x18 → v = BitVec.ofNat 64 ((if (curCore s).fold.toNat / 16 = 0 then 1 else 2) * 2 ^ 24
          + mxLatency (curCore s).fold * 2 ^ 16
          + ((List.range 4).countP fun p => (curCore s).fold.getLsbD p) * 2 ^ 8 + (curCore s).fold.toNat))
      ∧ (n.toNat = 0x19 → v = (curCtx s).foldrep)
      ∧ (n.toNat = 0x1A → v.toNat % 256 = (curCtx s).latched.toNat
        ∧ ∀ k, k < 8 → v.getLsbD (8 + k) = (getDie s k).hot)
      ∧ (n.toNat = 0x1B → v = (curCtx s).widen)
      ∧ (n.toNat = 0x20 → v = BitVec.ofNat 64 (
          (if tapeMine (curCore s) then Min.min (curCore s).tape.plays (2 ^ 24 - 1) * 2 ^ 40
            + (curCore s).tape.entries.length * 2 ^ 16 + (curCore s).tape.state else 0)
          + (if (curCtx s).left then 2 ^ 35 else 0) + (curCtx s).guardIdx.toNat * 2 ^ 32 + (curCtx s).reason.toNat * 2 ^ 8))
      ∧ (n.toNat = 0x21 → v = BitVec.ofNat 64 (
          (curCtx s).member.toNat * 2 ^ 16 + (curCtx s).gm1.toNat * 2 ^ 8 + (curCtx s).w.toNat))
      ∧ (n.toNat = 0x22 → v = BitVec.ofNat 64 (((curCtx s).gm1.toNat + 1) * 32 * (16 - (curCtx s).w.toNat) * 4096))
      ∧ (n.toNat = 0x28 → v = (curCtx s).trapCause) ∧ (n.toNat = 0x29 → v = (curCtx s).trapPc)
      ∧ (n.toNat = 0x2A → v = (curCtx s).trapInfo)
      ∧ (∀ k, k < 8 → n.toNat = 0x30 + k →
        ((∀ q ∈ (curCore s).queue, q.x.col = k → q.next = 0 ∨ q.total ≤ q.next) → v = 0)
        ∧ (∀ q, expanding (curCore s) k = some q → ∀ l, l < 4 → v.toNat / 2 ^ (16 * l) % 2 ^ 16 =
            q.next / ((List.range l).map (tripOf q.x.raw)).prod
              % (if l = 3 then 2 ^ 16 else tripOf q.x.raw l) % 2 ^ 16))
      ∧ (n.toNat = 0x38 → v = BitVec.ofNat 64 ((curCtx s).prioEff.toNat * 2 ^ 8 + (curCtx s).prio.toNat))
      ∧ (n.toNat = 0x40 → v = s.feat0) ∧ (n.toNat = 0x41 → v = s.feat1)

/-- R97, R5: outside a segment, SETS writes WIDEN from the main context, TRAPPC and TRAPINFO from the shadow context
(the model's reading, log entry 15), and changes no other register. -/
def Obligations.SetsResult : Prop :=
  ∀ (s : State) (a : BitVec 5) (n : BitVec 15), specialListed n.toNat = true → inSegment s = false →
    ∃ t, exec (.sets a n) s = .next t
      ∧ WordDone (updCtx (fun c => { c with
          widen := if c.inShadow = false ∧ n.toNat = 0x1B then readG s a else c.widen
          trapPc := if c.inShadow = true ∧ n.toNat = 0x29 then BitVec.ofNat 64 ((readG s a).toNat % 2 ^ 57) else c.trapPc
          trapInfo := if c.inShadow = true ∧ n.toNat = 0x2A then readG s a else c.trapInfo }) (spoil 0x20 s))
        t (pcOf s + 4) 1 0

/-- R350, R355, R365, R366, with R75, R81, R83, R84, R94, R118, R55, R249, R357: a word that faults in loose code performs nothing,
and the handler of its code object starts in the shadow context; a load or store whose address does not translate traps
with the translation cause, TRAPINFO holding the level, the direction and the address; in the shadow context a word that
it may not execute, and a word that raises a cause, aborts the task with 0x46: its contexts all end, other tasks' contexts
stay as they are, and the host is told, once the complex dispatches (R388); where a machine check stands on its core in
that cycle, it is the cause, and the core leaves service. -/
def Obligations.WordsTrap : Prop :=
  (∀ (s : State) (i : Instr) (code : Nat) (info : Word),
    trapOf s i = some (code, info) → LooseMain s → (curCtx s).handler ≠ 0 →
    ∃ t, exec i s = .next t ∧ Trapped s t code info (pcOf s))
  ∧ (∀ (s : State) (i : Instr) (r : BitVec 5) (va size code level : Nat) (wr : Bool),
    (if wr then storeOf s i else loadOf s i) = some (r, va, size) → LooseMain s → (curCtx s).handler ≠ 0 →
    va % size = 0 → isWakePage va = false → accessTr s va wr = .fault code level → 0x10 ≤ code → code ≤ 0x14 →
    ∃ t, exec i s = .next t ∧ Trapped s t code
      (BitVec.ofNat 64 (level % 4 * 2 ^ 61 + (if wr then 2 ^ 60 else 0) + va % 2 ^ 57)) (pcOf s))
  ∧ (∀ (s : State) (i : Instr), (curCtx s).inShadow = true →
    (shadowForbidden i = true ∨ ((trapOf s i).isSome = true ∧ i ≠ .eret
      ∧ ∀ d n, i = .gets d n → specialListed n.toNat = false)) →
    ∃ t, exec i s = .next t ∧ TaskGone s t (curCtx s).task
      ∧ ((curCore s).events = [] → Told s t 1 0x46)
      ∧ ((∃ e ∈ (curCore s).events, e.code = 0x45) → Told s t 1 0x45
        ∧ (s.cur < 128 → (curCore s).resident = true → (curCore t).inService = false)))

/-- R356, R357, R24, R35: TRAP in loose code starts the handler at once, with its number in TRAPINFO and TRAPPC past the word;
inside a segment the first TRAP is kept with its offset for SEGE's completion. ERET leaves the shadow context: after a
precise trap, an abort or a deferred trap the task continues at TRAPPC with its own registers, whatever stands there (the
model's choice, log entry 70); after a hold the core resumes with the next tempo cycle (the model's reading, log entry 65);
after a gang's translation abort T′ is TEMPO + 4,096 for every member that waits for it or still aborts, and a member that
waits makes ready to release again. -/
def Obligations.TrapAndReturn : Prop :=
  (∀ (s : State) (n : BitVec 15), LooseMain s → (curCtx s).handler ≠ 0 →
    ∃ t, exec (.trap n) s = .next t ∧ Trapped (spoil 0x20 s) t 0xFF (n.setWidth 64) (pcOf s + 4))
  ∧ (∀ (s : State) (n : BitVec 15), inSegment s = true →
    ∃ t, exec (.trap n) s = .next t ∧ WordDone (updSeg (fun g => { g with
        trap := if g.trap = none then some (segOffset s, n) else g.trap }) (spoil 0x20 s)) t (pcOf s + 4) 1 0)
  ∧ (∀ s : State, (curCtx s).inShadow = true → (∀ a ∈ (curCore s).pend, a.shadow = false) →
    (bitsAt (curCtx s).trapCause 8 4 ≠ 1 → bitsAt (curCtx s).trapCause 8 4 ≠ 3 →
      ∃ t, exec .eret s = .next t ∧ OnlyFocus s t ∧ (curCtx t).inShadow = false
        ∧ (curCtx t).main = { (curCtx s).main with pc := (curCtx s).trapPc } ∧ (curCtx t).shadow = (curCtx s).shadow
        ∧ SameBytes s t)
    ∧ (bitsAt (curCtx s).trapCause 8 4 = 1 →
      ∃ t, exec .eret s = .next t ∧ OnlyFocus s t ∧ (curCtx t).inShadow = false ∧ (curCtx t).main = (curCtx s).main
        ∧ (curCore t).hold = .walk (tempoNow s + 1) ∧ SameBytes s t)
    ∧ (bitsAt (curCtx s).trapCause 8 4 = 3 →
      ∃ t, exec .eret s = .next t ∧ t.cur = s.cur ∧ (curCtx t).inShadow = false ∧ (curCtx t).main = (curCtx s).main
        ∧ SameBytes s t
        ∧ ∀ k, k < 128 →
          ((getCore s k).resident = true → (getCore s k).ctx.task = (curCtx s).task →
            (getCore s k).ctx.seg.reReleased = true →
            bitsAt (getCore s k).ctx.seg.hdr 144 12 = bitsAt (curCtx s).seg.hdr 144 12 →
            ((getCore s k).ctx.seg.phase = .waiting →
              (getCore t k).ctx.seg.gangT = tempoNow s + 4096 ∧ (getCore t k).ctx.seg.phase = .pre
                ∧ (getCore t k).ctx.main = (getCore s k).ctx.main)
            ∧ ((getCore s k).ctx.seg.phase = .aborting →
              (getCore t k).ctx.seg.gangT = tempoNow s + 4096 ∧ (getCore t k).ctx.seg.phase = .aborting))
          ∧ (k ≠ s.cur → (getCore s k).ctx.task ≠ (curCtx s).task → getCore t k = getCore s k)))

/-! ## Fences, ranges, waits and stream registers -/

/-- R262, R263, R265, R227: outside a segment a fence over the classes of its mask takes eight bytes and its cycles from
its issue, and changes no register; an acquire or full fence of package or system scope with no read of its classes pending drops this die's remote-data
cache, and with one pending leaves it till that performs; pending accesses of the classes that the fence orders stay
named by it for the accesses after it, and so do the pending stores that the context has observed and an earlier acquire
has made a release count; at die scope a release counts none of these, which are homed on other dies (R264). (What a fence counts, and when it is complete, is the model's reading, log entry
86; its cycles are the unloaded figures of log entry 66.) -/
def Obligations.FenceResult : Prop :=
  ∀ (s : State) (i : Instr) (kind : Nat) (scope : BitVec 2) (mask : BitVec 16),
    (i = .fenceFull scope mask ∧ kind = 0) ∨ (i = .fenceAcq scope mask ∧ kind = 1) ∨ (i = .fenceRel scope mask ∧ kind = 2) →
    mask ≠ 0 → inSegment s = false →
    ∃ t u, exec i s = .next t ∧ WordDone u t (pcOf s + 8) (fenceCycles kind scope.toNat) 0
      ∧ u = { s with cores := u.cores, dies := u.dies } ∧ (∀ k, k ≠ s.cur → getCore u k = getCore s k)
      ∧ (∀ d, getDie u d = { getDie s d with rdc := (getDie u d).rdc, rdcUntil := (getDie u d).rdcUntil })
      ∧ curCore u = { curCore (spoil 0x20 s) with
          nextId := (curCore u).nextId, fences := (curCore u).fences, observed := (curCore u).observed }
      ∧ (kind ≠ 2 → 2 ≤ scope.toNat → (∀ a ∈ (curCore s).pend, Ordered s mask a → accWrites a.kind = true) →
          (getDie u (curDie s)).rdc = [])
      ∧ (kind = 2 ∨ scope.toNat < 2 ∨ (∃ a ∈ (curCore s).pend, Ordered s mask a ∧ accWrites a.kind = false) →
          u.dies = s.dies)
      ∧ (∀ a ∈ (curCore s).pend, Ordered s mask a →
          (accWrites a.kind = false ∨ (kind ≠ 1 ∧ scopeReaches s scope.toNat a = true)) →
          ∃ f ∈ (curCore u).fences, a.id ∈ f.ids ∧ f.shadow = a.shadow ∧ f.writes = true ∧ f.reads = decide (kind ≠ 2)
            ∧ (kind ≠ 2 → accWrites a.kind = false → a.id ∈ f.loads))
      ∧ (∀ o ∈ (curCore s).observed, o.shadow = (curCtx s).inShadow → (∃ c, o.scope = some c ∧ scope.toNat ≤ c) →
          accessPending s o.id = true → kind ≠ 1 → scope.toNat ≠ 1 →
          ∃ f ∈ (curCore u).fences, o.id ∈ f.ids ∧ f.shadow = o.shadow ∧ f.writes = true ∧ f.reads = decide (kind ≠ 2))
      ∧ ((∀ a ∈ (curCore s).pend, ¬ Ordered s mask a) → (curCore s).fences = [] →
          ((curCore s).observed = [] ∨ (kind = 2 ∧ scope.toNat = 1)) →
          curCore u = { curCore (spoil 0x20 s) with nextId := (curCore u).nextId })

/-- R228, R230: outside a segment FLUSH leaves every sector of the range clean and INVAL leaves none of its lines
cached, with no byte of memory changed; DISCARD drops the sectors wholly inside the range; PREF of at most 2^30 bytes
retires in one cycle and changes no byte, whether or not its range translates. The sectors are those that the range's
translations name once its walks are done. -/
def Obligations.RangeWordsResult : Prop :=
  (∀ (s : State) (a b : BitVec 5) (cls : BitVec 4),
    inSegment s = false → QuietPort s → Coherent s → 0 < (readG s b).toNat → (readG s b).toNat ≤ 2 ^ 30 →
    accessFault s true (readG s a).toNat (readG s b).toNat = none →
    (∃ t u cyc, exec (.flush a b cls) s = .next t ∧ WordDone u t (pcOf s + 4) cyc 0 ∧ 60 ≤ cyc
      ∧ OnlyMemory (spoil 0x20 s) u ∧ SameBytes s u
      ∧ ∀ p ∈ rangeSectors (walked s a b) (readG s a).toNat (readG s b).toNat, sectorDirty u p.2 = false)
    ∧ (∃ t u cyc, exec (.inval a b cls) s = .next t ∧ WordDone u t (pcOf s + 4) cyc 0 ∧ 60 ≤ cyc
      ∧ OnlyMemory (spoil 0x20 s) u ∧ SameBytes s u
      ∧ ∀ p ∈ rangeSectors (walked s a b) (readG s a).toNat (readG s b).toNat, sectorCached u p.2 = false)
    ∧ (∃ t u cyc, exec (.discard a b cls) s = .next t ∧ WordDone u t (pcOf s + 4) cyc 0 ∧ 60 ≤ cyc
      ∧ OnlyMemory (spoil 0x20 s) u ∧ u.dram = s.dram ∧ u.hostMem = s.hostMem
      ∧ ∀ p ∈ rangeSectors (walked s a b) (readG s a).toNat (readG s b).toNat,
          (readG s a).toNat ≤ p.1 → p.1 + 64 ≤ (readG s a).toNat + (readG s b).toNat → sectorCached u p.2 = false))
  ∧ (∀ (s : State) (a b : BitVec 5) (cls : BitVec 4), inSegment s = false → Coherent s → s.oracle = [] →
    (readG s b).toNat ≤ 2 ^ 30 →
    ∃ t u, exec (.pref a b cls) s = .next t ∧ WordDone u t (pcOf s + 4) 1 0 ∧ OnlyMemory (spoil 0x20 s) u ∧ SameBytes s u)

/-- R94: WAITC begins to wait on its word at the threshold in g[b], on the wake page too (the model's reading, log entry
69); once the word reads at or above it, d takes the
word, this die's remote-data cache is dropped and execution goes on; below it the wait goes on. -/
def Obligations.WaitcResult : Prop :=
  (∀ (s : State) (d a b : BitVec 5) (cls : BitVec 4) (p : Phys),
    inSegment s = false → QuietPort s → (readG s a).toNat % 8 = 0 →
    (isWakePage (readG s a).toNat = true
      ∨ translate s (curDie s) (curCtx s).asid (readG s a).toNat false = .ok p true) →
    ∃ t, exec (.waitc d a b cls) s = .next t ∧ OnlyFocus s t ∧ RegsKept s t (pcOf s) ∧ SameBytes s t
      ∧ (curCtx t).wait = .waitc d.toNat (readG s a).toNat (readG s b) cls)
  ∧ (∀ (s : State) (d : BitVec 5) (va : Nat) (thr : Word) (cls : BitVec 4) (p : Phys) (hit : Bool),
    (curCtx s).wait = .waitc d.toNat va thr cls → isWakePage va = false →
    translate s (curDie s) (curCtx s).asid va false = .ok p hit → sectorBad s p = false →
    (thr.toNat ≤ (wordOfBytes (physBytes s p 8)).toNat →
      ∃ t, exec .waitcSatisfied s = .next t ∧ (curCtx t).wait = .none ∧ pcOf t = pcOf s + 4
        ∧ (d ≠ 0 → readG t d = wordOfBytes (physBytes s p 8)) ∧ (∀ n, n ≠ d → readG t n = readG s n)
        ∧ (getDie t (curDie s)).rdc = [] ∧ SameBytes s t)
    ∧ ((wordOfBytes (physBytes s p 8)).toNat < thr.toNat → exec .waitcSatisfied s = .next s))

/-- R118, R119, R120: SDEF and SSET write a well-formed descriptor to stream sN, reserved fields as zero; SDEF clears
its tail mask and expected tag; SGET reads word w; SADV moves the stream's base and origins; no other stream
changes. -/
def Obligations.StreamWords : Prop :=
  (∀ (s : State) (a : BitVec 5) (n : BitVec 6) (p : Phys),
    inSegment s = false → QuietPort s → Coherent s → (readG s a).toNat % 64 = 0 → isWakePage (readG s a).toNat = false →
    translate s (curDie s) (curCtx s).asid (readG s a).toNat false = .ok p true → seenBad s (readG s a).toNat p = false →
    streamOk (BitVec.ofNat 512 (ofLeBytes (seenBytes s (readG s a).toNat 64 p))) = true →
    ∃ t, exec (.sdef a n) s = .next t ∧ RegsKept s t (pcOf s + 4) ∧ SameBytes s t
      ∧ streamAt (curCtx t) n.toNat = stClean (BitVec.ofNat 512 (ofLeBytes (seenBytes s (readG s a).toNat 64 p)))
      ∧ KMap.get 0 (curCtx t).tm n.toNat = 0 ∧ KMap.get 0 (curCtx t).xt n.toNat = 0
      ∧ ∀ m, m ≠ n.toNat → streamAt (curCtx t) m = streamAt (curCtx s) m)
  ∧ (∀ (s : State) (a : BitVec 5) (w : BitVec 3) (n : BitVec 6), inSegment s = false →
    streamOk (stClean (putBits (streamAt (curCtx s) n.toNat) (64 * w.toNat) 64 (readG s a).toNat)) = true →
    ∃ t, exec (.sset a w n) s = .next t ∧ RegsKept s t (pcOf s + 4) ∧ SameBytes s t
      ∧ streamAt (curCtx t) n.toNat = stClean (putBits (streamAt (curCtx s) n.toNat) (64 * w.toNat) 64 (readG s a).toNat)
      ∧ ∀ m, m ≠ n.toNat → streamAt (curCtx t) m = streamAt (curCtx s) m)
  ∧ (∀ (s : State) (d : BitVec 5) (w : BitVec 3) (n : BitVec 6), n.toNat ∉ (curCore s).streamBad →
    ∃ t, exec (.sget d w n) s = .next t ∧ WordDone s t (pcOf s + 4) 1 d
      ∧ Wrote s t d (BitVec.ofNat 64 ((streamAt (curCtx s) n.toNat).toNat / 2 ^ (64 * w.toNat))) 1)
  ∧ (∀ (s : State) (a : BitVec 5) (n : BitVec 6), n.toNat ∉ (curCore s).streamBad →
    ∃ t, exec (.sadv a n) s = .next t ∧ RegsKept s t (pcOf s + 4) ∧ SameBytes s t
      ∧ streamAt (curCtx t) n.toNat = advance (streamAt (curCtx s) n.toNat) (readG s a)
      ∧ ∀ m, m ≠ n.toNat → streamAt (curCtx t) m = streamAt (curCtx s) m)

/-! ## Segments -/

/-- R91, R92, R31, R32, R34: SEGB names the header at its address + 4 × off22; a solo ALIGN in word 15 whose header stands
and whose conditions are met latches REFMODE, sets P = 1 and LPASS = 0, clears the kill horizon and opens the
segment before its release; one whose conditions are not met latches REFMODE and traps with the schedule fault; a gang's does
the same for T = g[a], and notes whether it comes later than T − 64, but where members that form with it disagree on T, CYCLES
or GANGSIZE every one of them traps with 0x23; ALIGN in another word of its line is illegal, and with no SEGB, or with a header
that is not aligned or lies outside the store, a malformed one. (That an ALIGN which traps keeps the REFMODE it has latched
is the model's reading, log entry 31; what it does with no header or one outside the store, log entry 76.) -/
def Obligations.SegmentOpens : Prop :=
  (∀ (s : State) (off : BitVec 22), (curCtx s).inShadow = false → inSegment s = false →
    ∃ t, exec (.segb off) s = .next t
      ∧ WordDone (updCtx (fun c => { c with segb := some (pcOf s + BitVec.ofInt 64 (4 * off.toInt)) }) s) t (pcOf s + 4) 1 0)
  ∧ (∀ (s : State) (a : BitVec 5) (h : Line), LooseMain s → (curCtx s).rec_ = false → (pcOf s).toNat % 64 = 60 →
    (curCtx s).segb.map (namedHeader (curCore s)) = some (some h) → alignCause (curCore s) (refCurrent s) h = none → hdrGang h = false →
    ∃ t, exec (.align a) s = .next t ∧ OnlyFocus s t ∧ SameBytes s t ∧ (curCtx t).latched = refCurrent s
      ∧ readP t = 1 ∧ (curCtx t).lpass = 0 ∧ (curCtx t).hz = none ∧ (curCtx t).seg.phase = .pre ∧ (curCtx t).seg.hdr = h
      ∧ (∀ n, readG t n = readG s n) ∧ (∀ b, readBt t b = readBt s b) ∧ pcOf t = pcOf s + 4)
  ∧ (∀ (s : State) (a : BitVec 5) (h : Line) (code : Nat), LooseMain s → (pcOf s).toNat % 64 = 60 → (curCtx s).handler ≠ 0 →
    (curCtx s).segb.map (namedHeader (curCore s)) = some (some h) → alignCause (curCore s) (refCurrent s) h = some code →
    ∃ t, exec (.align a) s = .next t ∧ Trapped (latchModes (refCurrent s) s) t code 0 (pcOf s)
      ∧ (curCtx t).latched = refCurrent s)
  ∧ (∀ (s : State) (a : BitVec 5) (h : Line), LooseMain s → (curCtx s).rec_ = false → (pcOf s).toNat % 64 = 60 →
    (curCtx s).segb.map (namedHeader (curCore s)) = some (some h) → alignCause (curCore s) (refCurrent s) h = none →
    hdrGang h = true →
    ((∀ k, k < 128 → k ≠ s.cur → FormsWith s h k → AgreesWith s h (readG s a).toNat k) →
      ∃ t, exec (.align a) s = .next t ∧ OnlyFocus s t ∧ SameBytes s t ∧ (curCtx t).latched = refCurrent s
        ∧ readP t = 1 ∧ (curCtx t).lpass = 0 ∧ (curCtx t).hz = none ∧ (curCtx t).seg.phase = .pre ∧ (curCtx t).seg.hdr = h
        ∧ (curCtx t).seg.gangT = (readG s a).toNat ∧ (curCtx t).seg.late = decide ((readG s a).toNat < tempoNow s + 64)
        ∧ (∀ n, readG t n = readG s n) ∧ (∀ b, readBt t b = readBt s b) ∧ pcOf t = pcOf s + 4)
    ∧ ((∃ k, k < 128 ∧ k ≠ s.cur ∧ FormsWith s h k ∧ ¬ AgreesWith s h (readG s a).toNat k) → s.cur < 128 →
      (curCore s).resident = true → (curCtx s).handler ≠ 0 →
      (∀ k, k < 128 → FormsWith s h k → (getCore s k).ctx.handler ≠ 0) →
      ∃ t, exec (.align a) s = .next t ∧ ∀ k, k < 128 → (k = s.cur ∨ FormsWith s h k) →
        (getCore t k).ctx.inShadow = true ∧ (getCore t k).ctx.trapCause = 0x23 ∧ (getCore t k).ctx.seg = Seg.loose))
  ∧ (∀ (s : State) (a : BitVec 5), LooseMain s → (curCtx s).handler ≠ 0 →
    ((pcOf s).toNat % 64 ≠ 60 → ∃ t, exec (.align a) s = .next t ∧ Trapped s t 0x00 0 (pcOf s))
    ∧ ((pcOf s).toNat % 64 = 60 → (curCtx s).segb = none →
      ∃ t, exec (.align a) s = .next t ∧ Trapped s t 0x24 0 (pcOf s))
    ∧ (∀ w, (pcOf s).toNat % 64 = 60 → (curCtx s).segb = some w →
      (w.toNat % 64 ≠ 0 ∨ w.toNat < (curCtx s).codeBase ∨ (curCtx s).codeBase + (curCtx s).codeSize < w.toNat + 64) →
      ∃ t, exec (.align a) s = .next t ∧ Trapped (latchModes (refCurrent s) s) t 0x24 0 (pcOf s)))

/-- R32, R33, R34, R35, R309: the release of a segment, first or repeated, starts offset 0 on every core that releases with
this one, from that core's present core time, and the apertures granted to those cores' contexts latch their temperatures; a gang that has not formed or is not ready at T misses its start: on every
member whose code has a handler ALIGN performs nothing and cause 0x22 traps at the ALIGN word (at once where T has passed
when ALIGN executes: the model's choice, log entry 74). -/
def Obligations.SegmentReleases : Prop :=
  (∀ s : State, releaseReady s = true →
    (∃ t, exec .segmentRelease s = .next t ∧ t.cur = s.cur ∧ ∀ k ∈ releaseGroup s,
      (getCore t k).ctx.seg.phase = .running ∧ (getCore t k).ctx.seg.start = (getCore s k).ctime.toNat
        ∧ (getCore t k).ctime = (getCore s k).ctime ∧ (getCore t k).ctx.main = (getCore s k).ctx.main
        ∧ (getCore t k).watchdog = 0)
    ∧ (∃ t, exec .segmentRelease s = .next t ∧ ∀ a, a < 16 →
      getAperture t a = { getAperture s a with tlatch := (getAperture t a).tlatch }
        ∧ (getAperture t a).tlatch =
          if ∃ k ∈ releaseGroup s, (getAperture s a).owner = some ((getCore s k).ctx.task, (getCore s k).ctx.spidx) then
            (getAperture s a).temp else (getAperture s a).tlatch)
    ∧ ((curCtx s).seg.reReleased = true →
      ∃ t, exec .gangReRelease s = .next t ∧ t.cur = s.cur ∧ ∀ k ∈ releaseGroup s,
        (getCore t k).ctx.seg.phase = .running ∧ (getCore t k).ctx.seg.start = (getCore s k).ctime.toNat))
  ∧ (∀ s : State, segGang s = true → (curCtx s).seg.phase = .pre → (curCtx s).seg.gangT ≤ tempoNow s → gangReady s = false →
    (∀ k ∈ gangMembers s, (getCore s k).ctx.handler ≠ 0) →
    ∃ t, exec .gangStartMissed s = .next t ∧ t.cur = s.cur ∧ ∀ k ∈ gangMembers s,
      (getCore t k).ctx.seg = Seg.loose ∧ (getCore t k).ctx.inShadow = true
        ∧ (getCore t k).ctx.trapCause = 0x22 ∧ (getCore t k).queue = []
        ∧ (getCore t k).ctx.main = { (getCore s k).ctx.seg.snap.regs with pc := (getCore s k).ctx.seg.alignPc })

/-- R93, R39, R40, R142, R121, R284, R334, R355, R356, R364, R365, R385: inside a segment SEGE records its scheduled cycle with the window in
force there and begins closure; a chain still open there raises 0x2D. Once everything has landed and the count and the
signature agree, or have been replayed for, the segment completes and loose code goes on at the next word: WIDEN takes the
segment's bit where a stream passed its threshold, the arrivals it held take effect, the notifications it held are
counted, or kept until the complex dispatches and what they wait for has performed (R388, R263), one that every context of the
launch has raised by then adds one to the NOTIDX word, a recording keeps the
segment's end and a checkpoint, and a TRAP that it deferred takes its handler, or ends the task where the code has none
(R355, R365). A chain that a landing of the closure has left open is closed without a cause (the model's choice, log entry
78); a member of a gang completes where no member finds a mismatch (the model's reading, log entry 92). -/
def Obligations.SegmentCloses : Prop :=
  (∀ s : State, inSegment s = true →
    ∃ t u, exec .sege s = .next t ∧ WordDone (updSeg (fun g => { g with
        phase := .closing, segeAt := some (now s - g.start), atEnd := some (g.mark, g.hist) }) s) u (pcOf s + 4) 1 0
      ∧ t = if ((curCtx s).seg.chains.any fun e => e.2.isOpen) = true then
          updCore (fun c => { c with events := c.events ++ [⟨0x2D, 0, 0, pcOf s⟩] }) u else u)
  ∧ (∀ s : State, Completes s → (∀ o n, (curCtx s).seg.trap = some (o, n) → (curCtx s).handler ≠ 0) →
    ∃ t, exec .segeCompletion s = .next t ∧ t.cur = s.cur ∧ (curCtx t).seg = Seg.loose ∧ (curCtx t).segb = none
      ∧ (curCtx t).main = (curCtx s).main ∧ (curCtx t).widen = widenAfter (curCtx s)
      ∧ (curCtx t).bars = (curCtx (arrived s)).bars ∧ t.arrivals = (arrived s).arrivals
      ∧ (s.notes = [] → (complexRuns s = true → (curCore s).observed = [] →
          t.notes = [] ∧ KMap.get 0 (getTask t (curCtx s).task).raised (curCtx s).spidx
            = KMap.get 0 (getTask s (curCtx s).task).raised (curCtx s).spidx + (curCtx s).seg.notes)
        ∧ (complexRuns s = false → (curCtx s).seg.notes ≠ 0 →
          (∃ n, t.notes = [n] ∧ n.task = (curCtx s).task ∧ n.spidx = (curCtx s).spidx ∧ n.count = (curCtx s).seg.notes)
            ∧ KMap.get 0 (getTask t (curCtx s).task).raised (curCtx s).spidx
              = KMap.get 0 (getTask s (curCtx s).task).raised (curCtx s).spidx))
      ∧ (∀ p, s.notes = [] → complexRuns s = true → (curCore s).observed = [] → (curCtx s).seg.notes = 1 →
        (getTask s (curCtx s).task).taken
          = KMap.get 0 (getTask s (curCtx s).task).raised (curCtx s).spidx →
        (∀ i, i < (getTask s (curCtx s).task).contexts → i ≠ (curCtx s).spidx →
          (getTask s (curCtx s).task).taken < KMap.get 0 (getTask s (curCtx s).task).raised i) →
        (getTask s (curCtx s).task).notidx ≠ 0xFFFF → Coherent s → p.pa % 8 = 0 →
        firmwarePhys s (getTask s (curCtx s).task).desc.owner (getTask s (curCtx s).task).desc.asid
          ((getTask s (curCtx s).task).desc.ctab + 8 * (getTask s (curCtx s).task).notidx) = some p →
        OneAdded s t p)
      ∧ ((curCtx s).seg.notes = 0 → SameBytes s t)
      ∧ ((curCtx s).rec_ = false → (curCtx t).rec_ = false ∧ (curCore t).tape = (curCore s).tape)
      ∧ ((curCtx s).rec_ = true → boundAgree (curCtx s) = true → (curCore s).tape.entries.length + 6 ≤ 16384 →
        widenAfter (curCtx s) = (curCtx s).widen →
        ∃ e, (curCtx t).rec_ = true ∧ (curCore t).tape.entries
            = (curCore s).tape.entries ++ e :: checkpointParts 4 (pcOf s) (curCtx s)
          ∧ entryKind e = 3
          ∧ e.payload = BitVec.ofNat 512 ((crcFinal (curCtx s).seg.crc).toNat + 2 ^ 32 * (curCtx s).seg.segeAt.getD 0))
      ∧ ((curCtx s).rec_ = true → widenAfter (curCtx s) ≠ (curCtx s).widen → (curCtx t).rec_ = false)
      ∧ ((curCtx s).seg.trap = none → (curCtx t).inShadow = false
        ∧ nextIssue t = clk s + 1 + if (curCtx s).rec_ then 5 else 0)
      ∧ ∀ o n, (curCtx s).seg.trap = some (o, n) → (curCtx t).inShadow = true
        ∧ (curCtx t).trapCause = BitVec.ofNat 64 (o % 2 ^ 32 * 2 ^ 32 + 0x4FF)
        ∧ (curCtx t).trapPc = BitVec.ofNat 64 ((pcOf s).toNat % 2 ^ 57) ∧ (curCtx t).trapInfo = n.setWidth 64
        ∧ pcOf t = BitVec.ofNat 64 ((curCtx s).codeBase + (curCtx s).handler))
  ∧ (∀ (s : State) (o : Nat) (n : BitVec 15), Completes s → (curCtx s).seg.trap = some (o, n) → (curCtx s).handler = 0 →
    ∃ t, exec .segeCompletion s = .next t ∧ TaskGone s t (curCtx s).task ∧ Told s t 1 0x46)

/-! ## The tape -/

/-- R334, R337 to R340, R345: where the tape is negotiated, TAPE.PATCH gives slot k its value, marks it valid and binds
its register; TAPE.GUARD records a guard while a tape is recording; TAPE.DROP empties the task's own tape; TAPE.REC after a
TAPE.PLAY begins a recording with its start checkpoint of five entries; TAPE.END writes the final checkpoint, its own end
address, and makes the tape ready. -/
def Obligations.TapeWords : Prop :=
  (∀ s : State, (curCtx s).inShadow = false → inSegment s = false → tapeOn s = true →
    (∀ k a : BitVec 5, k.toNat < 16 →
      ∃ t, exec (.tapePatch k a) s = .next t ∧ WordDone (updCtx (fun c => { c with
          h := KMap.set 0 c.h k.toNat (readG s a), hv := c.hv ||| BitVec.ofNat 16 (2 ^ k.toNat)
          bind := KMap.set 0 c.bind k.toNat a }) (spoil 0x20 s)) t (pcOf s + 4) 1 0)
    ∧ (∀ i a : BitVec 5, i.toNat < 8 → (curCtx s).rec_ = true →
      ∃ t, exec (.tapeGuard i a) s = .next t ∧ OnlyFocus s t ∧ RegsKept s t (pcOf s + 4) ∧ SameBytes s t
        ∧ KMap.get 0 (curCore t).tape.gval i.toNat = readG s a ∧ KMap.get 0 (curCore t).tape.greg i.toNat = a
        ∧ bitAt (curCore t).tape.gmask i.toNat = true ∧ (curCore t).tape.entries = (curCore s).tape.entries)
    ∧ (∀ i a : BitVec 5, i.toNat < 8 → (curCtx s).rec_ = false →
      ∃ t, exec (.tapeGuard i a) s = .next t ∧ WordDone s t (pcOf s + 4) 1 0)
    ∧ (∃ t, exec .tapeDrop s = .next t ∧ OnlyFocus s t ∧ RegsKept s t (pcOf s + 4) ∧ SameBytes s t
      ∧ (curCore t).tape = (if tapeMine (curCore s) then Tape.empty else (curCore s).tape)
      ∧ (curCtx t).rec_ = ((curCtx s).rec_ && !tapeMine (curCore s))))
  ∧ (∀ s : State, (curCtx s).inShadow = false → inSegment s = false → tapeOn s = true → boundAgree (curCtx s) = true →
    ((curCtx s).rec_ = false → (curCtx s).playAt ≠ 0 →
      ∃ t, exec .tapeRec s = .next t ∧ OnlyFocus s t ∧ RegsKept s t (pcOf s + 4) ∧ SameBytes s t
        ∧ (curCtx t).rec_ = true ∧ (curCtx t).wmask = 0 ∧ (curCore t).tape.state = 1
        ∧ (curCore t).tape.region = (curCtx s).playAt ∧ (curCore t).tape.codeHash = (curCtx s).codeHash
        ∧ (curCore t).tape.entries.length = 5
        ∧ (∀ e ∈ (curCore t).tape.entries, entryKind e = 4)
        ∧ nextIssue t = clk s + 8)
    ∧ ((curCtx s).rec_ = true → (curCore s).tape.entries.length + 5 ≤ 16384 →
      ∃ t, exec .tapeEnd s = .next t ∧ OnlyFocus s t ∧ RegsKept s t (pcOf s + 4) ∧ SameBytes s t
        ∧ (curCtx t).rec_ = false ∧ (curCore t).tape.state = 2 ∧ (curCore t).tape.endPc = pcOf s + 4
        ∧ (curCore t).tape.entries = (curCore s).tape.entries ++ checkpointParts 5 (pcOf s + 4) (curCtx s)
        ∧ nextIssue t = clk s + 8))

/-- R341, R335, R402: TAPE.PLAY writes its reason to d and to the tape state: that of the first of R341's conditions that
fails, in the rule's order, or 0, and then play begins at the first entry after the start checkpoint; for reason 11 GUARD is
the lowest guard that is recorded and fails. One that ends a recording finds its tape unusable (reason 3). Without FEAT0.TAPE
it writes 1. (That a tape still recording has reason 3 is the model's reading, log entry 24.) -/
def Obligations.TapePlayResult : Prop :=
  ∀ (s : State) (d : BitVec 5), (curCtx s).inShadow = false → inSegment s = false →
    (tapeOn s = false → ∃ t, exec (.tapePlay d) s = .next t ∧ WordDone s t (pcOf s + 4) 16 d ∧ (d ≠ 0 → readG t d = 1))
    ∧ (tapeOn s = true → (curCtx s).rec_ = true → (curCore s).tape.codeHash = (curCtx s).codeHash →
      ∃ t, exec (.tapePlay d) s = .next t ∧ OnlyFocus s t ∧ SameBytes s t ∧ pcOf t = pcOf s + 4
        ∧ (d ≠ 0 → readG t d = 3) ∧ (∀ n, n ≠ d → readG t n = readG s n) ∧ (curCtx t).reason = 3
        ∧ (curCtx t).rec_ = false ∧ (curCore t).tape.state = 4 ∧ (curCore t).play = (curCore s).play)
    ∧ (tapeOn s = true → (curCtx s).rec_ = false →
      ∃ t r, exec (.tapePlay d) s = .next t ∧ OnlyFocus s t ∧ SameBytes s t
        ∧ r = (if (curCore s).tape.state = 0 ∨ (curCore s).tape.codeHash ≠ (curCtx s).codeHash then 1
          else if (curCore s).tape.state = 3 then 2
          else if (curCore s).tape.state ≠ 2 then 3
          else if (curCore s).tape.region ≠ pcOf s then 4
          else if (curCore s).tape.spidx ≠ (curCtx s).spidx then 6
          else if (curCore s).tape.feat0 ≠ s.feat0 ∨ (curCore s).tape.feat1 ≠ s.feat1 then 7
          else if (curCore s).tape.foldClass ≠ (curCore s).fold then 8
          else if ((List.range 8).any fun k => (getDie s k).hot != (curCore s).tape.refCur.getLsbD k) = true then 9
          else if (curCore s).tape.widen ≠ (curCtx s).widen then 10
          else if ((List.range 8).any (guardFails s)) = true then 11
          else 0)
        ∧ (d ≠ 0 → readG t d = BitVec.ofNat 64 r) ∧ (∀ n, n ≠ d → readG t n = readG s n)
        ∧ (∀ b, readBt t b = readBt s b) ∧ readP t = readP s ∧ nextIssue t = clk s + 16
        ∧ pcOf t = pcOf s + 4 ∧ (curCtx t).playAt = pcOf s ∧ (curCtx t).left = false
        ∧ (curCtx t).reason = BitVec.ofNat 8 r ∧ (curCore t).tape = (curCore s).tape
        ∧ (r = 0 → (curCore t).play = ⟨true, 5, 0, none⟩) ∧ (r ≠ 0 → (curCore t).play = (curCore s).play)
        ∧ (r = 11 → guardFails s (curCtx t).guardIdx.toNat = true
          ∧ ∀ i, i < (curCtx t).guardIdx.toNat → guardFails s i = false)
        ∧ (r ≠ 11 → (curCtx t).guardIdx = (curCtx s).guardIdx))

/-! ## Barriers and ways -/

/-- R282 to R290: BAR.INIT gives a barrier at rest its scope and number of participants; BAR.ARRIVE in loose code
counts this context's arrival in its own copy and sends one message to each other participant, 20 cycles on at die scope
and 60 at package scope, which wait for the writes pending before it; BAR.TEST reads the state word; BAR.WAIT waits while
this context has entered the phase or a write of its own before its ARRIVE is pending (the model's reading, log entry 101),
and on its completion d takes the word and execution goes on after an acquire; an arrival is counted by its tag in the copy of
its target wherever that stands: a resident context's own, a saved image, or the words kept for one not yet placed. -/
def Obligations.BarrierWords : Prop :=
  (∀ (s : State) (n : BitVec 10), (curCtx s).inShadow = false → n.toNat < (curCtx s).barriers →
    (∀ a : BitVec 5, inSegment s = false → (bitsAt (readG s a) 0 2 = 1 ∨ bitsAt (readG s a) 0 2 = 2) →
      barArr (barWord (curCtx s) n.toNat) = 0 → barAhead (barWord (curCtx s) n.toNat) = 0 →
      barMine (barWord (curCtx s) n.toNat) = false → 0 < participants s (bitsAt (readG s a) 0 2) →
      participants s (bitsAt (readG s a) 0 2) < 256 →
      ∃ t, exec (.barInit a n) s = .next t ∧ RegsKept s t (pcOf s + 4) ∧ SameBytes s t
        ∧ barScope (barWord (curCtx t) n.toNat) = bitsAt (readG s a) 0 2
        ∧ barExp (barWord (curCtx t) n.toNat) = participants s (bitsAt (readG s a) 0 2)
        ∧ barPhase (barWord (curCtx t) n.toNat) = barPhase (barWord (curCtx s) n.toNat)
        ∧ ∀ m, m ≠ n.toNat → barWord (curCtx t) m = barWord (curCtx s) m)
    ∧ (barScope (barWord (curCtx s) n.toNat) ≠ 0 → barMine (barWord (curCtx s) n.toNat) = false → inSegment s = false →
      ∃ t, exec (.barArrive n) s = .next t ∧ RegsKept s t (pcOf s + 4) ∧ SameBytes s t
        ∧ t.arrivals.length = s.arrivals.length + (others s (barScope (barWord (curCtx s) n.toNat))).length
        ∧ (∀ m ∈ t.arrivals, m ∉ s.arrivals → m.bar = n.toNat ∧ m.task = (curCtx s).task
            ∧ m.phase = BitVec.ofNat 16 (barPhase (barWord (curCtx s) n.toNat))
            ∧ m.due = tempoNow s + (if barScope (barWord (curCtx s) n.toNat) = 1 then 20 else 60))
        ∧ (∀ a ∈ (curCore s).pend, accWrites a.kind = true →
            a.id ∈ KMap.get [] (curCore t).barOwed n.toNat ∧ ∀ m ∈ t.arrivals, m ∉ s.arrivals → a.id ∈ m.waits)
        ∧ barWord (curCtx t) n.toNat = barComplete (putBits (putBits (barWord (curCtx s) n.toNat) 24 8
            (barArr (barWord (curCtx s) n.toNat) + 1)) 0 1 1)
        ∧ ∀ m, m ≠ n.toNat → barWord (curCtx t) m = barWord (curCtx s) m)
    ∧ (∀ d : BitVec 5, inSegment s = false →
      ∃ t, exec (.barTest d n) s = .next t ∧ WordDone (spoil 0x20 s) t (pcOf s + 4) 2 d
        ∧ Wrote (spoil 0x20 s) t d (barWord (curCtx s) n.toNat) 2))
  ∧ (∀ (s : State) (d : BitVec 5) (n : BitVec 10),
    ((curCtx s).inShadow = false → inSegment s = false → n.toNat < (curCtx s).barriers →
      barScope (barWord (curCtx s) n.toNat) ≠ 0 →
      ((barMine (barWord (curCtx s) n.toNat) = true
          ∨ ∃ i ∈ KMap.get [] (curCore s).barOwed n.toNat, accessPending s i = true) →
        ∃ t, exec (.barWait d n) s = .next t ∧ OnlyFocus s t ∧ RegsKept s t (pcOf s) ∧ SameBytes s t
          ∧ (curCtx t).wait = .bar d.toNat n.toNat)
      ∧ (barMine (barWord (curCtx s) n.toNat) = false →
        (∀ i ∈ KMap.get [] (curCore s).barOwed n.toNat, accessPending s i = false) →
        ∃ t, exec (.barWait d n) s = .next t ∧ (curCtx t).wait = .none ∧ pcOf t = pcOf s + 4 ∧ SameBytes s t
          ∧ (d ≠ 0 → readG t d = barWord (curCtx s) n.toNat) ∧ (∀ m, m ≠ d → readG t m = readG s m)
          ∧ (barScope (barWord (curCtx s) n.toNat) = 2 → (getDie t (curDie s)).rdc = [])))
    ∧ ((curCtx s).wait = .bar d.toNat n.toNat → barMine (barWord (curCtx s) n.toNat) = false →
      (∀ i ∈ KMap.get [] (curCore s).barOwed n.toNat, accessPending s i = false) →
      ∃ t, exec .barWaitCompletion s = .next t ∧ (curCtx t).wait = .none ∧ pcOf t = pcOf s + 4 ∧ SameBytes s t
        ∧ (d ≠ 0 → readG t d = barWord (curCtx s) n.toNat) ∧ (∀ m, m ≠ d → readG t m = readG s m)))
  ∧ (∀ (s : State) (m : Arrival),
    (∀ k, KMap.get .unplaced (getTask s m.task).places m.spidx = .resident k →
      ∃ t, exec (.barrierArrival m) s = .next t ∧ t.arrivals = s.arrivals.erase m
        ∧ barWord (getCore t k).ctx m.bar = barCount m.phase (barWord (getCore s k).ctx m.bar)
        ∧ (∀ n, n ≠ m.bar → barWord (getCore t k).ctx n = barWord (getCore s k).ctx n)
        ∧ (getCore t k).ctx.main = (getCore s k).ctx.main ∧ (∀ j, j ≠ k → getCore t j = getCore s j))
    ∧ (KMap.get .unplaced (getTask s m.task).places m.spidx = .unplaced →
      ∃ t, exec (.barrierArrival m) s = .next t ∧ t.arrivals = s.arrivals.erase m ∧ t.cores = s.cores
        ∧ KMap.get 0 (getTask t m.task).bars (m.spidx * 1024 + m.bar)
          = barCount m.phase (KMap.get 0 (getTask s m.task).bars (m.spidx * 1024 + m.bar)))
    ∧ (KMap.get .unplaced (getTask s m.task).places m.spidx = .saved →
      ∃ t, exec (.barrierArrival m) s = .next t ∧ t.cores = s.cores
        ∧ ∀ v, (m.spidx, v) ∈ (getTask s m.task).saved →
          (m.spidx, { v with ctx := putBar m.bar (barCount m.phase (barWord v.ctx m.bar)) v.ctx }) ∈ (getTask t m.task).saved))

/-- R221, R222, R416: WAYS of at most 16 waits for its group; when every member has arrived with the same value each member's
ways take it and the group's wait ends after the cost: 128 cycles, and where the ways shrink the greater of two cycles for
each sector that the busiest slice writes back and the sectors of the group over its DRAM share (all of them where that is
0). The lines in the ways that leave the cache leave it, no byte of memory changes, and the LS bytes of the ways that change
hands read zero, the others as before. Then the word retires, and what its reads have observed counts in later releases. -/
def Obligations.WaysResult : Prop :=
  ∀ s : State,
    (∀ a : BitVec 5, (curCtx s).inShadow = false → inSegment s = false → (readG s a).toNat ≤ 16 →
      ∃ t, exec (.ways a) s = .next t ∧ OnlyFocus s t ∧ RegsKept s t (pcOf s) ∧ SameBytes s t
        ∧ (curCtx t).wait = .ways (readG s a).toNat (tempoNow s))
    ∧ (∀ w : Nat, w ≤ 16 → waysOrphaned s = false → waysReady s = true →
        (∀ k ∈ groupCores s, waysAsked s k = some w) →
      ∃ t cost, exec .waysChange s = .next t
        ∧ cost = (if (curCtx s).w.toNat ≤ w then 128 else
            128 + Nat.max (2 * waysBusiest s w) (if waysShare s = 0 then waysWritten s w
              else (waysWritten s w + waysShare s - 1) / waysShare s))
        ∧ (∀ k ∈ groupCores s,
          (getCore t k).ctx.w.toNat = w ∧ (getCore t k).ctx.wait = .waysDone (tempoNow s + cost)
            ∧ (getCore t k).ctx.main = (getCore s k).ctx.main)
        ∧ (Coherent s → ∀ p, physByte t p = physByte s p)
        ∧ (Coherent s → ∀ k ∈ groupCores s, ∀ l ∈ (getDie t (curDie s)).l2, l.slice / 32 = k % 16 → l.way < w)
        ∧ ∀ x way o, (curCtx s).w.toNat ≤ 16 → x < 512 → way < 16 → o < 4096 →
          KMap.get 0 (getDie t (curDie s)).ls (65536 * x + 4096 * way + o) =
            if (∃ k ∈ groupCores s, x / 32 = k % 16) ∧ Nat.min w (curCtx s).w.toNat ≤ way ∧ way < Nat.max w (curCtx s).w.toNat
              then 0 else KMap.get 0 (getDie s (curDie s)).ls (65536 * x + 4096 * way + o))
    ∧ (∀ u : Nat, (curCtx s).wait = .waysDone u → u ≤ tempoNow s →
      ∃ t, exec .waysRetire s = .next t
        ∧ WordDone (updCore (fun c => { c with observed := (curCore t).observed, ctx := { c.ctx with wait := .none } }) s) t
            (pcOf s + 4) 1 0
        ∧ ∀ o ∈ (curCore s).observed, accessPending s o.id = true → o.shadow = false →
          { o with scope := some (o.scope.getD 0) } ∈ (curCore t).observed)

/-! ## Contexts, tasks and the scheduler -/

/-- R96, R95, R386: END in loose code ends its context: its place is ended, its core holds none, the task keeps its WIDEN
bits; where an event has fallen on its core END does not retire (R366). YIELD goes on at the next word, and only where a
launch waits for the core asks for its pre-emption, which then comes before any word, END too. -/
def Obligations.EndAndYield : Prop :=
  (∀ s : State, (curCtx s).inShadow = false → inSegment s = false → (curCore s).pend = [] →
    ((curCore s).events = [] →
      ∃ t, exec .endCtx s = .next t ∧ t.cur = s.cur ∧ (curCore t).resident = false
        ∧ placeOf t (curCtx s).task (curCtx s).spidx = .ended
        ∧ (getTask t (curCtx s).task).widenOr = (getTask s (curCtx s).task).widenOr ||| (curCtx s).widen
        ∧ (Coherent s → SameBytes s t))
    ∧ ((curCore s).events ≠ [] → exec .endCtx s = .next s))
  ∧ (∀ s : State, (curCtx s).inShadow = false → inSegment s = false →
    ∃ t, exec .yield s = .next t ∧ RegsKept s t (pcOf s + 4) ∧ SameBytes s t
      ∧ ((∀ u, waitingCtxs (getTask s u) = []) → WordDone (spoil 0x20 s) t (pcOf s + 4) 1 0)
      ∧ ((curCore s).resident = true → (curCore s).yielding = false → (curCore t).yielding = true →
        (curCore t).preempt = true ∧ endDue t = false))

/-- R263, R275, R367, R371, R383: a pending request on a core whose context stands alone at a pre-emption point releases the core and
saves the context's registers, streams, vector registers, accumulators and barriers, with the feature bits in force and
the stores of others that it has observed (R275: it is one agent for life); a saved context that resumes alone on a core that can take it is resident there with those of its image, an
acquire at package scope having been made for it, which its observed stores follow; and no byte of memory changes. -/
def Obligations.ContextsSavedAndRestored : Prop :=
  (∀ s : State, (curCore s).preempt = true → atPoint s = true → wholeSet s = [s.cur] → (curCore s).pend = [] →
    ∃ t sv, exec .preemption s = .next t ∧ (curCore t).resident = false ∧ t.cur = s.cur
      ∧ placeOf t (curCtx s).task (curCtx s).spidx = .saved
      ∧ ((curCtx s).spidx, sv) ∈ (getTask t (curCtx s).task).saved
      ∧ sv.die = curDie s ∧ sv.ctx.main = (curCtx s).main ∧ sv.ctx.streams = (curCtx s).streams
      ∧ sv.ctx.vregs = (curCtx s).vregs ∧ sv.ctx.acc = (curCtx s).acc ∧ sv.ctx.bars = (curCtx s).bars
      ∧ sv.observed = (curCore s).observed.filter (fun o => !o.shadow)
      ∧ sv.ctx.segb = (curCtx s).segb ∧ sv.feat0 = s.feat0 ∧ sv.feat1 = s.feat1 ∧ (Coherent s → SameBytes s t))
  ∧ (∀ (s : State) (task i k : Nat) (sv : Saved), resumeSet (getTask s task) i = [(i, sv)] → canResume s task k sv = true →
    ∃ t, exec (.resumption task i k) s = .next t ∧ placeOf t task i = .resident k ∧ (getCore t k).resident = true
      ∧ (getCore t k).ctx.main = sv.ctx.main ∧ (getCore t k).ctx.streams = sv.ctx.streams
      ∧ (getCore t k).ctx.vregs = sv.ctx.vregs ∧ (getCore t k).ctx.acc = sv.ctx.acc
      ∧ (getCore t k).observed = ((sv.observed.filter fun o => accessPending t o.id).map fun o =>
          if o.shadow then o else { o with scope := some (Nat.max 2 (o.scope.getD 0)) })
      ∧ (getDie t (k / 16)).rdc = [] ∧ (getCore t k).fences = sv.fences
      ∧ (getCore t k).ctime = (getCore s k).ctime ∧ (sv.ctx.w = 16 → t.dram = s.dram)
      ∧ (Coherent s → ∀ p, physByte t p = physByte s p) ∧ ∀ j, j ≠ k → OnlySeen (getCore s j) (getCore t j))

/-- R29, R68, R379, R381, R383, R386: a queued launch whose words have reached their thresholds becomes ready; the test
of every 15,000 cycles marks the queued launches; a waiting one rises one priority for each 3,000,000 cycles; one that
prefers its tape's core waits no longer than its limit; a context that starts is resident with g1 at the argument address,
P = 1, every other register zero and the pc at the entry; a launch whose contexts have all ended completes: the WIDEN bits go
to their word, one is added to the completion word, with no other byte of memory changed, and its ring's vector is raised where the add to its completion word has performed (R392). -/
def Obligations.LaunchesRun : Prop :=
  (∀ (s : State) (task i k : Nat), (getTask s task).life = .ready → placeOf s task i = .unplaced →
    i < (getTask s task).contexts → startSet (getTask s task) i = [i] → canStart s task i k = true →
    ∃ t, exec (.launchPlacement task i k) s = .next t ∧ placeOf t task i = .resident k ∧ (getCore t k).resident = true
      ∧ (getCore t k).ctx.main.read 1 = (getTask s task).args ∧ (getCore t k).ctx.main.p = 1
      ∧ (∀ n, n ≠ 1 → (getCore t k).ctx.main.read n = 0)
      ∧ (∀ b, KMap.get 0 (getCore t k).ctx.main.bt b = 0)
      ∧ (getCore t k).ctx.main.pc = BitVec.ofNat 64 ((getTask s task).codeVa + (getTask s task).entry)
      ∧ (getCore t k).ctx.asid = (getTask s task).asid ∧ t.dram = s.dram)
  ∧ (∀ (s : State) (task : Nat), (getTask s task).life = .queued → waitsMet s (getTask s task) = true →
    ∃ t, exec (.launchReady task) s = .next t ∧ (getTask t task).life = .ready ∧ (getTask t task).since = tempoNow s
      ∧ (getTask t task).eff = (getTask s task).prio ∧ (getTask t task).test = false ∧ t.dram = s.dram)
  ∧ (∀ (s : State) (task : Nat), (getTask s task).life = .queued → waitsMet s (getTask s task) = false →
    ∃ t, exec (.launchReady task) s = .next t ∧ (getTask t task).life = .queued ∧ t.cores = s.cores)
  ∧ (∀ s : State, ∃ t, exec .periodicReadinessTest s = .next t ∧ t.fw.nextTest = tempoNow s + 15000
    ∧ ∀ u x, (u, x) ∈ s.tasks → x.life = .queued → (u, { x with test := true }) ∈ t.tasks)
  ∧ (∀ (s : State) (task : Nat), ∃ t, exec (.effectivePriorityPromotion task) s = .next t
    ∧ (getTask t task).eff.toNat
      = min 3 ((getTask s task).prio.toNat + (tempoNow s - (getTask s task).since) / 3000000)
    ∧ (getTask t task).life = (getTask s task).life)
  ∧ (∀ (s : State) (task : Nat), (getTask s task).affUntil ≤ tempoNow s →
    ∃ t, exec (.tapeAffinityWaitExpiry task) s = .next t ∧ (getTask t task).affUntil = 0
      ∧ (getTask t task).aff = min (getTask s task).aff 1 ∧ t.cores = s.cores)
  ∧ (∀ (s : State) (task : Nat), (getTask s task).life = .ready → allEnded (getTask s task) = true →
    ∃ t, exec (.launchCompletion task) s = .next t ∧ (getTask t task).life = .completed
      ∧ (∀ k, OnlySeen (getCore s k) (getCore t k))
      ∧ t.host.raised = s.host.raised ++
          (if (getTask s task).desc.vector ≠ 0 ∧ bumpPerforms (getTask s task).desc (getTask s task).incidx
              (putWord (getTask s task).desc.owner (getTask s task).asid ((getTask s task).codeVa + 0x28)
                (getTask s task).widenOr s) = true then
            [(getTask s task).desc.vector] else []))
  ∧ (∀ (s : State) (task : Nat), (getTask s task).life = .ready → allEnded (getTask s task) = true →
    ∃ t, exec (.launchCompletion task) s = .next t ∧ ∀ p, physByte t p = physByte
      (bumpWord (getTask s task).desc (getTask s task).incidx
        (putWord (getTask s task).desc.owner (getTask s task).asid ((getTask s task).codeVa + 0x28)
          (getTask s task).widenOr s)) p)
  ∧ (∀ (s : State) (r : Ring) (idx : Nat), (bumpPerforms r idx s = false → bumpWord r idx s = s)
    ∧ (bumpPerforms r idx s = true ↔ idx ≠ 0xFFFF ∧ (wordAt s r.owner r.asid (completionVa r idx)).isSome = true)
    ∧ (∀ p, idx ≠ 0xFFFF → firmwarePhys s r.owner r.asid (r.ctab + 8 * idx) = some p → p.pa % 8 = 0 → Coherent s →
      OneAdded s (bumpWord r idx s) p))

/-- R365, R372, R379, R380, R382: a launch packet that is well formed makes a queued task with the packet's priority,
argument address, identifier and waits; one that meets a condition of R380's table, which the statement writes out, or
whose ring's completion table does not translate, is reported with the lowest reason and makes none; a well-formed abort
packet ends every launch of its ring and identifier that is not over, and none whose contexts have all ended. -/
def Obligations.PacketsParsed : Prop :=
  (∀ (s : State) (ring : Nat) (p : Line),
    (tableOk (dropPacket ring p s) (getRing s ring) = false →
      ∀ tk, parseLaunch (dropPacket ring p s) ring p ≠ .ok tk)
    ∧ (∀ tk, parseLaunch (dropPacket ring p s) ring p = .ok tk →
      ∃ t, exec (.launch ring p) s = .next t ∧ getTask t s.fw.nextTask = tk ∧ t.fw.nextTask = s.fw.nextTask + 1
        ∧ tk.life = .queued ∧ tk.ring = ring ∧ tk.prio = p.extractLsb' 36 2 ∧ tk.args = p.extractLsb' 128 64
        ∧ tk.launchId = bitsAt p 192 48 ∧ tk.waits.length = bitsAt p 38 3
        ∧ t.cores = s.cores ∧ t.dram = s.dram ∧ t.packets = s.packets.erase (ring, p))
    ∧ (∀ h r, firmwareBytes (dropPacket ring p s) (getRing s ring).owner (getRing s ring).asid (bitsAt p 64 64) 256 = some h →
      ((launchFlaws (dropPacket ring p s) ring p h).find? fun e => e.2).map Prod.fst = some r →
      parseLaunch (dropPacket ring p s) ring p = .error r)
    ∧ (∀ h, firmwareBytes (dropPacket ring p s) (getRing s ring).owner (getRing s ring).asid (bitsAt p 64 64) 256 = some h →
      ((launchFlaws (dropPacket ring p s) ring p h).find? fun e => e.2) = none →
      ∃ tk, parseLaunch (dropPacket ring p s) ring p = .ok tk)
    ∧ (firmwareBytes (dropPacket ring p s) (getRing s ring).owner (getRing s ring).asid (bitsAt p 64 64) 256 = none →
      parseLaunch (dropPacket ring p s) ring p = .error (if packetFlawed p = true then 1 else 2))
    ∧ (∀ reason, parseLaunch (dropPacket ring p s) ring p = .error reason → reportRoom s →
      ∃ t, exec (.launch ring p) s = .next t ∧ Reported s t 2 reason ∧ t.tasks = s.tasks ∧ t.cores = s.cores
        ∧ t.packets = s.packets.erase (ring, p)))
  ∧ (∀ (s : State) (ring : Nat) (p : Line), packetFlawed p = true → reportRoom s →
    ∃ t, exec (.abortRequest ring p) s = .next t ∧ Reported s t 2 1 ∧ t.tasks = s.tasks ∧ t.cores = s.cores)
  ∧ (∀ (s : State) (ring : Nat) (p : Line), packetFlawed p = false →
    ∃ t, exec (.abortRequest ring p) s = .next t ∧ ∀ u x, KMap.wf Task.none s.tasks = true → (u, x) ∈ s.tasks →
      x.ring = ring → x.desc.live = true → x.launchId = bitsAt p 192 48 →
      ((x.life = .queued ∨ (x.life = .ready ∧ allEnded x = false)) → (getTask t u).life = .aborted)
        ∧ (x.life = .ready → allEnded x = true → (getTask t u).life = .ready))

/-- R374, R376, R378, R381, R399: a scan clears the ring's wake bit (but where it stops at a page that is gone), and the
ring of a wake word is woken if it is live, the word dropped and counted if not; RINGREG of a well-formed ring in a space
that exists, with a vector that no live ring has, answers with the lowest free ring number (the model's choice, log entry
56) and makes that ring live; RINGDEL ends a live ring and its launches raise no vector. -/
def Obligations.RingsResult : Prop :=
  (∀ (s : State) (ring : Nat), ∃ t, exec (.ringScan ring) s = .next t
    ∧ (getRing t ring).woken
      = ((getRing s ring).live && !(getRing s ring).overrun && !ringReadable t (getRing s ring))
    ∧ (getRing t ring).base = (getRing s ring).base ∧ (getRing t ring).live = (getRing s ring).live
    ∧ (∀ k, OnlySeen (getCore s k) (getCore t k))
    ∧ ((getRing s ring).live = false → t.packets = s.packets))
  ∧ (∀ (s : State) (w : Word), (bitsAt w 16 16 = 0xFFFF ∨ bitsAt w 16 16 = s.pkg.toNat) →
    ((getRing s (bitsAt w 0 16)).live = true → (getRing s (bitsAt w 0 16)).overrun = false →
      ∃ t, exec (.hostWake w) s = .next t ∧ (getRing t (bitsAt w 0 16)).woken = true ∧ t.cores = s.cores ∧ t.tasks = s.tasks)
    ∧ ((getRing s (bitsAt w 0 16)).live = false →
      ∃ t, exec (.hostWake w) s = .next t ∧ t.fw.wakesDropped = s.fw.wakesDropped + 1 ∧ t.rings = s.rings ∧ t.cores = s.cores))
  ∧ (∀ (s : State) (slot : Nat) (req : Line), s.fw.bringUp = .ready →
    (∀ n : Nat, WellAddressed 3 req → reqField req 8 2 ≠ 0 → 4 ≤ reqField req 10 1 → reqField req 10 1 ≤ 16 →
      reqField req 11 1 < 8 → reqField req 12 1 ≠ 1 → reqField req 12 1 < 64 →
      reqField req 16 8 % 64 = 0 → reqField req 24 8 % 64 = 0 → reqField req 32 8 % 8 = 0 →
      reqField req 16 8 < 2 ^ 57 → reqField req 24 8 < 2 ^ 57 → reqField req 32 8 < 2 ^ 57 →
      spaceExists s (reqField req 8 2) = true →
      (reqField req 12 1 = 0 ∨ ∀ e ∈ s.rings, e.2.live = true → e.2.vector ≠ reqField req 12 1) → freeRing s = some n →
      ∃ t, exec (.ringreg slot req) s = .next t ∧ Answered s t slot ∧ slotField t slot 40 2 = n
        ∧ getRing t n = ⟨true, reqField req 8 2, reqField req 16 8, reqField req 10 1, reqField req 24 8,
            reqField req 32 8, reqField req 11 1, reqField req 12 1, false, false⟩
        ∧ (∀ m, m ≠ n → getRing t m = getRing s m) ∧ t.cores = s.cores)
    ∧ (WellAddressed 4 req → (getRing s (reqField req 8 2)).live = true →
      ∃ t, exec (.ringdel slot req) s = .next t ∧ Answered s t slot ∧ (getRing t (reqField req 8 2)).live = false
        ∧ (∀ u x, (u, x) ∈ t.tasks → x.ring = reqField req 8 2 → x.desc.vector = 0)
        ∧ t.cores = s.cores))

/-! ## Host requests -/

/-- R18, R19, R384, R398, R399, R402, R410: NEGOTIATE sets FEAT0 to the bits the host asks for that the device offers and
FEAT1 to zero; CONFIG sets the package's number and domain, its power cap where one is given, and each watchdog limit given
in microseconds of 1,500 cycles; both are refused with reason 4 while a task is resident, and change nothing then. -/
def Obligations.NegotiateAndConfig : Prop :=
  (∀ (s : State) (slot : Nat) (req : Line), WellAddressed 1 req →
    (anyResident s = false →
      ∃ t, exec (.negotiate slot req) s = .next t ∧ Answered s t slot
        ∧ t.feat0 = BitVec.ofNat 64 (reqField req 8 8) &&& 0x3F ∧ t.feat1 = 0
        ∧ slotField t slot 24 8 = t.feat0.toNat ∧ slotField t slot 40 8 = 0x3F ∧ t.cores = s.cores)
    ∧ (anyResident s = true →
      ∃ t, exec (.negotiate slot req) s = .next t ∧ Refused s t slot 4 ∧ t.feat0 = s.feat0 ∧ t.feat1 = s.feat1))
  ∧ (∀ (s : State) (slot : Nat) (req : Line), WellAddressed 2 req → s.fw.bringUp ≠ .negotiate → anyResident s = false →
    (reqField req 12 2 = 0 ∨ (1200 ≤ reqField req 12 2 ∧ reqField req 12 2 ≤ 2400)) →
    (∀ p, p < 4 → reqField req (16 + 4 * p) 4 = 0 ∨
      (1000 ≤ reqField req (16 + 4 * p) 4 ∧ reqField req (16 + 4 * p) 4 ≤ 10000000)) →
    ∃ t, exec (.config slot req) s = .next t ∧ Answered s t slot
      ∧ t.pkg = BitVec.ofNat 16 (reqField req 8 2) ∧ t.domain = BitVec.ofNat 16 (reqField req 10 2)
      ∧ t.fw.cap = (if reqField req 12 2 = 0 then s.fw.cap else reqField req 12 2)
      ∧ (∀ p, p < 4 → watchdogLimit t p =
          if reqField req (16 + 4 * p) 4 = 0 then watchdogLimit s p else reqField req (16 + 4 * p) 4 * 1500)
      ∧ t.cores = s.cores)
  ∧ (∀ (s : State) (slot : Nat) (req : Line), WellAddressed 2 req → s.fw.bringUp ≠ .negotiate → anyResident s = true →
    ∃ t, exec (.config slot req) s = .next t ∧ Refused s t slot 4 ∧ t.pkg = s.pkg ∧ t.domain = s.domain ∧ t.fw = s.fw
      ∧ t.cores = s.cores)

/-- R399, R247, R408: an ALLOC that the memory manager can serve answers with its address, and the space holds the
allocation; a FREE of an allocation whose mappings nothing uses removes it; one that a task's locked translation or an
eviction on its way holds up stays pending with STATUS 2 and takes no mapping away; else it takes the mappings away at once
and stays pending until what had translated through them has performed (which accesses those are is the model's reading,
log entry 54); PEERBIND binds a space to a peer's with operation 0, unbinds it with operation 1, and refuses to unbind one
that is not bound. -/
def Obligations.SpaceRequests : Prop :=
  ∀ (s : State) (slot : Nat) (req : Line), s.fw.bringUp = .ready →
    (∀ (choice : AllocChoice) (va : Nat) (u : State), WellAddressed 5 req →
      allocate (reqField req 8 2) (reqField req 16 8) (BitVec.ofNat 64 (reqField req 24 8)) (reqField req 32 8) choice s
        = .ok (va, u) → va < 2 ^ 64 →
      ∃ t, exec (.alloc slot req choice) s = .next t ∧ Answered s t slot ∧ slotField t slot 40 8 = va
        ∧ (reqField req 32 8 ≠ 0 → va = reqField req 32 8)
        ∧ (∃ a ∈ (getSpace t (reqField req 8 2)).allocs, a.va = va ∧ a.length = reqField req 16 8
            ∧ a.flags = BitVec.ofNat 64 (reqField req 24 8))
        ∧ (∀ k, OnlySeen (getCore s k) (getCore t k)) ∧ t.tasks = s.tasks)
    ∧ (∀ (asid : Nat) (a : Alloc), WellAddressed 6 req → asid = reqField req 8 2 →
      (getSpace s asid).allocs.find? (fun a => a.va == reqField req 16 8) = some a →
      (a.freeing = none ∨ a.freeing = some slot) →
      (freeWaits s asid a = true →
        ∃ t, exec (.free slot req) s = .next t ∧ FreePends s t slot asid (reqField req 16 8) ∧ t.cores = s.cores
          ∧ t.dies = s.dies ∧ t.dram = s.dram)
      ∧ (freeWaits s asid a = false → a.leaving ≠ [] → (∃ p ∈ a.leaving, leavingDone s p = false) →
        ∃ t, exec (.free slot req) s = .next t ∧ FreePends s t slot asid (reqField req 16 8) ∧ t.cores = s.cores
          ∧ t.dies = s.dies ∧ t.dram = s.dram)
      ∧ (freeWaits s asid a = false → a.leaving ≠ [] → (∀ p ∈ a.leaving, leavingDone s p = true) →
        ∃ t, exec (.free slot req) s = .next t ∧ Answered s t slot ∧ (∀ k, OnlySeen (getCore s k) (getCore t k))
          ∧ ∀ b ∈ (getSpace t asid).allocs, b.va ≠ reqField req 16 8)
      ∧ (freeWaits s asid a = false → a.leaving = [] → accessesOf s asid = [] → flightsOf s asid = [] →
        ∃ t, exec (.free slot req) s = .next t ∧ Answered s t slot ∧ (∀ k, OnlySeen (getCore s k) (getCore t k))
          ∧ ∀ b ∈ (getSpace t asid).allocs, b.va ≠ reqField req 16 8)
      ∧ (∀ (p : Nat) (l : Leaf), freeWaits s asid a = false → a.leaving = [] → allocPages a = [p] →
        walk s (getSpace s asid).root p = .leaf l → (∃ i ∈ accessesOf s asid, accessPending s i = true) →
        ∃ t, exec (.free slot req) s = .next t ∧ FreePends s t slot asid (reqField req 16 8)
          ∧ ∀ d, d < 8 → ∀ e ∈ (getDie t d).tlb, ¬(e.asid = asid ∧ e.page = l.page)))
    ∧ (WellAddressed 7 req → reqField req 8 2 ≠ 0 → reqField req 10 2 ≠ 0xFFFF → spaceExists s (reqField req 8 2) = true →
      (reqField req 14 1 = 0 →
        ∃ t, exec (.peerbind slot req) s = .next t ∧ Answered s t slot
          ∧ KMap.get .none t.peers (reqField req 8 2 * 65536 + reqField req 10 2) = .some (reqField req 12 2)
          ∧ ∀ k, k ≠ reqField req 8 2 * 65536 + reqField req 10 2 → KMap.get .none t.peers k = KMap.get .none s.peers k)
      ∧ (reqField req 14 1 = 1 → KMap.get .none s.peers (reqField req 8 2 * 65536 + reqField req 10 2) ≠ .none →
        ∃ t, exec (.peerbind slot req) s = .next t ∧ Answered s t slot
          ∧ KMap.get .none t.peers (reqField req 8 2 * 65536 + reqField req 10 2) = .none
          ∧ ∀ k, k ≠ reqField req 8 2 * 65536 + reqField req 10 2 → KMap.get .none t.peers k = KMap.get .none s.peers k)
      ∧ (reqField req 14 1 = 1 → KMap.get .none s.peers (reqField req 8 2 * 65536 + reqField req 10 2) = .none →
        ∃ t, exec (.peerbind slot req) s = .next t ∧ Refused s t slot 5 ∧ t.peers = s.peers))

/-- R394, R390, R400: a host write through BAR4 changes the bytes it names at their home slices and no others; a host read
returns the bytes there; REPRD takes the value written; an SPDM request for a measurement returns the SHA3-512 digest of
what it covers (2: the active firmware image as flash holds it), signed with the attestation key that the boot derived (how
the values are laid out for hashing, the derivation and the signature are left open: log entry 9). -/
def Obligations.HostWindow : Prop :=
  (∀ (s : State) (offset : Nat) (bytes : List Byte), Coherent s →
    (∀ i, i < bytes.length → populated (offset + i) = true) →
    ∃ t, exec (.hostMemoryWrite offset bytes) s = .next t ∧ Stored s t ⟨false, offset⟩ bytes)
  ∧ (∀ (s : State) (offset size : Nat), (∀ i, i < size → populated (offset + i) = true) →
    ∃ t, exec (.hostMemoryRead offset size) s = .next t
      ∧ t.host.reads = s.host.reads ++ [physBytes s ⟨false, offset⟩ size] ∧ t.cores = s.cores ∧ SameBytes s t)
  ∧ (∀ (s : State) (v : Word), ∃ t, exec (.reprd v) s = .next t ∧ t.host.repRd = v ∧ t.host.repWr = s.host.repWr
    ∧ t.cores = s.cores ∧ SameBytes s t)
  ∧ (∀ (s : State) (index : Nat) (d : BitVec 512), 1 ≤ index → index ≤ 5 →
    d = BitVec.ofNat 512 (ofLeBytes (sha3 (measured s index))) →
    measured s 2 = flashBytes (if s.fw.slotB then s.fw.imageB else s.fw.imageA)
      ∧ ∃ t, exec (.spdmRequest index) s = .next t
        ∧ t.host.spdm = s.host.spdm ++ [(index, d, Config.sign s.fw.attKey d)] ∧ t.cores = s.cores)

/-! ## Firmware, refresh, temperature, power -/

/-- R388, R389, R391: a mismatch freezes a complex that runs or is in a live update, for at most 20 ms, and for good where the
last restart is less than a second ago; the freeze of a mismatch ends, and one of an update goes on to the check of the
image, once every context stands, which outside a wait or a fault is in loose code between two words, or after 20 ms; the
mismatch is then reported and dispatch resumes. An image is accepted where the public key is the one whose digest is fused,
the header's signature of 4,627 bytes verifies under it by ML-DSA-87, the header's digest and length are the body's, and
its SVN is no lower than the fused minimum (how the header's fields are laid out for the signature is left open: log entry
9); an update whose image is not accepted, or not compatible, is reported, and the old image resumes; else the old image
writes its handover structure, and waits 50 ms from the new one's start for its heartbeat, which makes that the active slot
and lets it run with what was handed over; without it the old image takes it back and goes on, and the host is told. (What
the structure holds is the model's choice, log entry 91. How long a freeze lasts, from when the second counts, and what
ends a freeze that a context keeps up, are the model's choices, log entries 47 and 110.) -/
def Obligations.FirmwareComplex : Prop :=
  (∀ (s : State) (fn : Nat),
    s.fw.complex = .running ∨ (∃ i l, s.fw.complex = .checking i l) ∨ (∃ i u, s.fw.complex = .updating i u) →
    ((∀ u, s.fw.lastRestart = some u → u + 1500000000 ≤ tempoNow s) →
      ∃ t v, exec (.lockstepMismatch fn) s = .next t ∧ t.fw.complex = .frozen v (tempoNow s + 30000000) fn
        ∧ tempoNow s < v ∧ v ≤ tempoNow s + 30000000 ∧ t.cores = s.cores)
    ∧ (∀ u, s.fw.lastRestart = some u → tempoNow s < u + 1500000000 →
      ∃ t, exec (.lockstepMismatch fn) s = .next t ∧ t.fw.complex = .locked ∧ t.cores = s.cores))
  ∧ (∀ (s : State) (v limit fn : Nat), s.fw.complex = .frozen v limit fn → QuietCycle s → s.fw.held = [] →
    ∃ t, exec .coreClockCycle s = .next t
      ∧ (((v ≤ tempoNow t ∧ allStand t = true) ∨ limit ≤ tempoNow t) → t.fw.complex = .running
        ∧ t.fw.lastRestart = some (tempoNow t) ∧ (reportRoom s → Reported s t 4 fn))
      ∧ (limit > tempoNow t → (tempoNow t < v ∨ allStand t = false) →
        t.fw.complex = .frozen v limit fn ∧ t.host = s.host))
  ∧ (∀ s : State, allStand s = true → ∀ k, k < 128 → (getCore s k).resident = true → (getCore s k).ctx.inShadow = false →
    (getCore s k).ctx.seg.phase = .loose ∧ (getCore s k).hold = .none ∧ (getCore s k).events = [])
  ∧ (∀ (f : Firmware) (i : Image), imageOk f i = true ↔
    BitVec.ofNat 512 (ofLeBytes (sha3 f.key)) = f.keyDigest ∧ mldsaVerify f.key (headerBytes i) i.signature = true
      ∧ i.bodyDigest = BitVec.ofNat 512 (ofLeBytes (sha3 i.body)) ∧ i.bodyLength = i.body.length ∧ f.minSvn ≤ i.svn)
  ∧ (∀ (k : List Byte) (m sig : List Byte), sig.length ≠ 4627 → mldsaVerify k m sig = false)
  ∧ (∀ (s : State) (image : Image), s.fw.complex = .running →
    ∃ t, exec (.liveUpdate image) s = .next t ∧ t.fw.slotB = s.fw.slotB ∧ t.cores = s.cores ∧ t.host = s.host
      ∧ (if s.fw.slotB then t.fw.imageA else t.fw.imageB) = image ∧ activeImage t.fw = activeImage s.fw
      ∧ t.fw.complex = .checking image (tempoNow s + 30000000))
  ∧ (∀ (s : State) (image : Image) (limit : Nat), s.fw.complex = .checking image limit → QuietCycle s → s.fw.held = [] →
    ∃ t, exec .coreClockCycle s = .next t ∧ t.fw.slotB = s.fw.slotB
      ∧ (allStand t = false → tempoNow t < limit → t.fw.complex = .checking image limit ∧ t.host = s.host)
      ∧ ((allStand t = true ∨ limit ≤ tempoNow t) →
        if imageOk s.fw image = false then t.fw.complex = .running ∧ (reportRoom s → Reported s t 5 1)
        else if (activeImage s.fw).version < image.oldest ∨ image.version < (activeImage s.fw).version then
          t.fw.complex = .running ∧ (reportRoom s → Reported s t 5 2)
        else t.fw.complex = .updating image (tempoNow t + 75000000) ∧ t.host = s.host
          ∧ t.fw.handover = some ⟨(activeImage s.fw).version, s.fw.fns, s.fw.cap, s.fw.limits, s.fw.nextTask, s.fw.nextTest,
            s.fw.turn⟩))
  ∧ (∀ (s : State) (image : Image) (u : Nat), s.fw.complex = .updating image u → reportRoom s →
    (∃ t, exec .heartbeat s = .next t ∧ t.fw.complex = .running ∧ t.fw.slotB = !s.fw.slotB ∧ Reported s t 5 0
      ∧ t.fw.handover = none ∧ t.cores = s.cores
      ∧ ∀ h, s.fw.handover = some h → t.fw.fns = h.fns ∧ t.fw.cap = h.cap ∧ t.fw.limits = h.limits ∧ t.fw.nextTask = h.nextTask)
    ∧ (u ≤ tempoNow s →
      ∃ t, exec .heartbeatMissed s = .next t ∧ t.fw.complex = .running ∧ t.fw.slotB = s.fw.slotB ∧ Reported s t 5 3
        ∧ t.cores = s.cores
        ∧ ∀ h, s.fw.handover = some h → t.fw.fns = h.fns ∧ t.fw.cap = h.cap ∧ t.fw.limits = h.limits ∧ t.fw.nextTask = h.nextTask))

/-- R252, R254: a burst moves its die to the next bank, or after bank 511 to the next slot 131,072 cycles on; in an extra
slot of a hot stack that keeps the normal cadence it is postponed, and a ninth postponement is the deadline; bursts that
no running segment holds up are issued and the doubled cadence begins; a stack turns hot at 85 °C and normal again at
80 °C. (That a burst of an extra slot alone is postponed, and that the deadline comes with the ninth, are the model's
reading, log entry 43; so is what a segment that has not been released does when a stack turns hot, log entry 29.) -/
def Obligations.RefreshAndTemperature : Prop :=
  (∀ (s : State) (d bank : Nat), ∃ t, exec (.refreshBurst d bank) s = .next t ∧ t.cores = s.cores
    ∧ ((getDie s d).burstBank < 511 →
        (getDie t d).burstBank = (getDie s d).burstBank + 1 ∧ (getDie t d).burstAt = (getDie s d).burstAt)
    ∧ (511 ≤ (getDie s d).burstBank →
        (getDie t d).burstBank = 0 ∧ (getDie t d).burstAt = (getDie s d).burstAt + 131072)
    ∧ ((getDie s d).hot = true → (getDie s d).doubled = false → (getDie s d).burstAt / 131072 % 2 = 1 →
        KMap.get 0 (getDie s d).postponed bank < 8 →
        KMap.get 0 (getDie t d).postponed bank = KMap.get 0 (getDie s d).postponed bank + 1)
    ∧ ((getDie s d).hot = true → (getDie s d).doubled = false → (getDie s d).burstAt / 131072 % 2 = 1 →
        8 ≤ KMap.get 0 (getDie s d).postponed bank → (getDie t d).deadline = true)
    ∧ ∀ e, e ≠ d → getDie t e = getDie s e)
  ∧ (∀ s : State, ∃ t, exec .postponedBurstsIssued s = .next t ∧ t.cores = s.cores ∧ ∀ d, d < 8 →
      burstsReleased s d = true → (getDie t d).doubled = true ∧ (getDie t d).postponed = [])
  ∧ (∀ (s : State) (d : Nat) (c : Int), d < 8 → ∃ t, exec (.temperatureCrossing d c) s = .next t
    ∧ (getDie t d).celsius = c
    ∧ (getDie t d).hot = (if 85 ≤ c then true else if c ≤ 80 then false else (getDie s d).hot)
    ∧ ∀ e, e ≠ d → (getDie t e).hot = (getDie s e).hot)
  ∧ (∀ s : State, curDie s < 8 → ∃ t, exec .refreshDeadline s = .next t ∧ (getDie t (curDie s)).doubled = true
    ∧ (getDie t (curDie s)).deadline = false ∧ (getDie t (curDie s)).postponed = []
    ∧ ∀ k, k < 128 → (getCore s k).resident = true →
        ((getCore s k).ctx.seg.phase = .running ∨ (getCore s k).ctx.seg.phase = .closing) →
        bitAt (getCore s k).ctx.latched (curDie s) = false →
        ∃ e ∈ (getCore t k).events, e.code = 0x47)

/-- R14, R17, R125, R309, R389, R410, R411, R412: the firmware recalibrates an aperture whose holder, if any, stands at a point,
which puts a new calibration in force, counts in EPOCH and sets TREF, and waits for the next point where it stands at none; a fold map changes only on a core
with no context, to plies that have passed their test, and a core with no live ply leaves service; a ply
at its junction limit is counted on each core of its die; a tenth millisecond above the power cap asks the contexts of
lowest priority to leave; the thermal trip removes power; a package reset gives every core and die its reset state, with
the plies that passed their test as they were, and live; it keeps the images in flash, what is fused and host memory, boots
only an active image that is accepted, and derives the attestation key. (That a core whose map has no live ply leaves service is the
model's reading, log entry 60; the reset state's values where the spec gives none, and what device memory then reads as, are
its choice, log entries 11 and 2.) -/
def Obligations.PowerAndReset : Prop :=
  (∀ (s : State) (a : Nat), recalAllowed s a = true → ∃ t, exec (.firmwareRecalibration a) s = .next t
    ∧ (getAperture t a).epoch = (getAperture s a).epoch + 1 ∧ (getAperture t a).granted = 0
    ∧ (getAperture t a).recal = false ∧ (getAperture t a).tref = (getAperture s a).temp
    ∧ (getAperture t a).own = (getAperture s a).own + 1 ∧ (getAperture t a).lent = none
    ∧ ∀ k, (getCore t k).ctx = (getCore s k).ctx)
  ∧ (∀ (s : State) (a : Nat), recalAllowed s a = false → (getAperture s a).cal = none →
    ∃ t, exec (.firmwareRecalibration a) s = .next t ∧ (getAperture t a).recal = true
      ∧ (getAperture t a).epoch = (getAperture s a).epoch ∧ t.cores = s.cores)
  ∧ (∀ (s : State) (k : Nat) (cls : BitVec 8) (live : Nat), (getCore s k).resident = false →
    live = liveOf (cls &&& (getDie s (k / 16)).plymask.setWidth 8) →
    (live ≠ 0 → ∃ t, exec (.foldMapChange k cls) s = .next t ∧ (getCore t k).inService = true
      ∧ (getCore t k).fold = foldClassOf live (halfOf cls) ∧ ∀ j, j ≠ k → getCore t j = getCore s j)
    ∧ (live = 0 → ∃ t, exec (.foldMapChange k cls) s = .next t ∧ (getCore t k).inService = false
      ∧ (getCore t k).fold = (getCore s k).fold))
  ∧ (∀ (s : State) (k : Nat) (cls : BitVec 8), (getCore s k).resident = true →
    ∃ t, exec (.foldMapChange k cls) s = .next t ∧ ∀ j, getCore t j = getCore s j)
  ∧ (∀ (s : State) (d ply : Nat), ply < 4 → ∃ t, exec (.logicPlyJunctionLimit d ply) s = .next t
    ∧ (∀ i, i < 16 → (getCore t (16 * d + i)).hotPlies = (getCore s (16 * d + i)).hotPlies ||| BitVec.ofNat 4 (2 ^ ply)
      ∧ (getCore t (16 * d + i)).fold = (getCore s (16 * d + i)).fold)
    ∧ ∀ k, (∀ i, i < 16 → k ≠ 16 * d + i) → getCore t k = getCore s k)
  ∧ (∀ (s : State) (mw : Nat),
    (s.fw.cap * 1000 < mw → s.fw.overMs < 9 → ∃ t, exec (.powerCapExceeded mw) s = .next t
      ∧ t.fw.overMs = s.fw.overMs + 1 ∧ t.cores = s.cores)
    ∧ (mw ≤ s.fw.cap * 1000 → ∃ t, exec (.powerCapExceeded mw) s = .next t ∧ t.fw.overMs = 0 ∧ t.cores = s.cores)
    ∧ (s.fw.cap * 1000 < mw → 9 ≤ s.fw.overMs → ∃ t, exec (.powerCapExceeded mw) s = .next t ∧ t.fw.overMs = 0
      ∧ ∀ k, k < 128 → (getCore s k).resident = true → (getCore s k).ctx.prio.toNat = lowestPriority s →
        (getCore t k).preempt = true))
  ∧ (∀ s : State, ∃ t, exec .thermalTrip s = .next t ∧ t.powered = false ∧ t.host.up = false ∧ t.cores = s.cores)
  ∧ (∀ s : State, ∃ t, exec .packageReset s = .next t ∧ t.tempo = 0
    ∧ (∀ k, k < 128 → getCore t k = { Core.reset with
        fold := foldClassOf (getDie s (k / 16)).plymask.toNat 0, inService := decide ((getDie s (k / 16)).plymask ≠ 0) })
    ∧ (∀ d, d < 8 → getDie t d = { Die.reset with plymask := (getDie s d).plymask }) ∧ t.pkg = 0xFFFF ∧ t.domain = 0 ∧ t.feat0 = 0 ∧ t.feat1 = 0 ∧ t.tasks = []
    ∧ t.rings = [] ∧ t.spaces = [] ∧ t.conns = [] ∧ t.powered = true ∧ t.fw.bringUp = .negotiate
    ∧ t.fw.slotB = s.fw.slotB ∧ t.fw.imageA = s.fw.imageA ∧ t.fw.imageB = s.fw.imageB ∧ t.fw.minSvn = s.fw.minSvn
    ∧ t.fw.secret = s.fw.secret ∧ t.fw.keyDigest = s.fw.keyDigest ∧ t.fw.key = s.fw.key ∧ t.fw.bootCode = s.fw.bootCode
    ∧ t.fw.complex = (if imageOk s.fw (activeImage s.fw) then .running else .locked)
    ∧ t.fw.attKey = Config.deriveKey s.fw.secret (BitVec.ofNat 512 (ofLeBytes (sha3 (flashBytes (activeImage s.fw)))))
    ∧ t.hostMem = s.hostMem)

/-! ## The memory manager and the transport -/

/-- R236, R247, R250, R365: an answer puts STATUS and then DONE := SEQ into the core's mailbox window and changes no other
byte; RESOLVE of a request whose operation is 1 answers STATUS 0 where its page is present, or keeps
one that an eviction is taking out, whose leaf entry is written again (the model's choice, log entry 84), or brings an
evicted one back with the bytes of its host page, and 1 where no place
is found for it; one in no allocation answers 2, and so does one of an allocation that a begun FREE is taking away (the
model's choice, log entry 90); any other operation answers 3; ABANDON ends the task of a resident core before its answer;
the eviction of an unpinned device page leaves no translation of it in any die's cache at once, and, once nothing that had
translated through it is on its way (which accesses those are is the model's reading, log entry 54), copies its bytes to
the host page and records that page with the allocation. -/
def Obligations.MemoryManager : Prop :=
  (∀ (s : State) (k : Nat) (choice : AllocChoice),
    (bitsAt (mailWord s k 0) 0 8 ≠ 1 →
      exec (.resolve k choice) s = .next (mailAnswer k 3 (dropMail k s)))
    ∧ (bitsAt (mailWord s k 0) 0 8 = 1 → allocOf s (getCore s k).ctx.asid (mailWord s k 8).toNat = none →
      exec (.resolve k choice) s = .next (mailAnswer k 2 (dropMail k s)))
    ∧ (∀ (a : Alloc) (asid page : Nat), bitsAt (mailWord s k 0) 0 8 = 1 → asid = (getCore s k).ctx.asid →
      allocOf s asid (mailWord s k 8).toNat = some a →
      page = (mailWord s k 8).toNat / allocPageSize a.flags * allocPageSize a.flags →
      (a.freeing ≠ none → exec (.resolve k choice) s = .next (mailAnswer k 2 (dropMail k s)))
      ∧ (a.freeing = none → (∀ p ∈ a.leaving, p.page ≠ page) → (∀ e ∈ a.evicted, e.1 ≠ page) →
        exec (.resolve k choice) s = .next (mailAnswer k 0 (dropMail k s)))
      ∧ (∀ p, a.freeing = none → a.leaving.find? (fun p => p.page == page) = some p →
        exec (.resolve k choice) s = .next (mailAnswer k 0 (keepPage asid a p (dropMail k s))))
      ∧ (∀ e, a.freeing = none → (∀ p ∈ a.leaving, p.page ≠ page) → a.evicted.find? (fun e => e.1 == page) = some e →
        (∀ u, bringBack asid a page e.2 choice (dropMail k s) = some u →
          exec (.resolve k choice) s = .next (mailAnswer k 0 u))
        ∧ (bringBack asid a page e.2 choice (dropMail k s) = none →
          exec (.resolve k choice) s = .next (mailAnswer k 1 (dropMail k s))))))
  ∧ (∀ (s : State) (k status : Nat), (∀ j, OnlySeen (getCore s j) (getCore (mailAnswer k status s) j))
    ∧ (mailAnswer k status s).tasks = s.tasks ∧ (mailAnswer k status s).mailbox = s.mailbox)
  ∧ (∀ (s : State) (k status w : Nat), k < 128 → Coherent s → w = mailboxAt k →
    (∀ off, off < 64 → findTlb s (k / 16) 0 (0x01FFFFFF00000000 + 0x10000 * (k / 16) + 0x40 * (k % 16) + off) = none) →
    (∀ i, i < 8 → physByte (mailAnswer k status s) ⟨false, w + 32 + i⟩ = byteOf (BitVec.ofNat 64 status) i
      ∧ physByte (mailAnswer k status s) ⟨false, w + 24 + i⟩ = physByte s ⟨false, w + 16 + i⟩)
    ∧ ∀ q : Phys, (q.host = false → q.pa < w + 24 ∨ w + 40 ≤ q.pa) → physByte (mailAnswer k status s) q = physByte s q)
  ∧ (∀ (s : State) (asid e : Nat) (a : Alloc) (p : Leaving), e = leafEntryAt s asid p.page (bitsAt a.flags 9 2) →
    Coherent s →
    (populated e = true → (∀ i, i < 8 → physByte (keepPage asid a p s) ⟨false, e + i⟩ = byteOf p.pte i)
      ∧ ∀ q : Phys, (q.host = false → q.pa < e ∨ e + 8 ≤ q.pa) → physByte (keepPage asid a p s) q = physByte s q)
    ∧ ∀ b ∈ (getSpace s asid).allocs, b.va = a.va →
      { b with leaving := b.leaving.erase p } ∈ (getSpace (keepPage asid a p s) asid).allocs)
  ∧ (∀ (s u v : State) (asid page host z place : Nat) (a : Alloc) (choice : AllocChoice) (l : Leaf),
    bringBack asid a page host choice s = some u → Coherent s → bitsAt a.flags 0 4 ≤ 1 → z = allocPageSize a.flags →
    place = choice.pages.headD 0 →
    mapPages asid a.flags [(page, place)] (choice.tables.map fun o => choice.tableDie * 2 ^ 36 + o) s = some v →
    (∀ b ∈ (getSpace u asid).allocs, b.va = a.va → ∀ e ∈ b.evicted, e.1 ≠ page)
    ∧ (walk v (getSpace v asid).root page = .leaf l → l.page = page → l.size = z →
      (∀ i, i < z → (leafPhys l (page + i)).host = false ∧ populated (leafPhys l (page + i)).pa = true) →
      ∀ i, i < z → physByte u (leafPhys l (page + i)) = KMap.get 0 s.hostMem (host + i)))
  ∧ (∀ s : State, s.cur < 128 → (curCore s).resident = true →
    ∃ t, exec .abandon s = .next t ∧ (getTask t (curCtx s).task).life = .aborted ∧ (curCore t).resident = false
      ∧ ((∀ k, (getCore s k).pend = []) → t.mailbox = s.mailbox.erase s.cur))
  ∧ (∀ (s : State) (asid va host page z : Nat) (a : Alloc) (l : Leaf),
    allocOf s asid va = some a → z = allocPageSize a.flags → page = va / z * z → evictable a page = true → host % z = 0 →
    walk s (getSpace s asid).root page = .leaf l → l.page = page → l.size = z →
    (accessesOf s asid = [] → flightsOf s asid = [] → Coherent s →
      ∃ t, exec (.pageEviction asid va host) s = .next t ∧ (∀ k, OnlySeen (getCore s k) (getCore t k))
        ∧ (∀ i, i < z → KMap.get 0 t.hostMem (host + i)
          = physByte (setLeaf asid page (bitsAt a.flags 9 2) 0 s) (leafPhys l (page + i)))
        ∧ (∃ b ∈ (getSpace t asid).allocs, b.va = a.va ∧ (page, host) ∈ b.evicted)
        ∧ ∀ d, d < 8 → ∀ e ∈ (getDie t d).tlb, ¬(e.asid = asid ∧ e.page = page))
    ∧ ((∃ i ∈ accessesOf s asid, accessPending s i = true) →
      ∃ t, exec (.pageEviction asid va host) s = .next t ∧ t.hostMem = s.hostMem
        ∧ (∃ b ∈ (getSpace t asid).allocs, b.va = a.va ∧ ∃ p ∈ b.leaving, p.page = page ∧ p.host = some host)
        ∧ ∀ d, d < 8 → ∀ e ∈ (getDie t d).tlb, ¬(e.asid = asid ∧ e.page = page)))

/-- R404 to R407: a frame for another address does nothing; one that fails a check (CHK is the CRC-32C of its header and
payload), or of another type than its event, is dropped and counted, and does nothing else; a DATA frame in sequence
executes its operation and the next number is expected, and one ahead of a gap executes nothing yet; WRITE's rows stand at
their places, of two that meet the later, READREQ's rows go back, READRESP's fill the runs of the pull, which lands with the
last, DONE lands the push, WAKE wakes its ring; the frame with the last
rows of a push is answered with DONE where every row of the command has performed, and with nothing where one has not; an ACK drops the copies
it passes; a NAK has the frame it names sent again; a PROBE is answered on the port it came by with a PROBEACK, which brings
its port into the stripe. -/
def Obligations.FramesResult : Prop :=
  (∀ (s : State) (i : Instr) (f : Frame) (type : Nat),
    ((i = .write f ∨ i = .readreq f ∨ i = .readresp f ∨ i = .wake f ∨ i = .done f) ∧ type = 1)
      ∨ (i = .ack f ∧ type = 2) ∨ (i = .nak f ∧ type = 3) ∨ (i = .probe f ∧ type = 4) ∨ (i = .probeack f ∧ type = 5) →
    (frameMine s f = false → exec i s = .next s)
    ∧ (frameMine s f = true → (frameOk s f = false ∨ f.type ≠ type) →
      ∃ t, exec i s = .next t ∧ t.fw.framesDropped = s.fw.framesDropped + 1 ∧ t.cores = s.cores ∧ t.conns = s.conns
        ∧ t.dram = s.dram ∧ t.sent = s.sent))
  ∧ (∀ (s : State) (f : Frame), f.chk ≠ frameChk f → frameOk s f = false)
  ∧ (∀ (s : State) (i : Instr) (f : Frame) (op : Nat),
    (i = .write f ∧ op = 1) ∨ (i = .readreq f ∧ op = 2) ∨ (i = .readresp f ∧ op = 3) ∨ (i = .wake f ∧ op = 4)
      ∨ (i = .done f ∧ op = 5) →
    frameMine s f = true → frameOk s f = true → f.type = 1 →
    (f.psn = (getConn s f.srcPkg).rxNext → f.psn < 2 ^ 32 → (getConn s f.srcPkg).ahead = [] →
      ∃ t u, exec i s = .next t ∧ u = doFrame { f with op := op } (enterStripe f.srcPkg f.via (takeAck f.srcPkg f.ackPsn (heardOn f s)))
        ∧ t.dram = u.dram ∧ t.dies = u.dies ∧ t.cores = u.cores ∧ t.rings = u.rings ∧ t.tasks = u.tasks
        ∧ (getConn t f.srcPkg).rxNext = (f.psn + 1) % 2 ^ 32)
    ∧ (0 < psnAhead f.psn (getConn s f.srcPkg).rxNext → psnAhead f.psn (getConn s f.srcPkg).rxNext < 4096 →
      ∃ t, exec i s = .next t ∧ t.dram = s.dram ∧ t.dies = s.dies ∧ t.cores = s.cores ∧ t.rings = s.rings
        ∧ (getConn t f.srcPkg).rxNext = (getConn s f.srcPkg).rxNext))
  ∧ (∀ (s : State) (f : Frame), 0 < f.nRows →
    (rowsTranslate s f = true → f.firstRow + f.nRows = f.totalRows →
      (f.firstRow = 0 ∨ (f.srcCore, f.cmdId) ∉ (getConn s f.srcPkg).lost) →
      ∃ g ∈ (getConn (doWrite f s) f.srcPkg).unacked, g.op = 5 ∧ g.srcCore = f.srcCore ∧ g.cmdId = f.cmdId)
    ∧ ((rowsTranslate s f = false ∨ (f.firstRow ≠ 0 ∧ (f.srcCore, f.cmdId) ∈ (getConn s f.srcPkg).lost)) →
      (doWrite f s).sent = s.sent ∧ (getConn (doWrite f s) f.srcPkg).unacked = (getConn s f.srcPkg).unacked)
    ∧ (rowsTranslate s f = false → (doWrite f s).dram = s.dram ∧ (doWrite f s).hostMem = s.hostMem))
  ∧ (∀ (s : State) (f : Frame), Coherent s → 0 < f.nRows → 0 < f.rowBytes → f.data.length = f.nRows * f.rowBytes →
    rowsTranslate s f = true →
    (∀ r ∈ pushedParts f, ∃ p, translate s 0 f.asid r.1 true = .ok p true ∧ p.pa % 64 = r.1 % 64) →
    ∀ q, physByte (doFrame { f with op := 1 } s) q = (partByte s 0 f.asid (pushedParts f) q).getD (physByte s q))
  ∧ (∀ (s : State) (f : Frame), 0 < f.rowBytes →
    (∀ i, i < f.totalRows →
      rangeFault s 0 f.asid false (f.rowBytes / 4096 + 2) (frameRowAt f i) f.rowBytes = none) →
    (∀ q, physByte (doFrame { f with op := 2 } s) q = physByte s q)
    ∧ ∀ r, r < f.totalRows → ∃ g ∈ (getConn (doFrame { f with op := 2 } s) f.srcPkg).unacked, g.type = 1 ∧ g.op = 3
      ∧ g.srcCore = f.srcCore ∧ g.cmdId = f.cmdId ∧ g.rowBytes = f.rowBytes ∧ g.totalRows = f.totalRows
      ∧ g.firstRow ≤ r ∧ r < g.firstRow + g.nRows
      ∧ (g.data.drop ((r - g.firstRow) * f.rowBytes)).take f.rowBytes = (readVa s 0 f.asid (frameRowAt f r) f.rowBytes).1)
  ∧ (∀ (s : State) (f : Frame) (g : Flight) (cp : Copy), Answers s f g cp →
    (cp.poison.length = cp.runs.length →
      ∃ h cq, (getCore (doFrame { f with op := 3 } s) f.srcCore).flights = [h] ∧ h.kind = .copy cq ∧ h.seq = g.seq
        ∧ cq.runs.length = cp.runs.length
        ∧ (∀ n r, cp.runs[n]? = some r → cq.runs[n]? = some (if runComes f cp n then
            (r.1, (f.data.drop (runAt cp n - f.firstRow * f.rowBytes)).take r.2.length) else r))
        ∧ (∀ n b, cp.poison[n]? = some b → cq.poison[n]? = some (b && !runComes f cp n))
        ∧ h.due = if cq.poison.any id then g.due else (getCore s f.srcCore).ctime.toNat)
    ∧ (getCore (doFrame { f with op := 5 } s) f.srcCore).flights = [{ g with due := (getCore s f.srcCore).ctime.toNat }])
  ∧ (∀ (s : State) (f : Frame) (n : Nat), n = ofLeBytes (f.data.take 2) →
    ((getRing s n).live = true → (getRing s n).overrun = false →
      (getRing (doFrame { f with op := 4 } s) n).woken = true ∧ (doFrame { f with op := 4 } s).fw = s.fw)
    ∧ ((getRing s n).live = false → (doFrame { f with op := 4 } s).fw.wakesDropped = s.fw.wakesDropped + 1
      ∧ (doFrame { f with op := 4 } s).rings = s.rings))
  ∧ (∀ (s : State) (f : Frame), frameMine s f = true → frameOk s f = true →
    (f.type = 2 → ∃ t, exec (.ack f) s = .next t ∧ t.cores = s.cores ∧ t.dram = s.dram
      ∧ ∀ g ∈ (getConn t f.srcPkg).unacked, 2 ^ 31 ≤ psnAhead f.ackPsn (g.psn + 1))
    ∧ (f.type = 3 → (getConn s f.srcPkg).stripe ≠ [] →
      (∀ g ∈ (getConn s f.srcPkg).unacked, 2 ^ 31 ≤ psnAhead f.ackPsn (g.psn + 1)) →
      (∃ g ∈ (getConn s f.srcPkg).unacked, g.psn = f.nakPsn) →
      ∃ t g, exec (.nak f) s = .next t ∧ t.sent = s.sent ++ [g] ∧ g.psn = f.nakPsn ∧ t.cores = s.cores)
    ∧ (f.type = 4 → (getConn s f.srcPkg).unacked = [] →
      ∃ t g, exec (.probe f) s = .next t ∧ t.sent = s.sent ++ [g] ∧ g.type = 5 ∧ g.port = f.via ∧ g.dstPkg = f.srcPkg
        ∧ g.dst = macOf s.domain.toNat f.srcPkg f.via ∧ g.chk = frameChk g ∧ t.cores = s.cores)
    ∧ (f.type = 5 → ∃ t, exec (.probeack f) s = .next t ∧ f.via ∈ (getConn t f.srcPkg).stripe ∧ t.cores = s.cores))

/-- R406, R407, R403: the timers of a connection: a probe on every linked port to every bound peer each millisecond; a
silent port leaves the stripe, and with the last one the wakes that the connection kept are dropped and counted (that their
frames keep their numbers is the model's choice, log entry 85); a lost link leaves every stripe; an acknowledgement, a NAK
or a retransmission goes out when its interval has passed. -/
def Obligations.TransportTimers : Prop :=
  (∀ s : State, ∃ t, exec .probePeriod s = .next t ∧ t.nextProbe = tempoNow s + 1500000 ∧ t.cores = s.cores
    ∧ ∀ p ∈ boundPeers s, ∀ k, k < 4 → bitAt s.links k = true → ∃ g ∈ t.sent, g.type = 4 ∧ g.port = k ∧ g.dstPkg = p)
  ∧ (∀ (s : State) (pkg port : Nat), port ∈ (getConn s pkg).stripe →
    KMap.get 0 (getConn s pkg).heard port + 4500000 ≤ tempoNow s + 1 →
    ∃ t, exec (.stripeTimeout pkg port) s = .next t ∧ port ∉ (getConn t pkg).stripe ∧ t.cores = s.cores
      ∧ ((∃ q ∈ (getConn s pkg).stripe, q ≠ port) → (getConn t pkg).unacked = (getConn s pkg).unacked ∧ t.fw = s.fw)
      ∧ ((∀ q ∈ (getConn s pkg).stripe, q = port) →
        t.fw.wakesDropped = s.fw.wakesDropped + ((getConn s pkg).unacked.filter fun g => g.op == 4).length
          ∧ (∀ g ∈ (getConn t pkg).unacked, g.op ≠ 4)
          ∧ (getConn t pkg).unacked.map Frame.psn = (getConn s pkg).unacked.map Frame.psn))
  ∧ (∀ (s : State) (port : Nat), port < 4 → KMap.wf Conn.new s.conns = true →
    ∃ t, exec (.portLinkLoss port) s = .next t ∧ bitAt t.links port = false ∧ t.cores = s.cores
      ∧ ∀ e ∈ s.conns, port ∉ (getConn t e.1).stripe)
  ∧ (∀ (s : State) (p : Nat), KMap.wf Conn.new s.conns = true → (p, getConn s p) ∈ s.conns →
    (ackDue s (getConn s p) = true → ∃ t, exec .ackInterval s = .next t ∧ (getConn t p).sinceAck = 0
      ∧ t.cores = s.cores ∧ ∃ g ∈ t.sent, g.type = 2 ∧ g.dstPkg = p)
    ∧ (nakDue s (getConn s p) = true → ∃ t, exec .gapNak s = .next t ∧ (getConn t p).gapSince = some (tempoNow s)
      ∧ t.cores = s.cores ∧ ∃ g ∈ t.sent, g.type = 3 ∧ g.dstPkg = p ∧ g.nakPsn = (getConn s p).rxNext)
    ∧ (∀ f r, resendDue s (getConn s p) = true → (getConn s p).unacked = f :: r →
      ∃ t, exec .retransmitTimeout s = .next t ∧ (getConn t p).lastAdvance = tempoNow s ∧ t.cores = s.cores
        ∧ ∃ g ∈ t.sent, g.psn = f.psn))

/-! ## Events of a core -/

/-- R22, R23, R24, R43, R144, R207, R248, R249, R361, R362, R366: a cycle advances TEMPO by one, and core time on every core
that is not held (for cores with no event of this cycle to take and no abort to end, and no notification kept); a context over its priority's limit of
loose cycles aborts its task; a machine check is an event of its cycle; a copy that has not landed 2^20 cycles after its
start is cancelled with cause 0x0C; a hold that ends raises again what it kept, and performs again the access that waited:
one that translates joins the pending, one that does not raises its event with its word's address and waits again. A poison
consumption in a solo segment cancels the results of its window's issues and holds the core for 64 cycles and the window's
length; in the hold each issue of the window is performed again at its own cycle, its result landing its latency on; then
the core goes on, and only an accumulator that the window added into before it initialised it has no stated elements. (The
step by step course of the replay is the model's choice, log entry 42; what counts as initialising, log entry 77; that a
replay returns the chains and the drain queue to the marker is its reading, log entry 22, and so is what a hold keeps and
raises again, log entry 81. The replay's start is stated for a window that has no VAMO on its way, whose lanes perform
first: log entry 89.) -/
def Obligations.CyclesHoldsAndFailures : Prop :=
  (∀ s : State, QuietCycle s →
    ∃ t, exec .coreClockCycle s = .next t ∧ t.tempo = s.tempo + 1 ∧ t.cur = s.cur ∧ SameBytes s t
      ∧ ∀ k, k < 128 →
        (getCore t k).ctime = (if (getCore s k).hold = .none then (getCore s k).ctime + 1 else (getCore s k).ctime)
          ∧ (getCore t k).ctx = (getCore s k).ctx ∧ (getCore t k).hold = (getCore s k).hold)
  ∧ (∀ s : State, s.cur < 128 → (curCore s).resident = true →
    watchdogLimit s (curCtx s).prio.toNat < (curCore s).watchdog →
    ∃ t, exec .looseCodeWatchdog s = .next t ∧ TaskGone s t (curCtx s).task
      ∧ ((curCore s).events = [] → Told s t 1 (if (curCtx s).inShadow then 0x46 else 0x28))
      ∧ ((∃ e ∈ (curCore s).events, e.code = 0x45) → Told s t 1 0x45 ∧ (curCore t).inService = false))
  ∧ (∀ s : State, ∃ t, exec .machineCheck s = .next t ∧ OnlyFocus s t ∧ (curCtx t) = curCtx s
    ∧ ∃ e, (curCore t).events = (curCore s).events ++ [e] ∧ e.code = 0x45)
  ∧ (∀ (s : State) (f : Flight) (cp : Copy), (curCore s).flights = [f] → f.kind = .copy cp → isLoose cp.path = true →
    f.issued + 2 ^ 20 ≤ now s →
    ∃ t, exec .looseCopyOverrun s = .next t ∧ (curCore t).flights = [] ∧ ∃ e ∈ (curCore t).events, e.code = 0x0C)
  ∧ (∀ (s : State) (u : Nat), (curCore s).hold = .walk u → (curCore s).retry = [] →
    ∃ t, exec .walkCompletion s = .next t ∧ OnlyFocus s t
      ∧ curCore t = { curCore s with hold := .none, later := [], events := (curCore s).events ++ (curCore s).later })
  ∧ (∀ (s : State) (u : Nat) (a : Access) (pc : Word), (curCore s).hold = .walk u → (curCore s).retry = [.access a pc] →
    (∀ p, accessTr s a.va (accWrites a.kind) = .ok p true → p.host = false → s.oracle = [] →
      ∃ t, exec .walkCompletion s = .next t ∧ t = { s with cores := t.cores, dies := t.dies }
        ∧ (∀ k, k ≠ s.cur → getCore t k = getCore s k)
        ∧ (∀ d, getDie t d = { getDie s d with rdc := (getDie t d).rdc }) ∧ (accWrites a.kind = false → t.dies = s.dies)
        ∧ curCore t = { curCore s with
            hold := .none, retry := [], later := [], events := (curCore s).events ++ (curCore s).later
            pend := (curCore s).pend ++ [{ a with waits := waitsFor s a.cls (accWrites a.kind) a.shadow }] })
    ∧ (∀ p h, accessTr s a.va (accWrites a.kind) = .ok p h → p.host = true →
      ∃ t, exec .walkCompletion s = .next t ∧ OnlyFocus s t ∧ curCore t = { curCore s with
        hold := .none, retry := [], later := []
        events := (curCore s).events ++ [⟨0x2C, 0, 0, pc⟩] ++ (curCore s).later })
    ∧ (∀ code level, accessTr s a.va (accWrites a.kind) = .fault code level →
      ∃ t, exec .walkCompletion s = .next t ∧ OnlyFocus s t ∧ curCore t = { curCore s with
        hold := .none, later := []
        events := (curCore s).events ++ [⟨code, 0, transInfo level 0 a.va (accWrites a.kind), pc⟩] ++ (curCore s).later }))
  ∧ (∀ (s : State) (k : Nat) (e : Event), s.stimuli = [] → s.notes = [] → k < 128 →
    (∀ g ∈ (getCore s k).flights, sentLanes (getCore s k).ctx.seg.mark.m g = false) →
    (∀ j, j < 128 → (getCore s j).ctx.seg.phase ≠ .aborting ∧ (j ≠ k → (getCore s j).events = [])) →
    (getCore s k).events = [e] → e.code = 0x42 → (getCore s k).hold = .none → (getCore s k).ctx.seg.phase = .running →
    segGang (focus k s) = false → (getCore s k).ctx.seg.replayed = false →
    ∃ t, exec .coreClockCycle s = .next t ∧ t.tempo = s.tempo + 1 ∧ t.fw.replays = s.fw.replays + 1
      ∧ (getCore t k).hold = .replay (tempoNow s + 65
          + ((getCore s k).ctime.toNat - (getCore s k).ctx.seg.mark.m + 1))
      ∧ (getCore t k).flights = ((getCore s k).flights.filter fun f => !replayFlight (getCore s k).ctx.seg.mark.m f)
      ∧ (getCore t k).ctx.seg.replayIssues = (getCore s k).ctx.seg.hist
      ∧ (getCore t k).ctx.seg.replayAt = (getCore s k).ctx.seg.mark.m
      ∧ (getCore t k).ctx.seg.replayEnd = (getCore s k).ctime.toNat ∧ (getCore t k).ctx.seg.replayed = true
      ∧ (getCore t k).ctx.accSt = (getCore s k).ctx.seg.mark.accSt
      ∧ (getCore t k).ctx.foldrep = (getCore s k).ctx.seg.mark.foldrep
      ∧ (getCore t k).ctx.seg.chains = (getCore s k).ctx.seg.mark.chains
      ∧ (getCore t k).drain = (getCore s k).ctx.seg.mark.drain
      ∧ (getCore t k).ctx.main = (getCore s k).ctx.main ∧ (getCore t k).ctx.vregs = (getCore s k).ctx.vregs)
  ∧ (∀ (s : State) (u j lat : Nat) (x y : Issue) (pc : Word) (i : Instr) (f : Nat → Elem),
    (curCore s).hold = .replay u → (curCtx s).seg.replayAt = j → j ≤ (curCtx s).seg.replayEnd → j < 2 ^ 64 →
    (∀ g ∈ (curCore s).flights, replayFlight (replayFrom (curCtx s).seg) g = true → j < g.due) →
    (curCtx s).seg.replayIssues.filter (fun e => e.1 == j) = [(j, x, pc)] → y = quietIssue x → recordOf i = some y →
    recordInstr y = some i → y.nul = false → laneResult s i = some (lat, f) → (curCore s).vBad = [] →
    (curCore s).events = [] →
    ∃ t vals, exec .replayResume s = .next t ∧ LanesAre vals f
      ∧ (curCore t).flights
        = (curCore s).flights ++ [⟨j + lat, y.col, j, (curCore s).nextId, .vec (vecD y) vals noCount⟩]
      ∧ (curCtx t).seg.replayAt = j + 1 ∧ (curCore t).hold = .replay u ∧ (curCore t).ctime = (curCore s).ctime
      ∧ (curCore t).later = (curCore s).later ∧ (curCtx t).main = (curCtx s).main ∧ (curCtx t).vregs = (curCtx s).vregs
      ∧ (curCtx t).acc = (curCtx s).acc ∧ (curCtx t).seg.hist = (curCtx s).seg.hist ∧ SameBytes s t)
  ∧ (∀ (s : State) (u : Nat), (curCore s).hold = .replay u → (curCore s).resident = true →
    (curCtx s).seg.replayEnd < (curCtx s).seg.replayAt →
    (∀ g ∈ (curCore s).flights, replayFlight (replayFrom (curCtx s).seg) g = true → now s - 1 < g.due) →
    (curCore s).events = [] → (curCore s).retry = [] →
    (unpredictableAccs (curCtx s).seg.replayIssues = [] →
      ∃ t, exec .replayResume s = .next t ∧ OnlyFocus s t
        ∧ curCore t = { curCore s with hold := .none, later := [], events := (curCore s).later })
    ∧ ∃ t, exec .replayResume s = .next t ∧ (curCore t).hold = .none ∧ (curCore t).events = (curCore s).later
      ∧ (curCtx t).main = (curCtx s).main ∧ (curCtx t).vregs = (curCtx s).vregs ∧ SameBytes s t
      ∧ ∀ a m n, a ∉ unpredictableAccs (curCtx s).seg.replayIssues → a < 4 → m < 64 → n < 64 →
        accAt t a m n = accAt s a m n)

/-- R24, R35, R249, R254, R351, R352, R358: a translation fault of a solo segment holds the core after its cycle and
starts the handler with HOW 1, everything issued staying as it is. A cause that aborts a solo segment ends its issue: loads
in flight are cancelled, pending barrier arrivals dropped, and what else is on its way lands; then the accumulators that
the segment named as D are zero, registers and streams are as they were at release, vector registers and scratchpad keep
what was written, and the handler starts with HOW 2, its TRAPPC at the ALIGN word; after 0x47 the segment is released again
at once. A translation fault of a gang segment aborts it on every member in the same cycle, with 0x29 at the others, and
each waits for its new release when it has drained; the faulting member's handler starts with HOW 3. A second such fault
in the execution aborts the task. (That a gang member forwards its pre-release run again is the model's reading, log entry
41; and that what was waiting to be raised goes with an abort, log entry 38.) -/
def Obligations.AbortsAndHolds : Prop :=
  (∀ (s : State) (k : Nat) (e : Event), OneEvent s k e → (getCore s k).ctx.seg.phase = .running →
    bitAt (getCore s k).ctx.seg.hdr 136 = false → 0x10 ≤ e.code → e.code ≤ 0x14 → (getCore s k).ctx.handler ≠ 0 →
    ∃ t, exec .coreClockCycle s = .next t ∧ (getCore t k).hold = .handler ∧ (getCore t k).events = []
      ∧ (getCore t k).ctime = (getCore s k).ctime + 1 ∧ (getCore t k).flights = (getCore s k).flights
      ∧ (getCore t k).pend = (getCore s k).pend ∧ (getCore t k).retry = (getCore s k).retry
      ∧ (getCore t k).sp = (getCore s k).sp
      ∧ HandlerEntered (getCore s k).ctx (getCore t k).ctx k 1 e.code e.col
          ((getCore s k).ctime.toNat - (getCore s k).ctx.seg.start) e.info e.pc
      ∧ (getCore t k).ctx = { (getCore s k).ctx with
          inShadow := true, shadow := (getCore t k).ctx.shadow, trapCause := (getCore t k).ctx.trapCause
          trapPc := (getCore t k).ctx.trapPc, trapInfo := (getCore t k).ctx.trapInfo })
  ∧ (∀ (s : State) (k : Nat) (e : Event), OneEvent s k e → (getCore s k).ctx.seg.phase = .running →
    bitAt (getCore s k).ctx.seg.hdr 136 = false → e.code ∈ soloAborts →
    (∃ f ∈ (getCore s k).flights, loadFlight f = false) →
    ∃ t, exec .coreClockCycle s = .next t
      ∧ AbortBegun (getCore s k) (getCore t k) e ((getCore s k).ctime.toNat - (getCore s k).ctx.seg.start))
  ∧ (∀ (s : State) (k : Nat), Drained s k → bitAt (getCore s k).ctx.seg.hdr 136 = false →
    ((getCore s k).ctx.seg.ev.code ∈ soloAborts ∨ (getCore s k).ctx.seg.ev.code = 0x47) →
    (getCore s k).ctx.handler ≠ 0 →
    ∃ t, exec .coreClockCycle s = .next t ∧ AbortLeaves (getCore s k) (getCore t k)
      ∧ (getCore t k).ctx.main = { (getCore s k).ctx.seg.snap.regs with pc := (getCore s k).ctx.seg.alignPc }
      ∧ (getCore t k).ctx.lpass = (getCore s k).ctx.seg.snap.lpass ∧ (getCore t k).ctx.hz = (getCore s k).ctx.seg.snap.hz
      ∧ (getCore t k).ctx.seg = Seg.loose ∧ (getCore t k).ctx.segb = (getCore s k).ctx.segb
      ∧ (if (getCore s k).ctx.seg.ev.code = 0x47 then (getCore t k).ctx.inShadow = (getCore s k).ctx.inShadow
        else HandlerEntered (getCore s k).ctx (getCore t k).ctx k 2 (getCore s k).ctx.seg.ev.code
          (getCore s k).ctx.seg.ev.col (getCore s k).ctx.seg.evOffset (getCore s k).ctx.seg.ev.info
          (getCore s k).ctx.seg.alignPc))
  ∧ (∀ (s : State) (k : Nat) (e : Event), OneEvent s k e → (getCore s k).resident = true →
    (getCore s k).ctx.seg.phase = .running → bitAt (getCore s k).ctx.seg.hdr 136 = true → 0x10 ≤ e.code → e.code ≤ 0x14 →
    ((getCore s k).ctx.seg.transAborted = false →
      ∃ t, exec .coreClockCycle s = .next t ∧ ∀ j, j < 128 →
        (getCore s j).resident = true → (getCore s j).ctx.task = (getCore s k).ctx.task →
        ((getCore s j).ctx.seg.phase = .running ∨ (getCore s j).ctx.seg.phase = .closing) →
        bitAt (getCore s j).ctx.seg.hdr 136 = true →
        bitsAt (getCore s j).ctx.seg.hdr 144 12 = bitsAt (getCore s k).ctx.seg.hdr 144 12 →
        (∃ f ∈ (getCore s j).flights, loadFlight f = false) →
        AbortBegun (getCore s j) (getCore t j) (if j = k then e else { Event.none with code := 0x29 })
            (tempoNow s - (getCore s k).ctx.seg.gangT)
          ∧ (getCore t j).ctx.seg.transAborted = true)
    ∧ ((getCore s k).ctx.seg.transAborted = true → (getCore s k).ctx.inShadow = false →
      ∃ t, exec .coreClockCycle s = .next t ∧ TaskGone s t (getCore s k).ctx.task))
  ∧ (∀ (s : State) (k : Nat), Drained s k → bitAt (getCore s k).ctx.seg.hdr 136 = true →
    (getCore s k).ctx.seg.gangT = 0 → (getCore s k).ctx.handler ≠ 0 →
    ((0x10 ≤ (getCore s k).ctx.seg.ev.code ∧ (getCore s k).ctx.seg.ev.code ≤ 0x14)
      ∨ (getCore s k).ctx.seg.ev.code = 0x29) →
    ∃ t, exec .coreClockCycle s = .next t ∧ AbortLeaves (getCore s k) (getCore t k)
      ∧ (getCore t k).ctx.main.g = (getCore s k).ctx.seg.snap.regs.g
      ∧ (getCore t k).ctx.main.bt = (getCore s k).ctx.seg.snap.regs.bt
      ∧ (getCore t k).ctx.main.pc = (getCore s k).ctx.seg.bodyPc ∧ (getCore t k).ctx.seg.phase = .waiting
      ∧ (getCore t k).ctx.seg.hdr = (getCore s k).ctx.seg.hdr
      ∧ (if (getCore s k).ctx.seg.ev.code = 0x29 then (getCore t k).ctx.inShadow = (getCore s k).ctx.inShadow
        else HandlerEntered (getCore s k).ctx (getCore t k).ctx k 3 (getCore s k).ctx.seg.ev.code
          (getCore s k).ctx.seg.ev.col (getCore s k).ctx.seg.evOffset (getCore s k).ctx.seg.ev.info
          (getCore s k).ctx.seg.alignPc))

/-! ## Forwarding -/

/-- R60, R65, R37, R116, R38, R342: a record line of a segment that passes its checks enters its column's queue with its
slots applied, its stream snapshots, its first issue and its count of issues, and takes its line and one cycle; one that
fails a check raises that cause and enters nothing; one outside a segment traps. An unpatched record entry of a tape being
played enters the same way. -/
def Obligations.RecordForwards : Prop :=
  (∀ (s : State) (raw : Line) (a : Applied), (curCtx s).inShadow = false →
    ((curCtx s).seg.phase = .pre ∨ (curCtx s).seg.phase = .running) →
    a = applySlots (fun _ => true) (fun j => (curCtx s).main.read (slotReg raw j)) ⟨raw, 0, 0, 0⟩ →
    (forwardCause s a = none → (curCtx s).rec_ = false →
      ∃ t q, exec (.recordForward raw) s = .next t ∧ OnlyFocus s t ∧ RegsKept s t (pcOf s + 64) ∧ SameBytes s t
        ∧ nextIssue t = clk s + 1 ∧ (curCore t).queue = (curCore s).queue ++ [q]
        ∧ Queued s a (nullified (curCtx s) a.raw) q)
    ∧ (∀ code, forwardCause s a = some code →
      ∃ t e, exec (.recordForward raw) s = .next t ∧ OnlyFocus s t ∧ RegsKept s t (pcOf s) ∧ SameBytes s t
        ∧ (curCore t).queue = (curCore s).queue ∧ (curCore t).events = (curCore s).events ++ [e]
        ∧ e.code = code ∧ e.pc = pcOf s))
  ∧ (∀ (s : State) (raw : Line), LooseMain s → (curCtx s).handler ≠ 0 →
    ∃ t, exec (.recordForward raw) s = .next t ∧ Trapped s t 0x01 0 (pcOf s))
  ∧ (∀ (s : State) (e : TapeEntry), feedDue s = true →
    ((curCtx s).seg.phase = .pre ∨ (curCtx s).seg.phase = .running) →
    (curCore s).tape.entries[(curCore s).play.next]? = some e → e.bad = false → entryKind e = 1 →
    (∀ o, (curCore s).tape.entries[(curCore s).play.next + 1]? = some o → entryKind o ≠ 6) →
    (∀ j, j < 4 → patchSlot e.annex j = none) → forwardCause s ⟨e.payload, 0, 0, 0⟩ = none →
    ∃ t q, exec .playedForward s = .next t ∧ OnlyFocus s t ∧ RegsKept s t (pcOf s) ∧ SameBytes s t
      ∧ (curCore t).queue = (curCore s).queue ++ [q] ∧ Queued s ⟨e.payload, 0, 0, 0⟩ (bitAt e.annex 58) q
      ∧ (curCore t).play.next = (curCore s).play.next + 1)

/-! ## Issues of records -/

/-- R36, R37, R38, R63, R64, R361, R385: a nullified issue keeps its cycle and performs nothing, and so does every issue of
the record hint region; one that collides (two issues of a column in one cycle, or one before its column's spacing allows
it, that of the hint region's nullified issues too) performs nothing and raises 0x25; MARK changes nothing; the last issue
of a record with NT sets its column's flag, or with the last flag of the mask raises a notification. (That a colliding or
faulting issue has still taken its cycle is the model's reading, log entry 39.) -/
def Obligations.RecordIssues : Prop :=
  (∀ (s : State) (i : Instr) (x : Issue), recordOf i = some x → x.nul = true →
    collides (curCore s) x.col (spacingOf s i) = false →
    ∃ t, exec i s = .next t ∧ Issued (held s i) t x ∧ NoFlight s t)
  ∧ (∀ (s : State) (i : Instr) (x : Issue), recordOf i = some x → collides (curCore s) x.col (spacingOf s i) = true →
    ∃ t, exec i s = .next t ∧ OnlyFocus s t ∧ NoFlight s t ∧ SameBytes s t
      ∧ (curCore t).events = (curCore s).events ++ [⟨0x25, x.col, 0, issuePc (curCore s) x.seq⟩]
      ∧ (curCtx t).main = (curCtx s).main ∧ (curCtx t).vregs = (curCtx s).vregs ∧ (curCtx t).acc = (curCtx s).acc)
  ∧ (∀ (s : State) (x : Issue), Goes s (.mark x) x →
    ∃ t, exec (.mark x) s = .next t ∧ Issued s t x ∧ NoFlight s t
      ∧ (x.last = true → recNT x.raw = true →
        ((curCtx s).notifyMask = 0 →
          (curCtx t).notify = (curCtx s).notify ||| BitVec.ofNat 8 (2 ^ x.col) ∧ (curCtx t).seg.notes = (curCtx s).seg.notes)
        ∧ ((curCtx s).notifyMask ≠ 0 →
          ((curCtx s).notify ||| BitVec.ofNat 8 (2 ^ x.col)) &&& (curCtx s).notifyMask = (curCtx s).notifyMask →
          (curCtx t).notify = ((curCtx s).notify ||| BitVec.ofNat 8 (2 ^ x.col)) &&& ~~~(curCtx s).notifyMask
            ∧ (curCtx t).seg.notes = (curCtx s).seg.notes + 1)))

/-- R128, R130, R132, R135, R136, R139, R142: an issue of the matrix column reads its operands in its issue cycle and enters
the landing stage L cycles on: a pass with the 4,096 sums of its k-range in fold order, MLOAD with 1,024 elements exactly
widened, the others with nothing. -/
def Obligations.MatrixIssues : Prop :=
  ∀ (s : State) (x : Issue),
    (∀ (i : Instr) (mp : Bool), (i = .mma x ∧ mp = false) ∨ (i = .mpass x ∧ mp = true) → Goes s i x →
      passFaults mp x s = [] →
      ∃ t ys, exec i s = .next t ∧ Issued s t x ∧ Launched s t x (mxLatency (curCore s).fold) (.mx x ys)
        ∧ ys.length = 4096 ∧ ∀ m n, m < 64 → n < 64 → ys.getD (64 * m + n) 0 =
          passSum (passWidth x.raw x.sA x.sB) (foldDepth (curCore s).fold) (passRowA mp (curCore s) x m)
            (passRowB mp (curCore s) x n))
    ∧ (∀ i : Instr, i = .mzero x ∨ i = .mdrain x ∨ i = .mrep x ∨ i = .mchain x → Goes s i x →
      ∃ t, exec i s = .next t ∧ Issued s t x ∧ Launched s t x (mxLatency (curCore s).fold) (.mx x []))
    ∧ (Goes s (.mstore x) x → mstoreFaults x = [] →
      ∃ t, exec (.mstore x) s = .next t ∧ Issued s t x ∧ Launched s t x (mxLatency (curCore s).fold) (.mx x []))
    ∧ (Goes s (.mload x) x → mloadFaults x s = [] →
      ∃ t vs, exec (.mload x) s = .next t ∧ Issued s t x ∧ Launched s t x (mxLatency (curCore s).fold) (.mx x vs)
        ∧ LanesAre vs fun p =>
          if isStream (nameA x.raw) then BitVec.ofNat 32 (widenF32 (stFmt x.sA)
            (elemAt (curCore s) x.sA (posA x) (16 * rowGroup x + p / 64) (p % 64)))
          else laneA s x p)

/-- R149, R150, R152, R155 to R160, R164 to R168, R173, R174, R181, R182, R186: an element-lane or SF operation reads its
operands in its issue cycle and puts 1,024 elements in flight for its destination, after the latency of its row; the
multiply and SF lanes are held for 4 cycles. -/
def Obligations.LaneResults : Prop :=
  ∀ (s : State) (i : Instr) (x : Issue) (lat : Nat) (f : Nat → Elem),
    Goes s i x → laneResult s i = some (lat, f) → (curCore s).vBad = [] →
    ∃ t vals, exec i s = .next t ∧ Issued (held s i) t x ∧ Launched s t x lat (.vec (vecD x) vals noCount)
      ∧ LanesAre vals f

/-- R161, R162, R163 and R175: VCVT puts the rounded elements of A in flight, whole or packed from byte 0 of each row, and
VQNT the quantised blocks of each row with their scales from byte 192 on, with what they count for the stream; the SF operations give the values of the table at NaN, the zeros and the infinities, and FEXP2 gives infinity
from 128 on and zero below −150. -/
def Obligations.ConversionsAndSpecialInputs : Prop :=
  (∀ (s : State) (x : Issue) (e : Nat → Nat → Nat × Bool), Goes s (.vcvt x) x → (curCore s).vBad = [] → stBlkAx x.sB = 0 →
    (∀ r c, e r c = roundTo (stFmt x.sB) (convertedMode x r c) (stOvf x.sB) (convertedFrom s x r c)) →
    ∃ t k vals, exec (.vcvt x) s = .next t ∧ Issued s t x ∧ Launched s t x 4 (.vec (vecD x) vals k)
      ∧ k.stream = nameB x.raw ∧ vals.length = 1024
      ∧ k.sat = ((List.range 1024).filter fun p => (e (p / 64) (p % 64)).2).length
      ∧ ((stFmt x.sB).width = 32 → ∀ r c, r < 16 → c < 64 → vals.getD (64 * r + c) 0 = BitVec.ofNat 32 (e r c).1)
      ∧ ((stFmt x.sB).width ≠ 32 → ∀ r b, r < 16 → b < 2048 → rowBit vals r b =
        (decide (b < 64 * (stFmt x.sB).width)
          && (e r (b / (stFmt x.sB).width)).1.testBit (b % (stFmt x.sB).width))))
  ∧ (∀ (s : State) (x : Issue), Goes s (.vqnt x) x → (curCore s).vBad = [] → stBlkAx x.sB = 1 →
    (stFmt x.sB).isNarrow = true → bitsAt x.sB 158 2 ≠ 3 →
    ∃ t k vals, exec (.vqnt x) s = .next t ∧ Issued s t x ∧ Launched s t x 6 (.vec (vecD x) vals k)
      ∧ k.stream = nameB x.raw ∧ vals.length = 1024
      ∧ k.empty = ((List.range 16).flatMap fun r =>
          (List.range (64 / stBlk x.sB)).filter fun q => (convertedBlock s x r q).empty).length
      ∧ ∀ r b, r < 16 → b < 2048 → rowBit vals r b =
        if b < 64 * (stFmt x.sB).width then
          ((convertedBlock s x r (b / (stFmt x.sB).width / stBlk x.sB)).codes.getD
            (b / (stFmt x.sB).width % stBlk x.sB) 0).testBit (b % (stFmt x.sB).width)
        else if 1536 ≤ b ∧ b < 1536 + 8 * (64 / stBlk x.sB) then
          (convertedBlock s x r ((b - 1536) / 8)).scale.testBit (b % 8)
        else false)
  ∧ (∀ (op : Nat) (e : Elem), op ≤ 8 → f32 e = .nan → sfValue op e = 0x7FC00000)
  ∧ (∀ r ∈ [((0 : Nat), (0x7F800000 : Elem), (0xFF800000 : Elem), (0 : Elem), (0x80000000 : Elem)), (1, 0x7F800000, 0xFF800000, 0, 0x7FC00000),
      (2, 0, 0x80000000, 0x7F800000, 0x7FC00000), (3, 0x3F800000, 0x3F800000, 0x7F800000, 0),
      (4, 0xFF800000, 0xFF800000, 0x7F800000, 0x7FC00000), (5, 0, 0x80000000, 0x7FC00000, 0x7FC00000),
      (6, 0x3F800000, 0x3F800000, 0x7FC00000, 0x7FC00000), (7, 0, 0x80000000, 0x3F800000, 0xBF800000),
      (8, 0x3F000000, 0x3F000000, 0x3F800000, 0)],
    sfValue r.1 0 = r.2.1 ∧ sfValue r.1 0x80000000 = r.2.2.1 ∧ sfValue r.1 0x7F800000 = r.2.2.2.1
      ∧ sfValue r.1 0xFF800000 = r.2.2.2.2)
  ∧ (∀ (e : Elem) (q : Rat), f32 e = .fin q →
    (128 ≤ q → sfValue 3 e = 0x7F800000) ∧ (q < -150 → sfValue 3 e = 0)
      ∧ (q < 0 → sfValue 1 e = 0x7FC00000 ∧ sfValue 2 e = 0x7FC00000 ∧ sfValue 4 e = 0x7FC00000))

/-- R102, R169, R170, R171, R183, R184, R185: VLD, VGATH, VLUT and VPOP put 1,024 elements in flight for their register, VST
(the pad bits of a row's last byte zero) and VSCAT bytes for scratchpad; the drain queue loses its head to VPOP, and an empty one raises 0x09. -/
def Obligations.ScratchpadIssues : Prop :=
  ∀ (s : State) (x : Issue),
    (Goes s (.vld x) x → loadFaults x s = [] →
      ∃ t vals, exec (.vld x) s = .next t ∧ Issued s t x ∧ Launched s t x 6 (.vec (vecD x) vals noCount)
        ∧ LanesAre vals (loadedLane s x))
    ∧ (Goes s (.vst x) x → storeFaults x s = [] →
      ∃ t bytes k, exec (.vst x) s = .next t ∧ Issued s t x ∧ Launched s t x 3 (.sp bytes k)
        ∧ (vCv x.raw = false → k = noCount
          ∧ bytes.length = (vRows x x.sD).length * vRowBytes x x.sD
          ∧ ∀ r ∈ vRows x x.sD, ∀ b, b < vRowBytes x x.sD →
            ∃ v : Byte, (rowByte x.sD (posD x) r.2 b, v) ∈ bytes ∧ ∀ j, j < 8 → v.getLsbD j =
              (decide (8 * b + j < stCols x.sD * (stFmt x.sD).width)
                && (laneA s x ((if vOpf x.raw then 16 else 64) * r.1 + b / 4)).getLsbD (8 * (b % 4) + j))))
    ∧ (Goes s (.vpop x) x →
      (∀ e r, (curCore s).drain = e :: r → ∃ t, exec (.vpop x) s = .next t
        ∧ Issued (updCore (fun c => { c with drain := r }) s) t x ∧ Launched s t x 2 (.vec (vecD x) e noCount))
      ∧ ((curCore s).drain = [] → ∃ t, exec (.vpop x) s = .next t ∧ NoFlight s t
        ∧ (curCore t).events = (curCore s).events ++ [⟨0x09, x.col, 0, issuePc (curCore s) x.seq⟩]))
    ∧ (Goes s (.vgath x) x → gatherFaults x s = [] →
      ∃ t vals, exec (.vgath x) s = .next t ∧ Issued s t x ∧ Launched s t x 6 (.vec (vecD x) vals noCount)
        ∧ LanesAre vals fun p => if laneA s x p = BitVec.allOnes 32 then 0
          else BitVec.ofNat 32 (flatElem (curCore s) x.sB (posB x) (laneA s x p)))
    ∧ (Goes s (.vlut x) x → lutFaults x s = [] →
      ∃ t vals, exec (.vlut x) s = .next t ∧ Issued s t x ∧ Launched s t x 5 (.vec (vecD x) vals noCount)
        ∧ LanesAre vals fun p => wideElem (stFmt x.sB) (flatElem (curCore s) x.sB (posB x)
          (BitVec.ofNat 32 ((laneA s x p).toNat / 2 ^ vSh x.raw % 2 ^ (vLen x.raw + 1)))))
    ∧ (Goes s (.vscat x) x → scatterFaults x s = [] →
      ∃ t bytes, exec (.vscat x) s = .next t ∧ Issued s t x ∧ Launched s t x 4 (.sp bytes noCount)
        ∧ bytes.length = 4 * ((List.range 1024).filter fun p => active (vecElem (curCtx s) (vecB x) p)).length
        ∧ ∀ p j, p < 1024 → j < 4 → active (vecElem (curCtx s) (vecB x) p) = true →
          ((flatAddr x.sD (posD x) (vecElem (curCtx s) (vecB x) p)).toNat + j, byteOf ((laneA s x p).setWidth 64) j) ∈ bytes)

/-- R187, R188, R259, R260: a VAMO in scratchpad performs four cycles on: it reads before the other landings of that cycle,
its active lanes applied in ascending order, and its bytes then land among them; one in LS space or memory holds its column's
atomic port for 16 cycles and its lanes perform after its issue, within 600 cycles. An acknowledgement performs the next
active lane: the new word takes the place of the old one, at its place in LS space or in memory, or a poisoned word raises
0x42; the lanes after it stay to come. While lanes of an earlier VAMO of its class are to come, none performs. (The cycle of
each lane is open, log entry 46.) -/
def Obligations.VectorAtomics : Prop :=
  (∀ (s : State) (x : Issue), Goes s (.vamo x) x → vamoFaults x s = [] →
    (stSpace x.sD = 2 → Resident s (vamoRanges x (vecAll (curCtx s) (vecB x)))) → s.oracle = [] →
    (stSpace x.sD = 0 ∨ stSpace x.sD = 1 ∨ stSpace x.sD = 2) →
    ∃ t vals idx, exec (.vamo x) s = .next t ∧ Issued (held s (.vamo x)) t x
      ∧ LanesAre vals (laneA s x) ∧ LanesAre idx (fun p => vecElem (curCtx s) (vecB x) p)
      ∧ (stSpace x.sD = 0 → Launched s t x 4 (.vamoSp x vals idx))
      ∧ (stSpace x.sD ≠ 0 → Launched s t x 1 (.vamo x vals idx)))
  ∧ (∀ (s : State) (f : Flight) (x : Issue) (vals idx : List Elem), f.kind = .vamoSp x vals idx →
    ∃ t bytes, exec (.engineAccessPerform f) s = .next t
      ∧ Landed s t f [{ f with kind := .sp bytes noCount }] ∧ SameBytes s t ∧ AccKept s t
      ∧ (curCtx t).vregs = (curCtx s).vregs
      ∧ ∀ a, (match bytes.reverse.find? fun b => b.1 == a with
          | some b => b.2
          | none => spByte s a) = atomsApplied x (vals.zip idx) (spByte s) a)
  ∧ (∀ (s : State) (f : Flight) (x : Issue) (vals idx : List Elem), f.kind = .vamo x vals idx →
    (firstActive vals idx = none → exec (.vamoAcknowledgement f) s = .next (dropFlight f s))
    ∧ (∀ (v i : Elem) (vs js : List Elem) (va : Nat), firstActive vals idx = some (v, i, vs, js) → s.oracle = [] →
      va = (flatAddr x.sD (posD x) i % (2 ^ 64 : Nat)).toNat →
      (stSpace x.sD = 1 → va % 4 = 0 → lsBadAt s (curDie s) (curCtx s) va = false →
        ∃ t, exec (.vamoAcknowledgement f) s = .next t ∧ t.dram = s.dram ∧ t.hostMem = s.hostMem
          ∧ t.cores = (lanesToCome f x vs js (dropFlight f s)).cores
          ∧ ∀ k, k < 4 → lsRead t (curDie s) (curCtx s) (va + k) 1
            = [byteOf ((vamoLane (vOpx x.raw) (vTy x.raw)
                (BitVec.ofNat 32 (ofLeBytes (lsRead s (curDie s) (curCtx s) va 4))) v).setWidth 64) k])
      ∧ (∀ p h, stSpace x.sD = 2 → va % 4 = 0 → (∀ wr, heldTr s (curDie s) (curCtx s).asid va wr = .ok p h) →
        sectorBad s p = false → p.pa % 4 = 0 → Coherent s →
        ∃ t u, exec (.vamoAcknowledgement f) s = .next t ∧ t = lanesToCome f x vs js u
          ∧ Stored (dropFlight f s) u p (lowBytes ((vamoLane (vOpx x.raw) (vTy x.raw)
              (BitVec.ofNat 32 (ofLeBytes (physBytes s p 4))) v).setWidth 64) 4))
      ∧ (∀ p h, stSpace x.sD = 2 → va % 4 = 0 → (∀ wr, heldTr s (curDie s) (curCtx s).asid va wr = .ok p h) →
        sectorBad s p = true →
        ∃ t, exec (.vamoAcknowledgement f) s = .next t ∧ OnlyFocus s t ∧ SameBytes s t
          ∧ (curCore t).events = (curCore s).events ++ [⟨0x42, x.col, 0, pcOf s⟩])))
  ∧ (∀ (s : State) (f g : Flight) (x y : Issue) (vals idx us js : List Elem), landingDue s = some f →
    f.kind = .vamo x vals idx → g ∈ (curCore s).flights → g.kind = .vamo y us js → vClass y.raw = vClass x.raw →
    f.seq ≤ g.seq)

/-- R195 to R206, R210, R405, R408: a copy that raises no cause reads its source at its start, occupies its path's port, and
lands with its path's latency, which the statement writes out, as it does the rows that CPY, CPY.G, CPY.S, CPY.L and CPY.Z
write, and CPY.L's tail mask; CPY.X of the scratchpad form takes the remote path, its pull reading 55 cycles on; the memory
form takes a command number and hands frames to the connection; CPY.D drops and CPY.W writes back at their cycles. (That a
push has its watch on the core it writes is the model's reading, log entry 35, and so is the refresh term of a copy that
touches no page, log entry 45.) -/
def Obligations.CopyIssues : Prop :=
  ∀ (s : State) (x : Issue),
    (∀ i : Instr, i = .cpy x ∨ i = .cpyL x ∨ i = .cpyG x ∨ i = .cpyS x ∨ i = .cpyZ x → Goes s i x →
      copyFaults s x = [] → Resident s (copyRanges s x) →
      ∃ t lat, exec i s = .next t ∧ Issued (copyStarted x (planOf (curCore s) x) (copyPath s x) s) t x
        ∧ Launched s t x lat (.copy (copyOf x (copyPath s x) (planRuns s s.cur s.cur x (planOf (curCore s) x)) (stSpace x.sD == 0)))
        ∧ (isLoose (copyPath s x) = false → lat = landsAfter (curCtx s) (copyPath s x) (copiedBytes x)
          (refreshTerm (curCtx s) (curDie s) (homesOf s (farRanges s x))))
        ∧ (planRuns s s.cur s.cur x (planOf (curCore s) x)).map Prod.fst
          = (copiedRows s x).flatMap (fun w =>
            (destRuns s.cur x.sD (posD x) w.1 (w.2.map fun b => (b, false))).map Prod.fst)
        ∧ (opOf x.raw = 1 → ∀ j, j < 64 → (KMap.get 0 (curCtx t).tm (nameD x.raw)).getLsbD j =
          (decide (j < stRows x.sD) && decide (recMod x.raw 44 8 + 1 ≤ windowOf x j))))
    ∧ (∀ k, Goes s (.cpyXScratchpad x) x → gangMember s (cpxIdx x.raw) = some k → cpxScratchFaults s x k = [] →
      ∃ t, exec (.cpyXScratchpad x) s = .next t
        ∧ Issued (updCore (takePort .remoteSp (planCopy (curCore s) x).bytes) (setWatch x (if cpxPull x.raw then s.cur else k)
            (rowsBytes x.sD (posD x) (List.range (stRows x.sD))) s)) t x
        ∧ (cpxPull x.raw = true → Launched s t x 55 (.pull x k))
        ∧ (cpxPull x.raw = false → Launched s t x (landsAfter (curCtx s) .remoteSp (stRows x.sD * stRowBytes x.sD) 0)
          (.copy (copyOf x .remoteSp (planRuns s s.cur k x (planCopy (curCore s) x)) true))
          ∧ (opOf x.raw ≠ 0 → (planRuns s s.cur k x (planCopy (curCore s) x)).map Prod.fst
            = (List.range (stRows x.sD)).flatMap (fun r =>
              (destRuns k x.sD (posD x) r (readRow s s.cur x.sA (posA x) r (stRowBytes x.sA))).map Prod.fst))))
    ∧ (∀ asid, Goes s (.cpyXMemory x) x → KMap.get none s.peers ((curCtx s).asid * 65536 + cpxPkg x.raw) = some asid →
      inDomain s (cpxPkg x.raw) = true → cpxMemoryFaults s x = [] →
      ∃ t u cp, exec (.cpyXMemory x) s = .next t ∧ t = { u with conns := t.conns, sent := t.sent }
        ∧ Issued (updCore (fun c => { c with cmdid := (c.cmdid + 1) % 2 ^ 32 })
          (if cpxPull x.raw then setWatch x s.cur (rowsBytes x.sD (posD x) (List.range (stRows x.sD))) s else s)) u x
        ∧ Launched s u x (2 ^ 60) (.copy cp) ∧ cp.path = .package ∧ cp.peer = cpxPkg x.raw ∧ cp.pull = cpxPull x.raw
        ∧ cp.cmdid = (curCore s).cmdid
        ∧ ∃ g ∈ (getConn t (cpxPkg x.raw)).unacked, g.cmdId = (curCore s).cmdid ∧ g.srcCore = s.cur ∧ g.asid = asid
          ∧ g.op = (if cpxPull x.raw then 2 else 1))
    ∧ (Goes s (.cpyD x) x → dropFaults s x = [] → Resident s (tileRanges x) →
      ∃ t, exec (.cpyD x) s = .next t ∧ Issued s t x ∧ ∀ near away,
        near = spansAt s (fun h => homeDie h.pa == curDie s) (innerSpans x) →
        away = spansAt s (fun h => homeDie h.pa != curDie s) (innerSpans x) →
        ((curCore t).flights.map fun f => (f.due, f.kind)) = ((curCore s).flights.map fun f => (f.due, f.kind))
          ++ (if near = [] then [] else [(now s + 40, .drop near (cpCls x.raw))])
          ++ (if away = [] then [] else [(now s + 88, .drop away (cpCls x.raw))]))
    ∧ (Goes s (.cpyW x) x → cleanFaults s x = [] → Resident s (tileRanges x) →
      ∃ t path, exec (.cpyW x) s = .next t ∧ path = memoryPath s (homesOf s (tileRanges x))
        ∧ Issued (updCore (takePort path (stRows x.sD * stRowBytes x.sD)) s) t x
        ∧ (isLoose path = false → Launched s t x (landsAfter (curCtx s) path (stRows x.sD * stRowBytes x.sD)
            (refreshTerm (curCtx s) (curDie s) (homesOf s (tileRanges x)))) (.clean (innerSpans x) (cpCls x.raw)))
        ∧ (isLoose path = true → ∃ lat, Launched s t x lat (.clean (innerSpans x) (cpCls x.raw))))
    ∧ (∀ (k : Nat) (st : Line) (r n : Nat), stSpace st = 0 → (readRow s k st (posA x) r n).map Prod.fst =
      (rowBytesAt st (posA x) r n).map fun a => KMap.get 0 (getCore s k).sp a)

/-- R294, R298, R300, R301, R304, R305, R308, R310: a shot takes its aperture's path for 3 or 12 cycles and its output lands after
60 or 69, all zero for inputs that are all zero; OMASK writes every pixel of its bank and keeps the other, settling in 96
cycles; OCAL loads its image and holds the path for 84; OWIN's entry takes its value in the next cycle; OREF's frame of
32,832 bytes lands after 128. An issue whose record names no aperture raises 0x50. (A record that names none raises it at its forward, R294;
that an issue may find none is the model's reading of a gang's members before their release, log entry 19.) -/
def Obligations.OpticalIssues : Prop :=
  ∀ (s : State) (x : Issue) (a : Nat),
    (∀ i : Instr, i = .oxf x ∨ i = .oxc x → Goes s i x → apertureOf s (oxApt x.raw) = some a → (shotIssue x a s).1 = [] →
      ∃ t u out k, exec i s = .next t ∧ Issued u t x ∧ OnlyAperture s u a
        ∧ (getAperture u a).shotUntil = (getAperture s a).clk + (if oxMode x.raw = 1 then 12 else 3)
        ∧ (getAperture u a).cal = (getAperture s a).cal ∧ (getAperture u a).amp = (getAperture s a).amp
        ∧ Launched s t x (if oxMode x.raw = 1 then 69 else 60) (.optical out k)
        ∧ ((∀ p ∈ windowPoints (windowAt (getAperture s a) (oxWin x.raw)), ∀ j, j < 8 →
            spByte s ((cplxAddr x.sA (posA x) (oxIstep x.raw) p.1 p.2).toNat + j) = 0) →
          (∀ b ∈ out, b.2 = 0) ∧ k = noCount))
    ∧ (Goes s (.omask x) x → apertureOf s (oxApt x.raw) = some a → (maskIssue x a s).1 = [] →
      ∃ t u, exec (.omask x) s = .next t ∧ Issued u t x ∧ NoFlight s t ∧ OnlyAperture s u a
        ∧ (getAperture u a).maskUntil = (getAperture s a).clk + 16
        ∧ KMap.get 0 (getAperture u a).settle (recMod x.raw 1 1) = (getAperture s a).clk + 96
        ∧ (getAperture u a).wins = (getAperture s a).wins ∧ (getAperture u a).cal = (getAperture s a).cal
        ∧ ∀ bank k, bank < 2 → k < 4096 →
          (KMap.get 255 (getAperture u a).amp (bank * 4096 + k), KMap.get 0 (getAperture u a).phase (bank * 4096 + k)) =
            if bank = recMod x.raw 1 1 then (spByte s ((flatBase x.sA (posA x)).toNat + 2 * k),
              spByte s ((flatBase x.sA (posA x)).toNat + 2 * k + 1))
            else (KMap.get 255 (getAperture s a).amp (bank * 4096 + k), KMap.get 0 (getAperture s a).phase (bank * 4096 + k)))
    ∧ (Goes s (.ocal x) x → apertureOf s (oxApt x.raw) = some a → (calIssue x a s).1 = [] →
      ∃ t u img, exec (.ocal x) s = .next t ∧ Issued u t x ∧ NoFlight s t ∧ OnlyAperture s u a
        ∧ (getAperture u a).cal = some img ∧ (∀ k, k < 41024 → KMap.get 0 img k = spByte s ((flatBase x.sA (posA x)).toNat + k))
        ∧ (getAperture u a).epoch = (getAperture s a).epoch + 1
        ∧ (getAperture u a).shotUntil = (getAperture s a).clk + 84)
    ∧ (Goes s (.owin x) x → apertureOf s (oxApt x.raw) = some a →
      ∃ t, exec (.owin x) s = .next t ∧ Issued s t x
        ∧ Launched s t x 1 (.win a (recMod x.raw 18 2) (x.raw.extractLsb' 424 18)))
    ∧ (Goes s (.oref x) x → apertureOf s (oxApt x.raw) = some a → (refIssue x a s).1 = [] →
      ∃ t u bytes, exec (.oref x) s = .next t ∧ Issued u t x ∧ OnlyAperture s u a
        ∧ (getAperture u a).shotUntil = (getAperture s a).clk + 6 ∧ Launched s t x 128 (.sp bytes noCount)
        ∧ bytes.map Prod.fst = (List.range 32832).map fun k => (flatBase x.sD (posD x)).toNat + k)
    ∧ (∀ i : Instr, i = .oxf x ∨ i = .oxc x ∨ i = .omask x ∨ i = .ocal x ∨ i = .owin x ∨ i = .oref x → Goes s i x →
      apertureOf s (oxApt x.raw) = none → ∃ t, exec i s = .next t ∧ OnlyFocus s t ∧ NoFlight s t
        ∧ (curCore t).events = (curCore s).events ++ [⟨0x50, x.col, 0, issuePc (curCore s) x.seq⟩])

/-- R320 to R325: NB.SCORE reads the query and the key rows at its start and its list lands after its latency; NB.SEL and
NB.PUT take the DRAM path, with tag 0, and land as column 5 (R199); NB.SEL gathers the rows of each block it selects into two tiles of D, counted from
D's nest position (the model's reading, log entry 44), zeros for a lane that selects none; NB.STAT puts the counters, 128 and the die's mode in flight for one row. -/
def Obligations.NearBankIssues : Prop :=
  ∀ (s : State) (x : Issue),
    (Goes s (.nbScore x) x → scoreFaults s x = [] → Resident s (scoreRanges x) →
      ∃ t lat query rows, exec (.nbScore x) s = .next t
        ∧ lat = 150 + (nbCap x.raw + 127) / 128 * (4 + (16 * stRowBytes x.sB + 63) / 64) + 2 * nbK x.raw
          + (if bitAt (curCtx s).latched (curDie s) then 24 else 12)
        ∧ Issued (updCore (fun c => { c with scoreUntil := now s + lat }) s) t x
        ∧ Launched s t x lat (.nbList x query rows)
        ∧ query = rowCodes (stFmt x.sB) (stCols x.sB) ((rowBytesAt x.sA (posA x) 0 (stRowBytes x.sB)).map (spByte s))
        ∧ rows = (scoreRanges x).map fun r => (dramAddr s r.1, KMap.getList 0 s.dram (dramAddr s r.1) (stRowBytes x.sB)))
    ∧ (Goes s (.nbSel x) x → selFaults s x = [] → Resident s (selRanges (curCore s) x) →
      ∃ t cp, exec (.nbSel x) s = .next t
        ∧ Issued (updCore (takePort .dram (32 * stRowBytes x.sB * nbK x.raw)) s) t x
        ∧ Launched s t { x with col := 5 } (landLatency (curCtx s) .dram (32 * stRowBytes x.sB * nbK x.raw)
            (refreshTerm (curCtx s) (curDie s) [])) (.copy cp)
        ∧ cp.path = .dram ∧ cp.tag = 0 ∧ cp.through = false
        ∧ (selReads (curCore s) x = [] → ∀ n v r, n < nbK x.raw → r < 16 →
          ∀ q ∈ destRuns s.cur x.sD (posD x + ((2 * n + if v then 1 else 0 : Nat) : Int)) r
            (if active ((selIndex (curCore s) x).getD n 0) then
              blockBytes s x.sB (posB x + ((((selIndex (curCore s) x).getD n 0).toNat : Nat) : Int)) v r
            else List.replicate (stRowBytes x.sB) (0, false)), q.1 ∈ cp.runs))
    ∧ (Goes s (.nbPut x) x → putFaults s x = [] → Resident s (putRanges x) →
      ∃ t cp, exec (.nbPut x) s = .next t
        ∧ Issued (updCore (takePort .dram (32 * stRowBytes x.sD)) s) t x
        ∧ Launched s t { x with col := 5 } (landLatency (curCtx s) .dram (32 * stRowBytes x.sD)
            (refreshTerm (curCtx s) (curDie s) [])) (.copy cp)
        ∧ cp.path = .dram ∧ cp.tag = 0 ∧ cp.through = true
        ∧ ∀ v r, r < 16 → ∀ q ∈ piecesOf (blockRow x.sD (posD x) r v) (stRowBytes x.sD),
          (Dest.va q.1, (((rowBytesAt x.sA (putTile x v) r (stRowBytes x.sD)).map (spByte s)).drop
            (q.1 - blockRow x.sD (posD x) r v)).take q.2) ∈ cp.runs)
    ∧ (Goes s (.nbStat x) x →
      ∃ t, exec (.nbStat x) s = .next t ∧ Issued s t x
        ∧ Launched s t x 2 (.vecRow (vecD x) (recMod x.raw 0 4) ([(curCtx s).blks, (curCtx s).nanb, (curCtx s).scores, 128,
          if bitAt (curCtx s).latched (curDie s) then 1 else 0] ++ List.replicate 59 0)))

/-! ## Landings -/

/-- R128, R132, R133, R135 to R137, R139 to R143: what an issue of the matrix column does in its landing stage, outside
a chain or under full-width hops: a pass adds its sums and counts; MZERO and MLOAD write their elements and clear the
state; MDRAIN, MSTORE and MREP put their results in flight; under half-width hops a chain's passes are added in pairs, the
second first, and one that stays unpaired has been added in its own landing; MCHAIN opens and closes a chain and changes no
element; chain misuse raises 0x2D. A drained entry joins the queue, and a full queue raises 0x2E. -/
def Obligations.MatrixLandings : Prop :=
  (∀ (s : State) (f : Flight) (x : Issue) (vals : List Elem), f.kind = .mx x vals →
    chainMisuse (curCtx s) x = false → (x.first && recCB x.raw) = false → (x.last && recCE x.raw) = false →
    ((opOf x.raw = 0 ∨ opOf x.raw = 1) → vals.length = 4096 → landBad (curCore s) x = [] →
      ((chainOf (curCtx s) (accD x)).isOpen = false ∨ halfOf (curCore s).fold = 0 →
        ∃ t, exec (.landingStage f) s = .next t ∧ Landed s t f [] ∧ SameBytes s t
          ∧ (∀ m n, m < 64 → n < 64 → accAt t (accD x) m n =
              addRne (accAt s (accD x) m n) (f32 (vals.getD (64 * m + n) 0)))
          ∧ (∀ b m n, b ≠ accD x → m < 64 → n < 64 → accAt t b m n = accAt s b m n)
          ∧ (accStateOf (curCtx t) (accD x)).passes.toNat
            = Min.min ((accStateOf (curCtx s) (accD x)).passes.toNat + 1) (2 ^ 32 - 1)
          ∧ (accStateOf (curCtx t) (accD x)).cls = (curCore s).fold ∧ (curCtx t).foldrep = foldReport (curCtx t) (accD x))
      ∧ ((chainOf (curCtx s) (accD x)).isOpen = true → halfOf (curCore s).fold ≠ 0 →
        ((chainOf (curCtx s) (accD x)).waiting = [] →
          ∃ t, exec (.landingStage f) s = .next t ∧ Landed s t f [] ∧ SameBytes s t
            ∧ (chainOf (curCtx t) (accD x)).waiting = vals
            ∧ (∀ m n, m < 64 → n < 64 → (chainOf (curCtx t) (accD x)).before.getD (64 * m + n) 0 = accAt s (accD x) m n)
            ∧ ∀ m n, m < 64 → n < 64 → accAt t (accD x) m n =
              addRne (accAt s (accD x) m n) (f32 (vals.getD (64 * m + n) 0)))
        ∧ ((chainOf (curCtx s) (accD x)).waiting.length = 4096 → (chainOf (curCtx s) (accD x)).before.length = 4096 →
          ∃ t, exec (.landingStage f) s = .next t ∧ Landed s t f [] ∧ SameBytes s t
            ∧ (chainOf (curCtx t) (accD x)).waiting = [] ∧ (accStateOf (curCtx t) (accD x)).reord = true
            ∧ ∀ m n, m < 64 → n < 64 → accAt t (accD x) m n =
              addRne (addRne ((chainOf (curCtx s) (accD x)).before.getD (64 * m + n) 0) (f32 (vals.getD (64 * m + n) 0)))
                (f32 ((chainOf (curCtx s) (accD x)).waiting.getD (64 * m + n) 0)))))
    ∧ (opOf x.raw = 2 →
      ∃ t, exec (.landingStage f) s = .next t ∧ Landed s t f [] ∧ SameBytes s t
        ∧ accStateOf (curCtx t) (accD x) = AccState.zero
        ∧ ∀ b m n, m < 64 → n < 64 → accAt t b m n = if b = accD x then 0 else accAt s b m n)
    ∧ (opOf x.raw = 3 → vals.length = 1024 →
      ∃ t, exec (.landingStage f) s = .next t ∧ Landed s t f [] ∧ SameBytes s t
        ∧ accStateOf (curCtx t) (accD x) = AccState.zero
        ∧ ∀ b m n, m < 64 → n < 64 → accAt t b m n =
          if b = accD x ∧ m / 16 = rowGroup x then vals.getD (64 * (m % 16) + n) 0 else accAt s b m n)
    ∧ (opOf x.raw = 4 → landBad (curCore s) x = [] →
      ∃ t g, exec (.landingStage f) s = .next t ∧ Landed s t f [g] ∧ SameBytes s t ∧ AccKept s t ∧ g.due = now s + 2
        ∧ g.kind = .push (drainEntry (curCtx s) x (accA x) (rowGroup x)).1 (drainEntry (curCtx s) x (accA x) (rowGroup x)).2)
    ∧ (opOf x.raw = 5 → landBad (curCore s) x = [] →
      ∃ t g, exec (.landingStage f) s = .next t ∧ Landed s t f [g] ∧ SameBytes s t ∧ AccKept s t ∧ g.due = now s + 4
        ∧ g.kind = .sp (mstoreBytes (curCtx s) x (accA x) (rowGroup x)).1 (mstoreBytes (curCtx s) x (accA x) (rowGroup x)).2)
    ∧ (opOf x.raw = 6 →
      ∃ t g, exec (.landingStage f) s = .next t ∧ Landed s t f [g] ∧ SameBytes s t ∧ AccKept s t ∧ g.due = now s + 1
        ∧ g.kind = .vecRow (vecD x) (recMod x.raw 0 4) ((foldReport (curCtx s) (accA x)).setWidth 32
          :: (foldReport (curCtx s) (accA x) >>> 32).setWidth 32 :: List.replicate 62 0)))
  ∧ (∀ (s : State) (f : Flight) (x : Issue) (vals : List Elem), f.kind = .mx x vals → opOf x.raw = 16 →
    (chainMisuse (curCtx s) x = true → ∃ t, exec (.landingStage f) s = .next t ∧ OnlyFocus s t
      ∧ (curCore t).events = (curCore s).events ++ [⟨0x2D, 1, 0, issuePc (curCore s) x.seq⟩] ∧ curCtx t = curCtx s)
    ∧ (chainMisuse (curCtx s) x = false → x.first = true → recCB x.raw = true → (x.last && recCE x.raw) = false →
      ∃ t, exec (.landingStage f) s = .next t ∧ Landed s t f [] ∧ (curCtx t).acc = (curCtx s).acc
        ∧ (chainOf (curCtx t) (accD x)).isOpen = true)
    ∧ (chainMisuse (curCtx s) x = false → (x.first && recCB x.raw) = false → x.last = true → recCE x.raw = true →
      ∃ t, exec (.landingStage f) s = .next t ∧ Landed s t f [] ∧ (curCtx t).acc = (curCtx s).acc
        ∧ (chainOf (curCtx t) (accD x)).isOpen = false))
  ∧ (∀ (s : State) (f : Flight) (vals : List Elem) (k : Count), f.kind = .push vals k →
    ((curCore s).drain.length < 8 → ∃ t, exec (.drainPush f) s = .next t ∧ Landed s t f [] ∧ SameBytes s t
      ∧ (curCore t).drain = (curCore s).drain ++ [vals] ∧ (curCtx t).vregs = (curCtx s).vregs ∧ AccKept s t
      ∧ (curCtx t).streams = (addCount k (curCtx s)).streams)
    ∧ (8 ≤ (curCore s).drain.length → ∃ t, exec (.drainPush f) s = .next t ∧ (curCore t).drain = (curCore s).drain
      ∧ ∃ e ∈ (curCore t).events, e.code = 0x2E))

/-- R150, R170, R184, R303, R310, R320, R325, R151, R298: a vector result takes its place and nothing else of its file; bytes
of an engine write and of an STS (R83) stand in scratchpad, of two of one address the later; a row of a register takes its 64 elements; a
window entry takes its value; the scoring list lands and its counters grow. -/
def Obligations.ColumnLandings : Prop :=
  (∀ (s : State) (f : Flight) (v : Nat) (vals : List Elem) (k : Count), f.kind = .vec v vals k →
    ∃ t, exec (.vectorLanding f) s = .next t ∧ Landed s t f [] ∧ SameBytes s t ∧ VecWritten s t (1024 * v) vals
      ∧ AccKept s t ∧ (curCtx t).streams = (addCount k (curCtx s)).streams)
  ∧ (∀ (s : State) (f : Flight) (bytes : List (Nat × Byte)) (k : Count), f.kind = .optical bytes k →
    ∃ t, exec (.opticalOutputLanding f) s = .next t ∧ Landed s t f [] ∧ SpWritten s t bytes
      ∧ (curCtx t).vregs = (curCtx s).vregs ∧ AccKept s t ∧ (curCtx t).streams = (addCount k (curCtx s)).streams)
  ∧ (∀ (s : State) (f : Flight) (bytes : List (Nat × Byte)) (k : Count), f.kind = .sp bytes k →
    ∃ t, exec (.engineAccessPerform f) s = .next t ∧ Landed s t f [] ∧ SpWritten s t bytes
      ∧ (curCtx t).vregs = (curCtx s).vregs ∧ AccKept s t ∧ (curCtx t).streams = (addCount k (curCtx s)).streams)
  ∧ (∀ (s : State) (f : Flight) (off : Nat) (bytes : List Byte), f.kind = .sts off bytes →
    ∃ t, exec (.engineAccessPerform f) s = .next t ∧ Landed s t f [] ∧ AccKept s t
      ∧ (∀ p, physByte t p = physByte s p) ∧ (curCtx t).vregs = (curCtx s).vregs
      ∧ (curCtx t).streams = (curCtx s).streams
      ∧ ∀ a, spByte t a = if off ≤ a ∧ a < off + bytes.length then bytes.getD (a - off) 0 else spByte s a)
  ∧ (∀ (s : State) (f : Flight) (v row : Nat) (vals : List Elem), f.kind = .vecRow v row vals →
    ∃ t, exec (.engineAccessPerform f) s = .next t ∧ Landed s t f [] ∧ SameBytes s t
      ∧ VecWritten s t (1024 * v + 64 * row) vals ∧ AccKept s t)
  ∧ (∀ (s : State) (f : Flight) (a n : Nat) (v : BitVec 18), f.kind = .win a n v →
    ∃ t, exec (.engineAccessPerform f) s = .next t ∧ t.cores = (dropFlight f s).cores
      ∧ KMap.get winReset (getAperture t a).wins n = v ∧ SameBytes s t
      ∧ (∀ m, m ≠ n → KMap.get winReset (getAperture t a).wins m = KMap.get winReset (getAperture s a).wins m))
  ∧ (∀ (s : State) (f : Flight) (x : Issue) (query : List Nat) (rows : List (Nat × List Byte)), f.kind = .nbList x query rows →
    ∃ t bytes nan, exec (.nbScoreLanding f) s = .next t ∧ SpWritten s t bytes
      ∧ (∀ p, physByte t p = physByte s p) ∧ t.dies = s.dies ∧ (∀ k, k ≠ s.cur → getCore t k = getCore s k)
      ∧ bytes.map Prod.fst = (List.range (8 * nbK x.raw)).map (fun k => (flatBase x.sD (posD x)).toNat + k)
      ∧ nan ≤ nbBlocks x.raw
      ∧ (curCtx t).blks.toNat = Min.min ((curCtx s).blks.toNat + nbBlocks x.raw) (2 ^ 32 - 1)
      ∧ (curCtx t).nanb.toNat = Min.min ((curCtx s).nanb.toNat + nan) (2 ^ 32 - 1)
      ∧ (curCtx t).scores.toNat = Min.min ((curCtx s).scores.toNat + 1) (2 ^ 32 - 1)
      ∧ (curCtx t).main = (curCtx s).main ∧ (curCtx t).vregs = (curCtx s).vregs)

/-- R199, R206, R208, R210, R360: a copy whose runs lie in scratchpads writes each byte on its core, of two runs that meet
the later, with the arrival tags of the sectors they touch and their poison marks, and no byte of memory; one whose runs
lie in memory writes each byte at the place its address translates to, of two the later, and written through leaves their
sectors clean; a poisoned run marks its sector; one in LS space writes its bytes there; the watches of the command end with
it. The landing of CPY.W leaves the sectors of its spans clean, with no byte changed; what CPY.D drops, its sectors at
their home slices and this die's copies of them, is cached no more, and neither DRAM nor host memory changes. -/
def Obligations.CopyLandings : Prop :=
  (∀ (s : State) (f : Flight) (cp : Copy), f.kind = .copy cp →
    (∀ r ∈ cp.runs, ∃ k off, r.1 = Dest.sp k off ∧ k < 128) → cp.poison.length = cp.runs.length → cp.through = false →
    ∃ t, exec (.copyLanding f) s = .next t ∧ t = { s with cores := t.cores }
      ∧ (curCore t).flights = (curCore (dropFlight f s)).flights ∧ (∀ k, (getCore t k).ctx = (getCore s k).ctx)
      ∧ (∀ k, k ≠ s.cur → (getCore t k).flights = (getCore s k).flights)
      ∧ ∀ k, k < 128 →
        (∀ a, KMap.get 0 (getCore t k).sp a = (scratchByte k cp.runs a).getD (KMap.get 0 (getCore s k).sp a))
        ∧ (∀ q, KMap.get 0 (getCore t k).tags q =
            if cp.tagged = true ∧ ∃ r ∈ cp.runs, scratchTouches k q r = true then cp.tag else KMap.get 0 (getCore s k).tags q)
        ∧ (∀ q, (q ∈ (getCore t k).spBad) ↔
            scratchMark k q (cp.runs.zip cp.poison) (decide (q ∈ (getCore s k).spBad)) = true)
        ∧ (getCore t k).watches = (getCore s k).watches.filter fun w => w.flight != watchKey s.cur f.seq)
  ∧ (∀ (s : State) (f : Flight) (cp : Copy), f.kind = .copy cp → Coherent s → cp.poison.length = cp.runs.length →
    (∀ r ∈ cp.runs, ∃ va p, r.1 = Dest.va va ∧ 0 < r.2.length ∧ va % 64 + r.2.length ≤ 64
      ∧ translate s (curDie s) (curCtx s).asid va true = .ok p true ∧ p.pa % 64 = va % 64) →
    ∃ t, exec (.copyLanding f) s = .next t
      ∧ (∀ q, physByte t q = (memoryByte s cp.runs q).getD (physByte s q))
      ∧ (∀ k, OnlySeen { getCore (dropFlight f s) k with watches := (getCore t k).watches } (getCore t k))
      ∧ (∀ k, k < 128 →
        (getCore t k).watches = (getCore s k).watches.filter fun w => w.flight != watchKey s.cur f.seq)
      ∧ (cp.through = true → ∀ r ∈ cp.runs, ∀ va, r.1 = Dest.va va → ∀ p ∈ rangeSectors s va r.2.length,
        sectorDirty t p.2 = false)
      ∧ ∀ va bs p h, cp.runs = [(Dest.va va, bs)] → cp.poison = [true] →
        translate s (curDie s) (curCtx s).asid va true = .ok p h → p.host = false → sectorBad t p = true)
  ∧ (∀ (s : State) (f : Flight) (cp : Copy) (off : Nat) (bs : List Byte) (bad : Bool), f.kind = .copy cp →
    cp.runs = [(Dest.ls off, bs)] → cp.poison = [bad] → cp.through = false → off % 64 + bs.length ≤ 64 →
    ∃ t, exec (.copyLanding f) s = .next t ∧ t.dram = s.dram ∧ t.hostMem = s.hostMem
      ∧ (∀ i, i < bs.length → lsRead t (curDie s) (curCtx s) (off + i) 1 = [bs.getD i 0])
      ∧ (bad = true → bs ≠ [] → lsBadAt t (curDie s) (curCtx s) off = true))
  ∧ (∀ (s : State) (f : Flight) (spans : List (Nat × Nat)) (cls : BitVec 4), f.kind = .clean spans cls → Coherent s →
    ∃ t, exec (.copyLanding f) s = .next t ∧ (∀ p, physByte t p = physByte s p)
      ∧ (∀ k, OnlySeen (getCore (dropFlight f s) k) (getCore t k))
      ∧ ∀ q ∈ spans, ∀ p ∈ rangeSectors s q.1 q.2, sectorDirty t p.2 = false)
  ∧ (∀ (s : State) (f : Flight) (spans : List (Nat × Nat)) (cls : BitVec 4), f.kind = .drop spans cls →
    ∃ t, exec (.engineAccessPerform f) s = .next t ∧ t.dram = s.dram ∧ t.hostMem = s.hostMem
      ∧ t.cores = (dropFlight f s).cores
      ∧ ((∀ q ∈ spans, ∀ v, q.1 ≤ v → v < q.1 + q.2 → (findTlb s (curDie s) (curCtx s).asid v).isSome = true) →
        ∀ q ∈ spans, 0 < q.2 → q.1 % 64 = 0 → q.2 % 64 = 0 →
          (∀ p ∈ rangeSectors s q.1 q.2, sectorCached t p.2 = false)
          ∧ ∀ l ∈ (getDie t (curDie s)).rdc, l.asid = (curCtx s).asid → ∀ i, i < 4 →
            q.1 ≤ l.va * 256 + 64 * i → l.va * 256 + 64 * i < q.1 + q.2 → bitAt l.valid i = false))

/-! ## The whole machine -/

/-- R36, R45 to R54, R57, R62, R63, R204: every word and record line that the package can meet decodes, at the head of any
bytes, to the instruction whose words it is, and leaves the bytes after it; the operation that an issue of a record performs
is the one that its column and its operation code name. -/
def Obligations.DecodeAgrees : Prop :=
  (∀ (i : Instr) (rest : List Byte), i.wf = true → encode i ≠ [] → decode (encodeBytes i ++ rest) = .ok (i, rest))
  ∧ (∀ (i : Instr) (x : Issue), recordOf i = some x → (∀ y, i ≠ .recordHintRegionIssue y) →
    (i.wf = true → recordInstr x = some i)
    ∧ (recordInstr x = some i → bitsAt x.raw 25 7 = 0x7F → colOf x.raw = x.col →
      x.i0 < tripOf x.raw 0 → x.i1 < tripOf x.raw 1 → x.i2 < tripOf x.raw 2 → x.i3 < tripOf x.raw 3 → i.wf = true))

/-- R50 to R56: words and a record line written out from their forms decode to what they stand for; no word of an
unassigned major, of an unassigned function, of conditions 9 to 15, of AMO operation 7, of CAS with an operation, or of
fence kind 3 decodes. -/
def Obligations.DecodeWords : Prop :=
  decodeTableWord 32 (1#7 ++ 3#5 ++ 1#5 ++ 2#5 ++ 0#6 ++ 0#4).toNat = some (.add 3 1 2)
  ∧ decodeTableWord 32 (0x08#7 ++ 4#5 ++ 5#5 ++ 0x7FFF#15).toNat = some (.addi 4 5 0x7FFF)
  ∧ decodeTableWord 32 (0x1B#7 ++ 6#5 ++ 7#5 ++ 0x7FE#11 ++ 9#4).toNat = some (.ldD 6 7 0x7FE 9)
  ∧ decodeTableWord 32 (0x31#7 ++ 2#4 ++ 5#3 ++ 10#5 ++ 11#5 ++ 0#7 ++ 1#1).toNat = some (.bLt 5 10 11 1)
  ∧ decodeTableWord 32 (0x30#7 ++ 3#3 ++ 0x3FFFFF#22).toNat = some (.ptb 3 0x3FFFFF)
  ∧ decodeTableWord 32 (0x42#7 ++ 0#5 ++ 0#5 ++ 1#15).toNat = some (.trap 1)
  ∧ decodeTableWord 32 (0x5A#7 ++ 8#5 ++ 0#5 ++ 0#6 ++ 6#3 ++ 63#6).toNat = some (.sget 8 6 63)
  ∧ decodeTableWord 32 (0x28#7 ++ 1#5 ++ 2#5 ++ 3#5 ++ 3#2 ++ 6#3 ++ 1#1 ++ 5#4).toNat = some (.amoSwap 1 2 3 3 1 5)
  ∧ decodeTableWord 64 ((0x12345678#32 ++ (0x10#7 ++ 9#5 ++ 0#20)).toNat) = some (.liw 9 0x12345678)
  ∧ decodeTableWord 512 (0x7F#7 ++ 5#25).toNat = some (.recordForward (BitVec.ofNat 512 0xFE000005))
  ∧ (∀ w : IWord, majorAssigned (w.toNat / 2 ^ 25) = false → decodeTableWord 32 w.toNat = none)
  ∧ (∀ w : IWord, w.toNat / 2 ^ 25 = 0x01 → 0x19 ≤ w.toNat / 2 ^ 4 % 2 ^ 6 → decodeTableWord 32 w.toNat = none)
  ∧ (∀ w : IWord, (w.toNat / 2 ^ 25 = 0x02 ∨ w.toNat / 2 ^ 25 = 0x48) → 6 ≤ w.toNat / 2 ^ 4 % 2 ^ 6 →
    decodeTableWord 32 w.toNat = none)
  ∧ (∀ w lit : IWord, w.toNat / 2 ^ 25 = 0x10 → 2 ≤ w.toNat / 2 ^ 4 % 2 ^ 6 →
    decodeTableWord 64 (lit ++ w).toNat = none)
  ∧ (∀ w : IWord, w.toNat / 2 ^ 25 = 0x31 → 9 ≤ w.toNat / 2 ^ 21 % 2 ^ 4 → decodeTableWord 32 w.toNat = none)
  ∧ (∀ w : IWord, w.toNat / 2 ^ 25 = 0x28 → w.toNat / 2 ^ 5 % 2 ^ 3 = 7 → decodeTableWord 32 w.toNat = none)
  ∧ (∀ w : IWord, w.toNat / 2 ^ 25 = 0x29 → w.toNat / 2 ^ 5 % 2 ^ 3 ≠ 0 → decodeTableWord 32 w.toNat = none)
  ∧ (∀ w lit : IWord, w.toNat / 2 ^ 25 = 0x45 → lit.toNat / 2 ^ 18 % 2 ^ 2 = 3 →
    decodeTableWord 64 (lit ++ w).toNat = none)

/-- R45, R46, R56, R40: when the word at a core's program counter is what happens next and its bytes decode, the step is that
instruction's on that core, the signature having taken its bytes inside a segment; a word whose own fall-through leaves the
instruction store, at once or after a wait that it begins, raises 0x02 instead; bytes that are no instruction raise 0x00,
and a pc outside the store 0x02. -/
def Obligations.StepRunsDecoded : Prop :=
  ∀ (s : State) (k : Nat), WordIsNext s k →
    (∀ (i : Instr) (rest : List Byte) (n : Nat) (after : Word) (t : State), pcInStore (focus k s) = true →
      decode (fetchBytes (focus k s)) = .ok (i, rest) → n = (fetchBytes (focus k s)).length - rest.length →
      after = pcOf (focus k s) + BitVec.ofNat 64 n → exec i (foldSignature n (focus k s)) = .next t →
      step s = (if (curCtx t).inShadow = (curCtx (focus k s)).inShadow ∧ (curCore t).resident = true
          ∧ inStore (curCtx (focus k s)) after = false
          ∧ (pcOf t = after ∨ (pcOf t = pcOf (focus k s) ∧ (curCtx t).wait ≠ .none))
        then raise 0x02 0 (foldSignature n (focus k s)) else .next t))
    ∧ (∀ e, pcInStore (focus k s) = true → decode (fetchBytes (focus k s)) = .error e → step s = raise 0x00 0 (focus k s))
    ∧ (pcInStore (focus k s) = false → step s = raise 0x02 0 (focus k s))

/-- R411, R412: a package with power always goes on; one without power does nothing until a package reset reaches it.
That every instruction and event answers a next state from every state is the model's own claim: the manual gives each
of them an effect. -/
def Obligations.NothingStops : Prop :=
  (∀ (i : Instr) (s : State), ∃ t, exec i s = .next t)
  ∧ (∀ s : State, s.powered = true → ∃ t, step s = .next t)
  ∧ (∀ s : State, s.powered = false → (∀ e ∈ s.inputs, e.2 ≠ .packageReset) → step s = .fault .poweredOff)
  ∧ (∀ s : State, s.powered = false → (∃ e ∈ s.inputs, e.2 = .packageReset) → ∃ t, step s = .next t ∧ t.powered = true)

/-- The memories of the package keep their one canonical form through every step: addresses strictly rising, and no byte
listed that reads as an unlisted one does. (The form is the model's, for R234, R13, R45; log entry 2.) -/
def Obligations.MemoryStaysCanonical : Prop :=
  ∀ s t : State, s.memWf = true → step s = .next t → t.memWf = true

/-- R212, R213, R216, R228: every step keeps the caches of the package in agreement with DRAM: one line for each physical
line, at its home; dirty sectors valid; clean sectors equal to DRAM. So does each of what a step does to them: a fill, a
write inside one sector, a write-back, an eviction and a discard. -/
def Obligations.CachesStayCoherent : Prop :=
  (∀ s t : State, Coherent s → step s = .next t → Coherent t)
  ∧ ∀ s : State, Coherent s →
    (∀ asid va pa, Coherent (touchSector asid va pa s))
    ∧ (∀ asid va pa bs bad, pa % 64 + bs.length ≤ 64 → Coherent (homeWrite asid va pa bs bad s))
    ∧ (∀ line mask, Coherent (cleanLine line mask s)) ∧ (∀ line, Coherent (evictLine line s))
    ∧ (∀ pa, Coherent (discardSector pa s))

/-- R18, R22, R23, R212, R412: right after reset TEMPO and every CTIME are zero, PKGID is unset, no feature is negotiated,
nothing is resident or registered, no cache holds a line, the package has power; memory is canonical, the caches agree
with DRAM, and every byte of memory and scratchpad reads as an unlisted one (log entry 2). -/
def Obligations.ResetState : Prop :=
  State.reset.tempo = 0 ∧ State.reset.pkg = 0xFFFF ∧ State.reset.domain = 0 ∧ State.reset.feat0 = 0 ∧ State.reset.feat1 = 0
  ∧ State.reset.powered = true ∧ State.reset.tasks = [] ∧ State.reset.rings = [] ∧ State.reset.spaces = []
  ∧ State.reset.fw.bringUp = .negotiate ∧ State.reset.host.repWr = 0 ∧ State.reset.host.repRd = 0
  ∧ (∀ k, (getCore State.reset k).ctime = 0 ∧ (getCore State.reset k).resident = false
    ∧ (getCore State.reset k).tape = Tape.empty)
  ∧ (∀ d, (getDie State.reset d).l2 = [] ∧ (getDie State.reset d).rdc = [] ∧ (getDie State.reset d).tlb = [])
  ∧ State.reset.memWf = true ∧ Coherent State.reset
  ∧ (∀ p, physByte State.reset p = 0) ∧ ∀ k a, KMap.get 0 (getCore State.reset k).sp a = 0
end

