-- ==== Sys2Proof/Laws/KMap.lean ====
section
/-! SUPPORT. The laws of the sparse map: what a lookup gives after an update, and that every update keeps the
canonical form. -/

namespace Sys2Proof

variable {α : Type}

/-! ## Lookup after update -/

@[simp] theorem KMap.get_nil (d : α) (k : Nat) : KMap.get d [] k = d := rfl

theorem KMap.get_insert (d : α) (m : KMap α) (k j : Nat) (v : α) :
    KMap.get d (KMap.insert m k v) j = if j = k then v else KMap.get d m j := by
  induction m with
  | nil => simp only [KMap.insert, KMap.get]; grind
  | cons e r ih =>
    obtain ⟨k', v'⟩ := e
    simp only [KMap.insert]
    split
    · simp only [KMap.get]; grind
    · split <;> simp only [KMap.get] <;> grind

theorem KMap.get_erase (d : α) (m : KMap α) (k j : Nat) :
    KMap.get d (KMap.erase m k) j = if j = k then d else KMap.get d m j := by
  induction m with
  | nil => simp [KMap.erase]
  | cons e r ih =>
    obtain ⟨k', v'⟩ := e
    simp only [KMap.erase, List.filter_cons] at ih ⊢
    split <;> simp only [KMap.get] <;> grind

/-- A lookup after an update: the value written at its key, the old value at every other key. -/
theorem KMap.get_set [DecidableEq α] (d : α) (m : KMap α) (k j : Nat) (v : α) :
    KMap.get d (KMap.set d m k v) j = if j = k then v else KMap.get d m j := by
  unfold KMap.set
  split
  · rename_i h; rw [KMap.get_erase, h]
  · exact KMap.get_insert d m k j v

@[simp] theorem KMap.get_set_same [DecidableEq α] (d : α) (m : KMap α) (k : Nat) (v : α) :
    KMap.get d (KMap.set d m k v) k = v := by simp [KMap.get_set]

theorem KMap.get_set_other [DecidableEq α] (d : α) (m : KMap α) {k j : Nat} (v : α) (h : j ≠ k) :
    KMap.get d (KMap.set d m k v) j = KMap.get d m j := by simp [KMap.get_set, h]

/-- A lookup after a list of values has been written at successive keys. -/
theorem KMap.get_setList [DecidableEq α] (d : α) (vs : List α) (m : KMap α) (k j : Nat) :
    KMap.get d (KMap.setList d m k vs) j =
      if k ≤ j ∧ j < k + vs.length then vs.getD (j - k) d else KMap.get d m j := by
  induction vs generalizing m k with
  | nil => simp only [KMap.setList, List.length_nil]; rw [if_neg (by omega)]
  | cons v r ih =>
    rw [KMap.setList, ih, KMap.get_set]
    by_cases h : j = k
    · subst h; simp
    · by_cases h2 : k ≤ j
      · have e : j - k = (j - (k + 1)) + 1 := by omega
        rw [e, List.getD_cons_succ]
        simp only [List.length_cons, h, if_false]
        by_cases h3 : j < k + (r.length + 1)
        · rw [if_pos (by omega), if_pos ⟨h2, h3⟩]
        · rw [if_neg (by omega), if_neg (by omega)]
      · rw [if_neg (by omega), if_neg h, if_neg (by simp only [List.length_cons]; omega)]

theorem KMap.get_clearRange (d : α) (m : KMap α) (lo hi j : Nat) :
    KMap.get d (KMap.clearRange m lo hi) j = if lo ≤ j ∧ j < hi then d else KMap.get d m j := by
  induction m with
  | nil => simp [KMap.clearRange]
  | cons e r ih =>
    obtain ⟨k', v'⟩ := e
    simp only [KMap.clearRange, List.filter_cons] at ih ⊢
    split <;> simp only [KMap.get] <;> grind

/-! ## The canonical form -/

/-- Every key of the map is greater than `k`. -/
theorem KMap.sorted_cons_iff (k : Nat) (v : α) (m : KMap α) :
    KMap.sorted ((k, v) :: m) = true ↔ (∀ e ∈ m, k < e.1) ∧ KMap.sorted m = true := by
  induction m generalizing k v with
  | nil => simp [KMap.sorted]
  | cons e r ih =>
    obtain ⟨k', v'⟩ := e
    simp only [KMap.sorted, Bool.and_eq_true, decide_eq_true_eq, List.forall_mem_cons]
    rw [ih k' v']
    constructor
    · rintro ⟨h, h1, h2⟩; exact ⟨⟨h, fun e he => Nat.lt_trans h (h1 e he)⟩, h1, h2⟩
    · rintro ⟨⟨h, _⟩, h1, h2⟩; exact ⟨h, h1, h2⟩

theorem KMap.mem_insert {m : KMap α} {k : Nat} {v : α} {e : Nat × α} (h : e ∈ KMap.insert m k v) :
    e = (k, v) ∨ e ∈ m := by
  induction m with
  | nil => simpa [KMap.insert] using h
  | cons e' r ih =>
    obtain ⟨k', v'⟩ := e'
    simp only [KMap.insert] at h
    split at h
    · simpa using h
    · split at h
      · simp only [List.mem_cons] at h ⊢; tauto
      · simp only [List.mem_cons] at h ⊢
        rcases h with h | h
        · exact .inr (.inl h)
        · rcases ih h with h | h <;> tauto

theorem KMap.sorted_insert {m : KMap α} (k : Nat) (v : α) (h : KMap.sorted m = true) :
    KMap.sorted (KMap.insert m k v) = true := by
  induction m with
  | nil => rfl
  | cons e r ih =>
    obtain ⟨k', v'⟩ := e
    obtain ⟨h1, h2⟩ := (KMap.sorted_cons_iff k' v' r).mp h
    simp only [KMap.insert]
    split
    · rename_i hk
      refine (KMap.sorted_cons_iff _ _ _).mpr ⟨fun e he => ?_, h⟩
      rcases List.mem_cons.mp he with rfl | he
      · exact hk
      · exact Nat.lt_trans hk (h1 e he)
    · split
      · rename_i _ hk; subst hk
        exact (KMap.sorted_cons_iff _ _ _).mpr ⟨h1, h2⟩
      · refine (KMap.sorted_cons_iff _ _ _).mpr ⟨fun e he => ?_, ih h2⟩
        rcases KMap.mem_insert he with rfl | he
        · simp only; omega
        · exact h1 e he

theorem KMap.sorted_filter {m : KMap α} (p : Nat × α → Bool) (h : KMap.sorted m = true) :
    KMap.sorted (m.filter p) = true := by
  induction m with
  | nil => rfl
  | cons e r ih =>
    obtain ⟨k', v'⟩ := e
    obtain ⟨h1, h2⟩ := (KMap.sorted_cons_iff k' v' r).mp h
    simp only [List.filter_cons]
    split
    · exact (KMap.sorted_cons_iff _ _ _).mpr ⟨fun e he => h1 e (List.mem_of_mem_filter he), ih h2⟩
    · exact ih h2

theorem KMap.wf_iff [DecidableEq α] (d : α) (m : KMap α) :
    KMap.wf d m = true ↔ KMap.sorted m = true ∧ ∀ e ∈ m, e.2 ≠ d := by
  simp [KMap.wf, List.all_eq_true]

@[simp] theorem KMap.wf_nil [DecidableEq α] (d : α) : KMap.wf d ([] : KMap α) = true := rfl

theorem KMap.wf_filter [DecidableEq α] {d : α} {m : KMap α} (p : Nat × α → Bool) (h : KMap.wf d m = true) :
    KMap.wf d (m.filter p) = true := by
  obtain ⟨h1, h2⟩ := (KMap.wf_iff d m).mp h
  exact (KMap.wf_iff d _).mpr ⟨KMap.sorted_filter p h1, fun e he => h2 e (List.mem_of_mem_filter he)⟩

/-- An update keeps the canonical form. -/
theorem KMap.wf_set [DecidableEq α] {d : α} {m : KMap α} (k : Nat) (v : α) (h : KMap.wf d m = true) :
    KMap.wf d (KMap.set d m k v) = true := by
  unfold KMap.set
  split
  · exact KMap.wf_filter _ h
  · rename_i hv
    obtain ⟨h1, h2⟩ := (KMap.wf_iff d m).mp h
    refine (KMap.wf_iff d _).mpr ⟨KMap.sorted_insert k v h1, fun e he => ?_⟩
    rcases KMap.mem_insert he with rfl | he
    · exact hv
    · exact h2 e he

/-- Writing a list of values keeps the canonical form. -/
theorem KMap.wf_setList [DecidableEq α] {d : α} (vs : List α) {m : KMap α} (k : Nat) (h : KMap.wf d m = true) :
    KMap.wf d (KMap.setList d m k vs) = true := by
  induction vs generalizing m k with
  | nil => exact h
  | cons v r ih => exact ih (k + 1) (KMap.wf_set k v h)

theorem KMap.wf_update [DecidableEq α] {d : α} {m : KMap α} (k : Nat) (f : α → α) (h : KMap.wf d m = true) :
    KMap.wf d (KMap.update d m k f) = true := KMap.wf_set k _ h

theorem KMap.wf_clearRange [DecidableEq α] {d : α} {m : KMap α} (lo hi : Nat) (h : KMap.wf d m = true) :
    KMap.wf d (KMap.clearRange m lo hi) = true := KMap.wf_filter _ h

/-! ## What holds of every value -/

theorem KMap.forall_set [DecidableEq α] {d : α} {m : KMap α} {P : α → Prop} (k : Nat) (v : α)
    (h : ∀ e ∈ m, P e.2) (hv : P v) : ∀ e ∈ KMap.set d m k v, P e.2 := by
  intro e he
  unfold KMap.set at he
  split at he
  · exact h e (List.mem_of_mem_filter he)
  · rcases KMap.mem_insert he with rfl | he
    · exact hv
    · exact h e he

theorem KMap.forall_get {d : α} {m : KMap α} {P : α → Prop} (k : Nat)
    (h : ∀ e ∈ m, P e.2) (hd : P d) : P (KMap.get d m k) := by
  induction m with
  | nil => exact hd
  | cons e r ih =>
    obtain ⟨k', v⟩ := e
    simp only [KMap.get]
    split
    · exact h _ (List.mem_cons_self ..)
    · exact ih fun e he => h e (List.mem_cons_of_mem _ he)

end Sys2Proof
end

