-- ==== Sys2Proof/Laws/State.lean ====
section
/-! SUPPORT. What each field of the state holds after each update of the state, and what the accessors give. -/

namespace Sys2Proof.Machine

variable (s : State)

/-! ## `focus` changes `cur` alone -/

@[simp] theorem focus_tempo (k : Nat) : (focus k s).tempo = s.tempo := rfl
@[simp] theorem focus_cores (k : Nat) : (focus k s).cores = s.cores := rfl
@[simp] theorem focus_dies (k : Nat) : (focus k s).dies = s.dies := rfl
@[simp] theorem focus_dram (k : Nat) : (focus k s).dram = s.dram := rfl
@[simp] theorem focus_hostMem (k : Nat) : (focus k s).hostMem = s.hostMem := rfl
@[simp] theorem focus_memBad (k : Nat) : (focus k s).memBad = s.memBad := rfl
@[simp] theorem focus_spaces (k : Nat) : (focus k s).spaces = s.spaces := rfl
@[simp] theorem focus_tasks (k : Nat) : (focus k s).tasks = s.tasks := rfl
@[simp] theorem focus_rings (k : Nat) : (focus k s).rings = s.rings := rfl
@[simp] theorem focus_pkg (k : Nat) : (focus k s).pkg = s.pkg := rfl
@[simp] theorem focus_domain (k : Nat) : (focus k s).domain = s.domain := rfl
@[simp] theorem focus_feat0 (k : Nat) : (focus k s).feat0 = s.feat0 := rfl
@[simp] theorem focus_feat1 (k : Nat) : (focus k s).feat1 = s.feat1 := rfl
@[simp] theorem focus_fw (k : Nat) : (focus k s).fw = s.fw := rfl
@[simp] theorem focus_host (k : Nat) : (focus k s).host = s.host := rfl
@[simp] theorem focus_peers (k : Nat) : (focus k s).peers = s.peers := rfl
@[simp] theorem focus_conns (k : Nat) : (focus k s).conns = s.conns := rfl
@[simp] theorem focus_sent (k : Nat) : (focus k s).sent = s.sent := rfl
@[simp] theorem focus_links (k : Nat) : (focus k s).links = s.links := rfl
@[simp] theorem focus_nextProbe (k : Nat) : (focus k s).nextProbe = s.nextProbe := rfl
@[simp] theorem focus_arrivals (k : Nat) : (focus k s).arrivals = s.arrivals := rfl
@[simp] theorem focus_notes (k : Nat) : (focus k s).notes = s.notes := rfl
@[simp] theorem focus_packets (k : Nat) : (focus k s).packets = s.packets := rfl
@[simp] theorem focus_mailbox (k : Nat) : (focus k s).mailbox = s.mailbox := rfl
@[simp] theorem focus_powered (k : Nat) : (focus k s).powered = s.powered := rfl
@[simp] theorem focus_inputs (k : Nat) : (focus k s).inputs = s.inputs := rfl
@[simp] theorem focus_stimuli (k : Nat) : (focus k s).stimuli = s.stimuli := rfl
@[simp] theorem focus_oracle (k : Nat) : (focus k s).oracle = s.oracle := rfl
@[simp] theorem focus_free (k : Nat) : (focus k s).free = s.free := rfl

/-! ## `setCore` changes `cores` alone -/

@[simp] theorem setCore_tempo (k : Nat) (c : Core) : (setCore s k c).tempo = s.tempo := rfl
@[simp] theorem setCore_cur (k : Nat) (c : Core) : (setCore s k c).cur = s.cur := rfl
@[simp] theorem setCore_dies (k : Nat) (c : Core) : (setCore s k c).dies = s.dies := rfl
@[simp] theorem setCore_dram (k : Nat) (c : Core) : (setCore s k c).dram = s.dram := rfl
@[simp] theorem setCore_hostMem (k : Nat) (c : Core) : (setCore s k c).hostMem = s.hostMem := rfl
@[simp] theorem setCore_memBad (k : Nat) (c : Core) : (setCore s k c).memBad = s.memBad := rfl
@[simp] theorem setCore_spaces (k : Nat) (c : Core) : (setCore s k c).spaces = s.spaces := rfl
@[simp] theorem setCore_tasks (k : Nat) (c : Core) : (setCore s k c).tasks = s.tasks := rfl
@[simp] theorem setCore_rings (k : Nat) (c : Core) : (setCore s k c).rings = s.rings := rfl
@[simp] theorem setCore_pkg (k : Nat) (c : Core) : (setCore s k c).pkg = s.pkg := rfl
@[simp] theorem setCore_domain (k : Nat) (c : Core) : (setCore s k c).domain = s.domain := rfl
@[simp] theorem setCore_feat0 (k : Nat) (c : Core) : (setCore s k c).feat0 = s.feat0 := rfl
@[simp] theorem setCore_feat1 (k : Nat) (c : Core) : (setCore s k c).feat1 = s.feat1 := rfl
@[simp] theorem setCore_fw (k : Nat) (c : Core) : (setCore s k c).fw = s.fw := rfl
@[simp] theorem setCore_host (k : Nat) (c : Core) : (setCore s k c).host = s.host := rfl
@[simp] theorem setCore_peers (k : Nat) (c : Core) : (setCore s k c).peers = s.peers := rfl
@[simp] theorem setCore_conns (k : Nat) (c : Core) : (setCore s k c).conns = s.conns := rfl
@[simp] theorem setCore_sent (k : Nat) (c : Core) : (setCore s k c).sent = s.sent := rfl
@[simp] theorem setCore_links (k : Nat) (c : Core) : (setCore s k c).links = s.links := rfl
@[simp] theorem setCore_nextProbe (k : Nat) (c : Core) : (setCore s k c).nextProbe = s.nextProbe := rfl
@[simp] theorem setCore_arrivals (k : Nat) (c : Core) : (setCore s k c).arrivals = s.arrivals := rfl
@[simp] theorem setCore_notes (k : Nat) (c : Core) : (setCore s k c).notes = s.notes := rfl
@[simp] theorem setCore_packets (k : Nat) (c : Core) : (setCore s k c).packets = s.packets := rfl
@[simp] theorem setCore_mailbox (k : Nat) (c : Core) : (setCore s k c).mailbox = s.mailbox := rfl
@[simp] theorem setCore_powered (k : Nat) (c : Core) : (setCore s k c).powered = s.powered := rfl
@[simp] theorem setCore_inputs (k : Nat) (c : Core) : (setCore s k c).inputs = s.inputs := rfl
@[simp] theorem setCore_stimuli (k : Nat) (c : Core) : (setCore s k c).stimuli = s.stimuli := rfl
@[simp] theorem setCore_oracle (k : Nat) (c : Core) : (setCore s k c).oracle = s.oracle := rfl
@[simp] theorem setCore_free (k : Nat) (c : Core) : (setCore s k c).free = s.free := rfl

/-! ## `setDie` changes `dies` alone -/

@[simp] theorem setDie_tempo (d : Nat) (x : Die) : (setDie s d x).tempo = s.tempo := rfl
@[simp] theorem setDie_cur (d : Nat) (x : Die) : (setDie s d x).cur = s.cur := rfl
@[simp] theorem setDie_cores (d : Nat) (x : Die) : (setDie s d x).cores = s.cores := rfl
@[simp] theorem setDie_dram (d : Nat) (x : Die) : (setDie s d x).dram = s.dram := rfl
@[simp] theorem setDie_hostMem (d : Nat) (x : Die) : (setDie s d x).hostMem = s.hostMem := rfl
@[simp] theorem setDie_memBad (d : Nat) (x : Die) : (setDie s d x).memBad = s.memBad := rfl
@[simp] theorem setDie_spaces (d : Nat) (x : Die) : (setDie s d x).spaces = s.spaces := rfl
@[simp] theorem setDie_tasks (d : Nat) (x : Die) : (setDie s d x).tasks = s.tasks := rfl
@[simp] theorem setDie_rings (d : Nat) (x : Die) : (setDie s d x).rings = s.rings := rfl
@[simp] theorem setDie_pkg (d : Nat) (x : Die) : (setDie s d x).pkg = s.pkg := rfl
@[simp] theorem setDie_domain (d : Nat) (x : Die) : (setDie s d x).domain = s.domain := rfl
@[simp] theorem setDie_feat0 (d : Nat) (x : Die) : (setDie s d x).feat0 = s.feat0 := rfl
@[simp] theorem setDie_feat1 (d : Nat) (x : Die) : (setDie s d x).feat1 = s.feat1 := rfl
@[simp] theorem setDie_fw (d : Nat) (x : Die) : (setDie s d x).fw = s.fw := rfl
@[simp] theorem setDie_host (d : Nat) (x : Die) : (setDie s d x).host = s.host := rfl
@[simp] theorem setDie_peers (d : Nat) (x : Die) : (setDie s d x).peers = s.peers := rfl
@[simp] theorem setDie_conns (d : Nat) (x : Die) : (setDie s d x).conns = s.conns := rfl
@[simp] theorem setDie_sent (d : Nat) (x : Die) : (setDie s d x).sent = s.sent := rfl
@[simp] theorem setDie_links (d : Nat) (x : Die) : (setDie s d x).links = s.links := rfl
@[simp] theorem setDie_nextProbe (d : Nat) (x : Die) : (setDie s d x).nextProbe = s.nextProbe := rfl
@[simp] theorem setDie_arrivals (d : Nat) (x : Die) : (setDie s d x).arrivals = s.arrivals := rfl
@[simp] theorem setDie_notes (d : Nat) (x : Die) : (setDie s d x).notes = s.notes := rfl
@[simp] theorem setDie_packets (d : Nat) (x : Die) : (setDie s d x).packets = s.packets := rfl
@[simp] theorem setDie_mailbox (d : Nat) (x : Die) : (setDie s d x).mailbox = s.mailbox := rfl
@[simp] theorem setDie_powered (d : Nat) (x : Die) : (setDie s d x).powered = s.powered := rfl
@[simp] theorem setDie_inputs (d : Nat) (x : Die) : (setDie s d x).inputs = s.inputs := rfl
@[simp] theorem setDie_stimuli (d : Nat) (x : Die) : (setDie s d x).stimuli = s.stimuli := rfl
@[simp] theorem setDie_oracle (d : Nat) (x : Die) : (setDie s d x).oracle = s.oracle := rfl
@[simp] theorem setDie_free (d : Nat) (x : Die) : (setDie s d x).free = s.free := rfl

/-! ## `setTask` changes `tasks` alone -/

@[simp] theorem setTask_tempo (t : Nat) (x : Task) : (setTask s t x).tempo = s.tempo := rfl
@[simp] theorem setTask_cur (t : Nat) (x : Task) : (setTask s t x).cur = s.cur := rfl
@[simp] theorem setTask_cores (t : Nat) (x : Task) : (setTask s t x).cores = s.cores := rfl
@[simp] theorem setTask_dies (t : Nat) (x : Task) : (setTask s t x).dies = s.dies := rfl
@[simp] theorem setTask_dram (t : Nat) (x : Task) : (setTask s t x).dram = s.dram := rfl
@[simp] theorem setTask_hostMem (t : Nat) (x : Task) : (setTask s t x).hostMem = s.hostMem := rfl
@[simp] theorem setTask_memBad (t : Nat) (x : Task) : (setTask s t x).memBad = s.memBad := rfl
@[simp] theorem setTask_spaces (t : Nat) (x : Task) : (setTask s t x).spaces = s.spaces := rfl
@[simp] theorem setTask_rings (t : Nat) (x : Task) : (setTask s t x).rings = s.rings := rfl
@[simp] theorem setTask_pkg (t : Nat) (x : Task) : (setTask s t x).pkg = s.pkg := rfl
@[simp] theorem setTask_domain (t : Nat) (x : Task) : (setTask s t x).domain = s.domain := rfl
@[simp] theorem setTask_feat0 (t : Nat) (x : Task) : (setTask s t x).feat0 = s.feat0 := rfl
@[simp] theorem setTask_feat1 (t : Nat) (x : Task) : (setTask s t x).feat1 = s.feat1 := rfl
@[simp] theorem setTask_fw (t : Nat) (x : Task) : (setTask s t x).fw = s.fw := rfl
@[simp] theorem setTask_host (t : Nat) (x : Task) : (setTask s t x).host = s.host := rfl
@[simp] theorem setTask_peers (t : Nat) (x : Task) : (setTask s t x).peers = s.peers := rfl
@[simp] theorem setTask_conns (t : Nat) (x : Task) : (setTask s t x).conns = s.conns := rfl
@[simp] theorem setTask_sent (t : Nat) (x : Task) : (setTask s t x).sent = s.sent := rfl
@[simp] theorem setTask_links (t : Nat) (x : Task) : (setTask s t x).links = s.links := rfl
@[simp] theorem setTask_nextProbe (t : Nat) (x : Task) : (setTask s t x).nextProbe = s.nextProbe := rfl
@[simp] theorem setTask_arrivals (t : Nat) (x : Task) : (setTask s t x).arrivals = s.arrivals := rfl
@[simp] theorem setTask_notes (t : Nat) (x : Task) : (setTask s t x).notes = s.notes := rfl
@[simp] theorem setTask_packets (t : Nat) (x : Task) : (setTask s t x).packets = s.packets := rfl
@[simp] theorem setTask_mailbox (t : Nat) (x : Task) : (setTask s t x).mailbox = s.mailbox := rfl
@[simp] theorem setTask_powered (t : Nat) (x : Task) : (setTask s t x).powered = s.powered := rfl
@[simp] theorem setTask_inputs (t : Nat) (x : Task) : (setTask s t x).inputs = s.inputs := rfl
@[simp] theorem setTask_stimuli (t : Nat) (x : Task) : (setTask s t x).stimuli = s.stimuli := rfl
@[simp] theorem setTask_oracle (t : Nat) (x : Task) : (setTask s t x).oracle = s.oracle := rfl
@[simp] theorem setTask_free (t : Nat) (x : Task) : (setTask s t x).free = s.free := rfl

/-! ## `updRing` changes `rings` alone -/

@[simp] theorem updRing_tempo (r : Nat) (f : Ring → Ring) : (updRing r f s).tempo = s.tempo := rfl
@[simp] theorem updRing_cur (r : Nat) (f : Ring → Ring) : (updRing r f s).cur = s.cur := rfl
@[simp] theorem updRing_cores (r : Nat) (f : Ring → Ring) : (updRing r f s).cores = s.cores := rfl
@[simp] theorem updRing_dies (r : Nat) (f : Ring → Ring) : (updRing r f s).dies = s.dies := rfl
@[simp] theorem updRing_dram (r : Nat) (f : Ring → Ring) : (updRing r f s).dram = s.dram := rfl
@[simp] theorem updRing_hostMem (r : Nat) (f : Ring → Ring) : (updRing r f s).hostMem = s.hostMem := rfl
@[simp] theorem updRing_memBad (r : Nat) (f : Ring → Ring) : (updRing r f s).memBad = s.memBad := rfl
@[simp] theorem updRing_spaces (r : Nat) (f : Ring → Ring) : (updRing r f s).spaces = s.spaces := rfl
@[simp] theorem updRing_tasks (r : Nat) (f : Ring → Ring) : (updRing r f s).tasks = s.tasks := rfl
@[simp] theorem updRing_pkg (r : Nat) (f : Ring → Ring) : (updRing r f s).pkg = s.pkg := rfl
@[simp] theorem updRing_domain (r : Nat) (f : Ring → Ring) : (updRing r f s).domain = s.domain := rfl
@[simp] theorem updRing_feat0 (r : Nat) (f : Ring → Ring) : (updRing r f s).feat0 = s.feat0 := rfl
@[simp] theorem updRing_feat1 (r : Nat) (f : Ring → Ring) : (updRing r f s).feat1 = s.feat1 := rfl
@[simp] theorem updRing_fw (r : Nat) (f : Ring → Ring) : (updRing r f s).fw = s.fw := rfl
@[simp] theorem updRing_host (r : Nat) (f : Ring → Ring) : (updRing r f s).host = s.host := rfl
@[simp] theorem updRing_peers (r : Nat) (f : Ring → Ring) : (updRing r f s).peers = s.peers := rfl
@[simp] theorem updRing_conns (r : Nat) (f : Ring → Ring) : (updRing r f s).conns = s.conns := rfl
@[simp] theorem updRing_sent (r : Nat) (f : Ring → Ring) : (updRing r f s).sent = s.sent := rfl
@[simp] theorem updRing_links (r : Nat) (f : Ring → Ring) : (updRing r f s).links = s.links := rfl
@[simp] theorem updRing_nextProbe (r : Nat) (f : Ring → Ring) : (updRing r f s).nextProbe = s.nextProbe := rfl
@[simp] theorem updRing_arrivals (r : Nat) (f : Ring → Ring) : (updRing r f s).arrivals = s.arrivals := rfl
@[simp] theorem updRing_notes (r : Nat) (f : Ring → Ring) : (updRing r f s).notes = s.notes := rfl
@[simp] theorem updRing_packets (r : Nat) (f : Ring → Ring) : (updRing r f s).packets = s.packets := rfl
@[simp] theorem updRing_mailbox (r : Nat) (f : Ring → Ring) : (updRing r f s).mailbox = s.mailbox := rfl
@[simp] theorem updRing_powered (r : Nat) (f : Ring → Ring) : (updRing r f s).powered = s.powered := rfl
@[simp] theorem updRing_inputs (r : Nat) (f : Ring → Ring) : (updRing r f s).inputs = s.inputs := rfl
@[simp] theorem updRing_stimuli (r : Nat) (f : Ring → Ring) : (updRing r f s).stimuli = s.stimuli := rfl
@[simp] theorem updRing_oracle (r : Nat) (f : Ring → Ring) : (updRing r f s).oracle = s.oracle := rfl
@[simp] theorem updRing_free (r : Nat) (f : Ring → Ring) : (updRing r f s).free = s.free := rfl

/-! ## `updSpace` changes `spaces` alone -/

@[simp] theorem updSpace_tempo (a : Nat) (f : Space → Space) : (updSpace a f s).tempo = s.tempo := rfl
@[simp] theorem updSpace_cur (a : Nat) (f : Space → Space) : (updSpace a f s).cur = s.cur := rfl
@[simp] theorem updSpace_cores (a : Nat) (f : Space → Space) : (updSpace a f s).cores = s.cores := rfl
@[simp] theorem updSpace_dies (a : Nat) (f : Space → Space) : (updSpace a f s).dies = s.dies := rfl
@[simp] theorem updSpace_dram (a : Nat) (f : Space → Space) : (updSpace a f s).dram = s.dram := rfl
@[simp] theorem updSpace_hostMem (a : Nat) (f : Space → Space) : (updSpace a f s).hostMem = s.hostMem := rfl
@[simp] theorem updSpace_memBad (a : Nat) (f : Space → Space) : (updSpace a f s).memBad = s.memBad := rfl
@[simp] theorem updSpace_tasks (a : Nat) (f : Space → Space) : (updSpace a f s).tasks = s.tasks := rfl
@[simp] theorem updSpace_rings (a : Nat) (f : Space → Space) : (updSpace a f s).rings = s.rings := rfl
@[simp] theorem updSpace_pkg (a : Nat) (f : Space → Space) : (updSpace a f s).pkg = s.pkg := rfl
@[simp] theorem updSpace_domain (a : Nat) (f : Space → Space) : (updSpace a f s).domain = s.domain := rfl
@[simp] theorem updSpace_feat0 (a : Nat) (f : Space → Space) : (updSpace a f s).feat0 = s.feat0 := rfl
@[simp] theorem updSpace_feat1 (a : Nat) (f : Space → Space) : (updSpace a f s).feat1 = s.feat1 := rfl
@[simp] theorem updSpace_fw (a : Nat) (f : Space → Space) : (updSpace a f s).fw = s.fw := rfl
@[simp] theorem updSpace_host (a : Nat) (f : Space → Space) : (updSpace a f s).host = s.host := rfl
@[simp] theorem updSpace_peers (a : Nat) (f : Space → Space) : (updSpace a f s).peers = s.peers := rfl
@[simp] theorem updSpace_conns (a : Nat) (f : Space → Space) : (updSpace a f s).conns = s.conns := rfl
@[simp] theorem updSpace_sent (a : Nat) (f : Space → Space) : (updSpace a f s).sent = s.sent := rfl
@[simp] theorem updSpace_links (a : Nat) (f : Space → Space) : (updSpace a f s).links = s.links := rfl
@[simp] theorem updSpace_nextProbe (a : Nat) (f : Space → Space) : (updSpace a f s).nextProbe = s.nextProbe := rfl
@[simp] theorem updSpace_arrivals (a : Nat) (f : Space → Space) : (updSpace a f s).arrivals = s.arrivals := rfl
@[simp] theorem updSpace_notes (a : Nat) (f : Space → Space) : (updSpace a f s).notes = s.notes := rfl
@[simp] theorem updSpace_packets (a : Nat) (f : Space → Space) : (updSpace a f s).packets = s.packets := rfl
@[simp] theorem updSpace_mailbox (a : Nat) (f : Space → Space) : (updSpace a f s).mailbox = s.mailbox := rfl
@[simp] theorem updSpace_powered (a : Nat) (f : Space → Space) : (updSpace a f s).powered = s.powered := rfl
@[simp] theorem updSpace_inputs (a : Nat) (f : Space → Space) : (updSpace a f s).inputs = s.inputs := rfl
@[simp] theorem updSpace_stimuli (a : Nat) (f : Space → Space) : (updSpace a f s).stimuli = s.stimuli := rfl
@[simp] theorem updSpace_oracle (a : Nat) (f : Space → Space) : (updSpace a f s).oracle = s.oracle := rfl
@[simp] theorem updSpace_free (a : Nat) (f : Space → Space) : (updSpace a f s).free = s.free := rfl

/-! ## `updCore` changes `cores` alone -/

@[simp] theorem updCore_tempo (f : Core → Core) : (updCore f s).tempo = s.tempo := rfl
@[simp] theorem updCore_cur (f : Core → Core) : (updCore f s).cur = s.cur := rfl
@[simp] theorem updCore_dies (f : Core → Core) : (updCore f s).dies = s.dies := rfl
@[simp] theorem updCore_dram (f : Core → Core) : (updCore f s).dram = s.dram := rfl
@[simp] theorem updCore_hostMem (f : Core → Core) : (updCore f s).hostMem = s.hostMem := rfl
@[simp] theorem updCore_memBad (f : Core → Core) : (updCore f s).memBad = s.memBad := rfl
@[simp] theorem updCore_spaces (f : Core → Core) : (updCore f s).spaces = s.spaces := rfl
@[simp] theorem updCore_tasks (f : Core → Core) : (updCore f s).tasks = s.tasks := rfl
@[simp] theorem updCore_rings (f : Core → Core) : (updCore f s).rings = s.rings := rfl
@[simp] theorem updCore_pkg (f : Core → Core) : (updCore f s).pkg = s.pkg := rfl
@[simp] theorem updCore_domain (f : Core → Core) : (updCore f s).domain = s.domain := rfl
@[simp] theorem updCore_feat0 (f : Core → Core) : (updCore f s).feat0 = s.feat0 := rfl
@[simp] theorem updCore_feat1 (f : Core → Core) : (updCore f s).feat1 = s.feat1 := rfl
@[simp] theorem updCore_fw (f : Core → Core) : (updCore f s).fw = s.fw := rfl
@[simp] theorem updCore_host (f : Core → Core) : (updCore f s).host = s.host := rfl
@[simp] theorem updCore_peers (f : Core → Core) : (updCore f s).peers = s.peers := rfl
@[simp] theorem updCore_conns (f : Core → Core) : (updCore f s).conns = s.conns := rfl
@[simp] theorem updCore_sent (f : Core → Core) : (updCore f s).sent = s.sent := rfl
@[simp] theorem updCore_links (f : Core → Core) : (updCore f s).links = s.links := rfl
@[simp] theorem updCore_nextProbe (f : Core → Core) : (updCore f s).nextProbe = s.nextProbe := rfl
@[simp] theorem updCore_arrivals (f : Core → Core) : (updCore f s).arrivals = s.arrivals := rfl
@[simp] theorem updCore_notes (f : Core → Core) : (updCore f s).notes = s.notes := rfl
@[simp] theorem updCore_packets (f : Core → Core) : (updCore f s).packets = s.packets := rfl
@[simp] theorem updCore_mailbox (f : Core → Core) : (updCore f s).mailbox = s.mailbox := rfl
@[simp] theorem updCore_powered (f : Core → Core) : (updCore f s).powered = s.powered := rfl
@[simp] theorem updCore_inputs (f : Core → Core) : (updCore f s).inputs = s.inputs := rfl
@[simp] theorem updCore_stimuli (f : Core → Core) : (updCore f s).stimuli = s.stimuli := rfl
@[simp] theorem updCore_oracle (f : Core → Core) : (updCore f s).oracle = s.oracle := rfl
@[simp] theorem updCore_free (f : Core → Core) : (updCore f s).free = s.free := rfl

/-! ## `updCoreAt` changes `cores` alone -/

@[simp] theorem updCoreAt_tempo (k : Nat) (f : Core → Core) : (updCoreAt k f s).tempo = s.tempo := rfl
@[simp] theorem updCoreAt_cur (k : Nat) (f : Core → Core) : (updCoreAt k f s).cur = s.cur := rfl
@[simp] theorem updCoreAt_dies (k : Nat) (f : Core → Core) : (updCoreAt k f s).dies = s.dies := rfl
@[simp] theorem updCoreAt_dram (k : Nat) (f : Core → Core) : (updCoreAt k f s).dram = s.dram := rfl
@[simp] theorem updCoreAt_hostMem (k : Nat) (f : Core → Core) : (updCoreAt k f s).hostMem = s.hostMem := rfl
@[simp] theorem updCoreAt_memBad (k : Nat) (f : Core → Core) : (updCoreAt k f s).memBad = s.memBad := rfl
@[simp] theorem updCoreAt_spaces (k : Nat) (f : Core → Core) : (updCoreAt k f s).spaces = s.spaces := rfl
@[simp] theorem updCoreAt_tasks (k : Nat) (f : Core → Core) : (updCoreAt k f s).tasks = s.tasks := rfl
@[simp] theorem updCoreAt_rings (k : Nat) (f : Core → Core) : (updCoreAt k f s).rings = s.rings := rfl
@[simp] theorem updCoreAt_pkg (k : Nat) (f : Core → Core) : (updCoreAt k f s).pkg = s.pkg := rfl
@[simp] theorem updCoreAt_domain (k : Nat) (f : Core → Core) : (updCoreAt k f s).domain = s.domain := rfl
@[simp] theorem updCoreAt_feat0 (k : Nat) (f : Core → Core) : (updCoreAt k f s).feat0 = s.feat0 := rfl
@[simp] theorem updCoreAt_feat1 (k : Nat) (f : Core → Core) : (updCoreAt k f s).feat1 = s.feat1 := rfl
@[simp] theorem updCoreAt_fw (k : Nat) (f : Core → Core) : (updCoreAt k f s).fw = s.fw := rfl
@[simp] theorem updCoreAt_host (k : Nat) (f : Core → Core) : (updCoreAt k f s).host = s.host := rfl
@[simp] theorem updCoreAt_peers (k : Nat) (f : Core → Core) : (updCoreAt k f s).peers = s.peers := rfl
@[simp] theorem updCoreAt_conns (k : Nat) (f : Core → Core) : (updCoreAt k f s).conns = s.conns := rfl
@[simp] theorem updCoreAt_sent (k : Nat) (f : Core → Core) : (updCoreAt k f s).sent = s.sent := rfl
@[simp] theorem updCoreAt_links (k : Nat) (f : Core → Core) : (updCoreAt k f s).links = s.links := rfl
@[simp] theorem updCoreAt_nextProbe (k : Nat) (f : Core → Core) : (updCoreAt k f s).nextProbe = s.nextProbe := rfl
@[simp] theorem updCoreAt_arrivals (k : Nat) (f : Core → Core) : (updCoreAt k f s).arrivals = s.arrivals := rfl
@[simp] theorem updCoreAt_notes (k : Nat) (f : Core → Core) : (updCoreAt k f s).notes = s.notes := rfl
@[simp] theorem updCoreAt_packets (k : Nat) (f : Core → Core) : (updCoreAt k f s).packets = s.packets := rfl
@[simp] theorem updCoreAt_mailbox (k : Nat) (f : Core → Core) : (updCoreAt k f s).mailbox = s.mailbox := rfl
@[simp] theorem updCoreAt_powered (k : Nat) (f : Core → Core) : (updCoreAt k f s).powered = s.powered := rfl
@[simp] theorem updCoreAt_inputs (k : Nat) (f : Core → Core) : (updCoreAt k f s).inputs = s.inputs := rfl
@[simp] theorem updCoreAt_stimuli (k : Nat) (f : Core → Core) : (updCoreAt k f s).stimuli = s.stimuli := rfl
@[simp] theorem updCoreAt_oracle (k : Nat) (f : Core → Core) : (updCoreAt k f s).oracle = s.oracle := rfl
@[simp] theorem updCoreAt_free (k : Nat) (f : Core → Core) : (updCoreAt k f s).free = s.free := rfl

/-! ## `updDie` changes `dies` alone -/

@[simp] theorem updDie_tempo (d : Nat) (f : Die → Die) : (updDie d f s).tempo = s.tempo := rfl
@[simp] theorem updDie_cur (d : Nat) (f : Die → Die) : (updDie d f s).cur = s.cur := rfl
@[simp] theorem updDie_cores (d : Nat) (f : Die → Die) : (updDie d f s).cores = s.cores := rfl
@[simp] theorem updDie_dram (d : Nat) (f : Die → Die) : (updDie d f s).dram = s.dram := rfl
@[simp] theorem updDie_hostMem (d : Nat) (f : Die → Die) : (updDie d f s).hostMem = s.hostMem := rfl
@[simp] theorem updDie_memBad (d : Nat) (f : Die → Die) : (updDie d f s).memBad = s.memBad := rfl
@[simp] theorem updDie_spaces (d : Nat) (f : Die → Die) : (updDie d f s).spaces = s.spaces := rfl
@[simp] theorem updDie_tasks (d : Nat) (f : Die → Die) : (updDie d f s).tasks = s.tasks := rfl
@[simp] theorem updDie_rings (d : Nat) (f : Die → Die) : (updDie d f s).rings = s.rings := rfl
@[simp] theorem updDie_pkg (d : Nat) (f : Die → Die) : (updDie d f s).pkg = s.pkg := rfl
@[simp] theorem updDie_domain (d : Nat) (f : Die → Die) : (updDie d f s).domain = s.domain := rfl
@[simp] theorem updDie_feat0 (d : Nat) (f : Die → Die) : (updDie d f s).feat0 = s.feat0 := rfl
@[simp] theorem updDie_feat1 (d : Nat) (f : Die → Die) : (updDie d f s).feat1 = s.feat1 := rfl
@[simp] theorem updDie_fw (d : Nat) (f : Die → Die) : (updDie d f s).fw = s.fw := rfl
@[simp] theorem updDie_host (d : Nat) (f : Die → Die) : (updDie d f s).host = s.host := rfl
@[simp] theorem updDie_peers (d : Nat) (f : Die → Die) : (updDie d f s).peers = s.peers := rfl
@[simp] theorem updDie_conns (d : Nat) (f : Die → Die) : (updDie d f s).conns = s.conns := rfl
@[simp] theorem updDie_sent (d : Nat) (f : Die → Die) : (updDie d f s).sent = s.sent := rfl
@[simp] theorem updDie_links (d : Nat) (f : Die → Die) : (updDie d f s).links = s.links := rfl
@[simp] theorem updDie_nextProbe (d : Nat) (f : Die → Die) : (updDie d f s).nextProbe = s.nextProbe := rfl
@[simp] theorem updDie_arrivals (d : Nat) (f : Die → Die) : (updDie d f s).arrivals = s.arrivals := rfl
@[simp] theorem updDie_notes (d : Nat) (f : Die → Die) : (updDie d f s).notes = s.notes := rfl
@[simp] theorem updDie_packets (d : Nat) (f : Die → Die) : (updDie d f s).packets = s.packets := rfl
@[simp] theorem updDie_mailbox (d : Nat) (f : Die → Die) : (updDie d f s).mailbox = s.mailbox := rfl
@[simp] theorem updDie_powered (d : Nat) (f : Die → Die) : (updDie d f s).powered = s.powered := rfl
@[simp] theorem updDie_inputs (d : Nat) (f : Die → Die) : (updDie d f s).inputs = s.inputs := rfl
@[simp] theorem updDie_stimuli (d : Nat) (f : Die → Die) : (updDie d f s).stimuli = s.stimuli := rfl
@[simp] theorem updDie_oracle (d : Nat) (f : Die → Die) : (updDie d f s).oracle = s.oracle := rfl
@[simp] theorem updDie_free (d : Nat) (f : Die → Die) : (updDie d f s).free = s.free := rfl

/-! ## `updTask` changes `tasks` alone -/

@[simp] theorem updTask_tempo (t : Nat) (f : Task → Task) : (updTask t f s).tempo = s.tempo := rfl
@[simp] theorem updTask_cur (t : Nat) (f : Task → Task) : (updTask t f s).cur = s.cur := rfl
@[simp] theorem updTask_cores (t : Nat) (f : Task → Task) : (updTask t f s).cores = s.cores := rfl
@[simp] theorem updTask_dies (t : Nat) (f : Task → Task) : (updTask t f s).dies = s.dies := rfl
@[simp] theorem updTask_dram (t : Nat) (f : Task → Task) : (updTask t f s).dram = s.dram := rfl
@[simp] theorem updTask_hostMem (t : Nat) (f : Task → Task) : (updTask t f s).hostMem = s.hostMem := rfl
@[simp] theorem updTask_memBad (t : Nat) (f : Task → Task) : (updTask t f s).memBad = s.memBad := rfl
@[simp] theorem updTask_spaces (t : Nat) (f : Task → Task) : (updTask t f s).spaces = s.spaces := rfl
@[simp] theorem updTask_rings (t : Nat) (f : Task → Task) : (updTask t f s).rings = s.rings := rfl
@[simp] theorem updTask_pkg (t : Nat) (f : Task → Task) : (updTask t f s).pkg = s.pkg := rfl
@[simp] theorem updTask_domain (t : Nat) (f : Task → Task) : (updTask t f s).domain = s.domain := rfl
@[simp] theorem updTask_feat0 (t : Nat) (f : Task → Task) : (updTask t f s).feat0 = s.feat0 := rfl
@[simp] theorem updTask_feat1 (t : Nat) (f : Task → Task) : (updTask t f s).feat1 = s.feat1 := rfl
@[simp] theorem updTask_fw (t : Nat) (f : Task → Task) : (updTask t f s).fw = s.fw := rfl
@[simp] theorem updTask_host (t : Nat) (f : Task → Task) : (updTask t f s).host = s.host := rfl
@[simp] theorem updTask_peers (t : Nat) (f : Task → Task) : (updTask t f s).peers = s.peers := rfl
@[simp] theorem updTask_conns (t : Nat) (f : Task → Task) : (updTask t f s).conns = s.conns := rfl
@[simp] theorem updTask_sent (t : Nat) (f : Task → Task) : (updTask t f s).sent = s.sent := rfl
@[simp] theorem updTask_links (t : Nat) (f : Task → Task) : (updTask t f s).links = s.links := rfl
@[simp] theorem updTask_nextProbe (t : Nat) (f : Task → Task) : (updTask t f s).nextProbe = s.nextProbe := rfl
@[simp] theorem updTask_arrivals (t : Nat) (f : Task → Task) : (updTask t f s).arrivals = s.arrivals := rfl
@[simp] theorem updTask_notes (t : Nat) (f : Task → Task) : (updTask t f s).notes = s.notes := rfl
@[simp] theorem updTask_packets (t : Nat) (f : Task → Task) : (updTask t f s).packets = s.packets := rfl
@[simp] theorem updTask_mailbox (t : Nat) (f : Task → Task) : (updTask t f s).mailbox = s.mailbox := rfl
@[simp] theorem updTask_powered (t : Nat) (f : Task → Task) : (updTask t f s).powered = s.powered := rfl
@[simp] theorem updTask_inputs (t : Nat) (f : Task → Task) : (updTask t f s).inputs = s.inputs := rfl
@[simp] theorem updTask_stimuli (t : Nat) (f : Task → Task) : (updTask t f s).stimuli = s.stimuli := rfl
@[simp] theorem updTask_oracle (t : Nat) (f : Task → Task) : (updTask t f s).oracle = s.oracle := rfl
@[simp] theorem updTask_free (t : Nat) (f : Task → Task) : (updTask t f s).free = s.free := rfl

/-! ## `updCtx` changes `cores` alone -/

@[simp] theorem updCtx_tempo (f : Ctx → Ctx) : (updCtx f s).tempo = s.tempo := rfl
@[simp] theorem updCtx_cur (f : Ctx → Ctx) : (updCtx f s).cur = s.cur := rfl
@[simp] theorem updCtx_dies (f : Ctx → Ctx) : (updCtx f s).dies = s.dies := rfl
@[simp] theorem updCtx_dram (f : Ctx → Ctx) : (updCtx f s).dram = s.dram := rfl
@[simp] theorem updCtx_hostMem (f : Ctx → Ctx) : (updCtx f s).hostMem = s.hostMem := rfl
@[simp] theorem updCtx_memBad (f : Ctx → Ctx) : (updCtx f s).memBad = s.memBad := rfl
@[simp] theorem updCtx_spaces (f : Ctx → Ctx) : (updCtx f s).spaces = s.spaces := rfl
@[simp] theorem updCtx_tasks (f : Ctx → Ctx) : (updCtx f s).tasks = s.tasks := rfl
@[simp] theorem updCtx_rings (f : Ctx → Ctx) : (updCtx f s).rings = s.rings := rfl
@[simp] theorem updCtx_pkg (f : Ctx → Ctx) : (updCtx f s).pkg = s.pkg := rfl
@[simp] theorem updCtx_domain (f : Ctx → Ctx) : (updCtx f s).domain = s.domain := rfl
@[simp] theorem updCtx_feat0 (f : Ctx → Ctx) : (updCtx f s).feat0 = s.feat0 := rfl
@[simp] theorem updCtx_feat1 (f : Ctx → Ctx) : (updCtx f s).feat1 = s.feat1 := rfl
@[simp] theorem updCtx_fw (f : Ctx → Ctx) : (updCtx f s).fw = s.fw := rfl
@[simp] theorem updCtx_host (f : Ctx → Ctx) : (updCtx f s).host = s.host := rfl
@[simp] theorem updCtx_peers (f : Ctx → Ctx) : (updCtx f s).peers = s.peers := rfl
@[simp] theorem updCtx_conns (f : Ctx → Ctx) : (updCtx f s).conns = s.conns := rfl
@[simp] theorem updCtx_sent (f : Ctx → Ctx) : (updCtx f s).sent = s.sent := rfl
@[simp] theorem updCtx_links (f : Ctx → Ctx) : (updCtx f s).links = s.links := rfl
@[simp] theorem updCtx_nextProbe (f : Ctx → Ctx) : (updCtx f s).nextProbe = s.nextProbe := rfl
@[simp] theorem updCtx_arrivals (f : Ctx → Ctx) : (updCtx f s).arrivals = s.arrivals := rfl
@[simp] theorem updCtx_notes (f : Ctx → Ctx) : (updCtx f s).notes = s.notes := rfl
@[simp] theorem updCtx_packets (f : Ctx → Ctx) : (updCtx f s).packets = s.packets := rfl
@[simp] theorem updCtx_mailbox (f : Ctx → Ctx) : (updCtx f s).mailbox = s.mailbox := rfl
@[simp] theorem updCtx_powered (f : Ctx → Ctx) : (updCtx f s).powered = s.powered := rfl
@[simp] theorem updCtx_inputs (f : Ctx → Ctx) : (updCtx f s).inputs = s.inputs := rfl
@[simp] theorem updCtx_stimuli (f : Ctx → Ctx) : (updCtx f s).stimuli = s.stimuli := rfl
@[simp] theorem updCtx_oracle (f : Ctx → Ctx) : (updCtx f s).oracle = s.oracle := rfl
@[simp] theorem updCtx_free (f : Ctx → Ctx) : (updCtx f s).free = s.free := rfl

/-! ## `updSeg` changes `cores` alone -/

@[simp] theorem updSeg_tempo (f : Seg → Seg) : (updSeg f s).tempo = s.tempo := rfl
@[simp] theorem updSeg_cur (f : Seg → Seg) : (updSeg f s).cur = s.cur := rfl
@[simp] theorem updSeg_dies (f : Seg → Seg) : (updSeg f s).dies = s.dies := rfl
@[simp] theorem updSeg_dram (f : Seg → Seg) : (updSeg f s).dram = s.dram := rfl
@[simp] theorem updSeg_hostMem (f : Seg → Seg) : (updSeg f s).hostMem = s.hostMem := rfl
@[simp] theorem updSeg_memBad (f : Seg → Seg) : (updSeg f s).memBad = s.memBad := rfl
@[simp] theorem updSeg_spaces (f : Seg → Seg) : (updSeg f s).spaces = s.spaces := rfl
@[simp] theorem updSeg_tasks (f : Seg → Seg) : (updSeg f s).tasks = s.tasks := rfl
@[simp] theorem updSeg_rings (f : Seg → Seg) : (updSeg f s).rings = s.rings := rfl
@[simp] theorem updSeg_pkg (f : Seg → Seg) : (updSeg f s).pkg = s.pkg := rfl
@[simp] theorem updSeg_domain (f : Seg → Seg) : (updSeg f s).domain = s.domain := rfl
@[simp] theorem updSeg_feat0 (f : Seg → Seg) : (updSeg f s).feat0 = s.feat0 := rfl
@[simp] theorem updSeg_feat1 (f : Seg → Seg) : (updSeg f s).feat1 = s.feat1 := rfl
@[simp] theorem updSeg_fw (f : Seg → Seg) : (updSeg f s).fw = s.fw := rfl
@[simp] theorem updSeg_host (f : Seg → Seg) : (updSeg f s).host = s.host := rfl
@[simp] theorem updSeg_peers (f : Seg → Seg) : (updSeg f s).peers = s.peers := rfl
@[simp] theorem updSeg_conns (f : Seg → Seg) : (updSeg f s).conns = s.conns := rfl
@[simp] theorem updSeg_sent (f : Seg → Seg) : (updSeg f s).sent = s.sent := rfl
@[simp] theorem updSeg_links (f : Seg → Seg) : (updSeg f s).links = s.links := rfl
@[simp] theorem updSeg_nextProbe (f : Seg → Seg) : (updSeg f s).nextProbe = s.nextProbe := rfl
@[simp] theorem updSeg_arrivals (f : Seg → Seg) : (updSeg f s).arrivals = s.arrivals := rfl
@[simp] theorem updSeg_notes (f : Seg → Seg) : (updSeg f s).notes = s.notes := rfl
@[simp] theorem updSeg_packets (f : Seg → Seg) : (updSeg f s).packets = s.packets := rfl
@[simp] theorem updSeg_mailbox (f : Seg → Seg) : (updSeg f s).mailbox = s.mailbox := rfl
@[simp] theorem updSeg_powered (f : Seg → Seg) : (updSeg f s).powered = s.powered := rfl
@[simp] theorem updSeg_inputs (f : Seg → Seg) : (updSeg f s).inputs = s.inputs := rfl
@[simp] theorem updSeg_stimuli (f : Seg → Seg) : (updSeg f s).stimuli = s.stimuli := rfl
@[simp] theorem updSeg_oracle (f : Seg → Seg) : (updSeg f s).oracle = s.oracle := rfl
@[simp] theorem updSeg_free (f : Seg → Seg) : (updSeg f s).free = s.free := rfl

@[simp] theorem focus_cur (k : Nat) : (focus k s).cur = k := rfl

/-! ## What the accessors give after an update -/

theorem getCore_setCore (k j : Nat) (c : Core) :
    getCore (setCore s k c) j = if j = k then c else getCore s j := KMap.get_set ..
@[simp] theorem getCore_setCore_same (k : Nat) (c : Core) : getCore (setCore s k c) k = c := KMap.get_set_same ..
theorem getDie_setDie (d j : Nat) (x : Die) : getDie (setDie s d x) j = if j = d then x else getDie s j :=
  KMap.get_set ..
@[simp] theorem getDie_setDie_same (d : Nat) (x : Die) : getDie (setDie s d x) d = x := KMap.get_set_same ..
theorem getTask_setTask (t j : Nat) (x : Task) : getTask (setTask s t x) j = if j = t then x else getTask s j :=
  KMap.get_set ..
@[simp] theorem getTask_setTask_same (t : Nat) (x : Task) : getTask (setTask s t x) t = x := KMap.get_set_same ..
theorem getRing_updRing (r j : Nat) (f : Ring → Ring) :
    getRing (updRing r f s) j = if j = r then f (getRing s r) else getRing s j := KMap.get_set ..
theorem getSpace_updSpace (a j : Nat) (f : Space → Space) :
    getSpace (updSpace a f s) j = if j = a then f (getSpace s a) else getSpace s j := KMap.get_set ..

@[simp] theorem getCore_focus (k j : Nat) : getCore (focus k s) j = getCore s j := rfl
@[simp] theorem getDie_setCore (k d : Nat) (c : Core) : getDie (setCore s k c) d = getDie s d := rfl
@[simp] theorem getCore_setDie (d k : Nat) (x : Die) : getCore (setDie s d x) k = getCore s k := rfl
@[simp] theorem getCore_setTask (t k : Nat) (x : Task) : getCore (setTask s t x) k = getCore s k := rfl
@[simp] theorem getTask_setCore (k t : Nat) (c : Core) : getTask (setCore s k c) t = getTask s t := rfl

theorem getCore_updCore (f : Core → Core) (k : Nat) :
    getCore (updCore f s) k = if k = s.cur then f (curCore s) else getCore s k := KMap.get_set ..
@[simp] theorem curCore_updCore (f : Core → Core) : curCore (updCore f s) = f (curCore s) := KMap.get_set_same ..
@[simp] theorem curCtx_updCore (f : Core → Core) : curCtx (updCore f s) = (f (curCore s)).ctx :=
  congrArg Core.ctx (KMap.get_set_same ..)
@[simp] theorem curCore_updCtx (f : Ctx → Ctx) :
    curCore (updCtx f s) = { curCore s with ctx := f (curCtx s) } := KMap.get_set_same ..
@[simp] theorem curCtx_updCtx (f : Ctx → Ctx) : curCtx (updCtx f s) = f (curCtx s) :=
  congrArg Core.ctx (KMap.get_set_same ..)
@[simp] theorem curCtx_updSeg (f : Seg → Seg) :
    curCtx (updSeg f s) = { curCtx s with seg := f (curCtx s).seg } := congrArg Core.ctx (KMap.get_set_same ..)
@[simp] theorem curCore_setCore (c : Core) : curCore (setCore s s.cur c) = c := KMap.get_set_same ..

/-! ## Registers -/

@[simp] theorem Regs.read_zero (r : Regs) : r.read 0 = 0 := rfl
@[simp] theorem Regs.write_zero (v : Word) (r : Regs) : Regs.write 0 v r = r := rfl
theorem Regs.read_write (r : Regs) (n m : Nat) (v : Word) :
    (Regs.write n v r).read m = if m = n ∧ n ≠ 0 then v else r.read m := by
  unfold Regs.write Regs.read
  by_cases hn : n = 0 <;> by_cases hm : m = 0 <;> simp [hn, hm, KMap.get_set]
  omega
@[simp] theorem Regs.write_bt (n : Nat) (v : Word) (r : Regs) : (Regs.write n v r).bt = r.bt := by
  unfold Regs.write; split <;> rfl
@[simp] theorem Regs.write_p (n : Nat) (v : Word) (r : Regs) : (Regs.write n v r).p = r.p := by
  unfold Regs.write; split <;> rfl
@[simp] theorem Regs.write_pc (n : Nat) (v : Word) (r : Regs) : (Regs.write n v r).pc = r.pc := by
  unfold Regs.write; split <;> rfl

/-- A change of the running register set, field by field. -/
theorem updRegs_eq (f : Regs → Regs) (c : Ctx) :
    updRegs f c = { c with
      main := if c.inShadow then c.main else f c.main, shadow := if c.inShadow then f c.shadow else c.shadow } := by
  unfold updRegs; split <;> simp_all
@[simp] theorem regs_updRegs (f : Regs → Regs) (c : Ctx) : regs (updRegs f c) = f (regs c) := by
  unfold regs updRegs; split <;> simp_all
/-- The note of a written register changes the mask alone. -/
theorem noteMain_eq (b : Nat) (c : Ctx) : noteMain b c = { c with wmask := (noteMain b c).wmask } := by
  unfold noteMain; split <;> rfl
theorem noteWrite_eq (b : Nat) (c : Ctx) : noteWrite b c = { c with wmask := (noteWrite b c).wmask } := by
  unfold noteWrite; split
  · rfl
  · exact noteMain_eq b c
@[simp] theorem regs_noteMain (b : Nat) (c : Ctx) : regs (noteMain b c) = regs c := by
  unfold noteMain; split <;> rfl
@[simp] theorem regs_noteWrite (b : Nat) (c : Ctx) : regs (noteWrite b c) = regs c := by
  unfold noteWrite; split
  · rfl
  · exact regs_noteMain b c
@[simp] theorem noteMain_inShadow (b : Nat) (c : Ctx) : (noteMain b c).inShadow = c.inShadow := by
  unfold noteMain; split <;> rfl
@[simp] theorem updRegs_inShadow (f : Regs → Regs) (c : Ctx) : (updRegs f c).inShadow = c.inShadow := by
  unfold updRegs; split <;> rfl
@[simp] theorem noteWrite_inShadow (b : Nat) (c : Ctx) : (noteWrite b c).inShadow = c.inShadow := by
  unfold noteWrite; split
  · rfl
  · exact noteMain_inShadow b c

end Sys2Proof.Machine
end

