-- ==== Sys2Proof/Laws/Frame.lean ====
section
/-! SUPPORT. What the shared operations of the control core change, said once for each: the vocabulary of
`Sys2Proof.Safety` composed. -/

namespace Sys2Proof.Machine

/-! ## Composition -/

theorem OnlyFocus.refl (s : State) : OnlyFocus s s := ⟨rfl, fun _ _ => rfl⟩

theorem OnlyFocus.cur {s t : State} (h : OnlyFocus s t) : t.cur = s.cur := (congrArg State.cur h.1).trans rfl

theorem OnlyFocus.trans {s t u : State} (h : OnlyFocus s t) (h' : OnlyFocus t u) : OnlyFocus s u := by
  refine ⟨?_, fun k hk => (h'.2 k (h.cur ▸ hk)).trans (h.2 k hk)⟩
  conv_lhs => rw [h'.1, h.1]

theorem onlyFocus_updCore (f : Core → Core) (s : State) : OnlyFocus s (updCore f s) :=
  ⟨rfl, fun k hk => by rw [getCore_updCore, if_neg hk]⟩

theorem onlyFocus_updCtx (f : Ctx → Ctx) (s : State) : OnlyFocus s (updCtx f s) := onlyFocus_updCore _ s

theorem onlyFocus_writeG (d : BitVec 5) (v : Word) (s : State) : OnlyFocus s (writeG d v s) := by
  unfold writeG; split
  · exact .refl s
  · exact onlyFocus_updCore _ s

theorem onlyFocus_retire (size cyc : Nat) (s : State) : OnlyFocus s (retire size cyc s) := by
  unfold retire setReady
  exact (onlyFocus_updCtx _ s).trans (onlyFocus_updCore _ _)

/-- Memory stands in dies, in the stores of the package and in the scratchpads: nothing else is read. -/
theorem SameBytes.of_fields {s t : State} (hd : t.dies = s.dies) (hm : t.dram = s.dram) (hh : t.hostMem = s.hostMem)
    (hs : ∀ k, (getCore t k).sp = (getCore s k).sp) : SameBytes s t := by
  refine ⟨fun p => ?_, fun k a => by rw [hs k]⟩
  unfold physByte homeByte getDie
  rw [hd, hm, hh]

theorem SameBytes.of_focus {s t : State} (h : OnlyFocus s t) (hs : (curCore t).sp = (curCore s).sp) : SameBytes s t := by
  refine .of_fields ((congrArg State.dies h.1).trans rfl) ((congrArg State.dram h.1).trans rfl)
    ((congrArg State.hostMem h.1).trans rfl) fun k => ?_
  by_cases hk : k = s.cur
  · subst hk; unfold curCore at hs; rw [← h.cur]; rwa [h.cur] at hs ⊢
  · rw [h.2 k hk]

/-! ## The core and the context after each operation -/

@[simp] theorem clk_updCtx_regs (f : Regs → Regs) (s : State) : clk (updCtx (updRegs f) s) = clk s := by
  unfold clk now tempoNow; simp

@[simp] theorem curCtx_setReady (cyc : Nat) (s : State) : curCtx (setReady cyc s) = curCtx s := by
  unfold setReady; rw [curCtx_updCore]; split <;> rfl
@[simp] theorem curCtx_setBusy (k lat : Nat) (s : State) : curCtx (setBusy k lat s) = curCtx s := by
  unfold setBusy; split
  · rfl
  · rw [curCtx_updCore]; rfl
theorem onlyFocus_setBusy (k lat : Nat) (s : State) : OnlyFocus s (setBusy k lat s) := by
  unfold setBusy; split
  · exact .refl s
  · exact onlyFocus_updCore _ s
theorem curCtx_writeG (d : BitVec 5) (v : Word) (s : State) :
    curCtx (writeG d v s) =
      if d = 0 then curCtx s else noteWrite d.toNat (updRegs (Regs.write d.toNat v) (curCtx s)) := by
  unfold writeG; split
  · rfl
  · rw [curCtx_updCore]; rfl
theorem curCtx_retire (size cyc : Nat) (s : State) :
    curCtx (retire size cyc s) = updRegs (fun r => { r with pc := r.pc + BitVec.ofNat 64 size }) (curCtx s) := by
  unfold retire; simp

end Sys2Proof.Machine
end

