-- ==== Sys2Proof/Laws/Memory.lean ====
section
/-! SUPPORT. The canonical form of memory: what `State.memWf` asks, which updates leave it alone, and that every
operation over memory and scratchpad keeps it. -/

namespace Sys2Proof.Machine

/-! ## What the form asks of a state -/

theorem memWf_iff (s : State) : s.memWf = true ↔
    Memory.wf s.dram = true ∧ Memory.wf s.hostMem = true ∧ (∀ e ∈ s.cores, e.2.memWf = true)
      ∧ ∀ e ∈ s.tasks, e.2.memWf = true := by
  simp [State.memWf, List.all_eq_true, and_assoc]

theorem Core.memWf_iff (c : Core) : c.memWf = true ↔ Memory.wf c.istore = true ∧ Memory.wf c.sp = true := by
  simp [Core.memWf]

theorem Task.memWf_iff (t : Task) : t.memWf = true ↔
    Memory.wf t.code = true ∧ ∀ e ∈ t.saved, ∀ m, e.2.sp = .some m → Memory.wf m.1 = true := by
  simp only [Task.memWf, Bool.and_eq_true, List.all_eq_true]
  refine and_congr_right fun _ => forall₂_congr fun e _ => ?_
  cases e.2.sp <;> simp

@[simp] theorem reset_memWf : State.reset.memWf = true := by decide
@[simp] theorem Core.reset_memWf : Core.reset.memWf = true := by decide
@[simp] theorem Task.none_memWf : Task.none.memWf = true := by decide

/-- Two states that agree in their memories, cores and tasks are canonical together. -/
theorem memWf_congr {s t : State} (h1 : t.dram = s.dram) (h2 : t.hostMem = s.hostMem) (h3 : t.cores = s.cores)
    (h4 : t.tasks = s.tasks) : t.memWf = s.memWf := by simp only [State.memWf, h1, h2, h3, h4]

/-! ## Updates -/

variable {s : State}

theorem memWf_getCore (k : Nat) (h : s.memWf = true) : (getCore s k).memWf = true :=
  KMap.forall_get (P := fun c : Core => c.memWf = true) k ((memWf_iff s).mp h).2.2.1 Core.reset_memWf

theorem memWf_getTask (k : Nat) (h : s.memWf = true) : (getTask s k).memWf = true :=
  KMap.forall_get (P := fun t : Task => t.memWf = true) k ((memWf_iff s).mp h).2.2.2 Task.none_memWf

theorem memWf_setCore (k : Nat) {c : Core} (h : s.memWf = true) (hc : c.memWf = true) :
    (setCore s k c).memWf = true := by
  obtain ⟨h1, h2, h3, h4⟩ := (memWf_iff s).mp h
  exact (memWf_iff _).mpr ⟨h1, h2, KMap.forall_set (P := fun c : Core => c.memWf = true) k c h3 hc, h4⟩

theorem memWf_updCoreAt (k : Nat) {f : Core → Core} (h : s.memWf = true)
    (hf : ∀ c : Core, c.memWf = true → (f c).memWf = true) : (updCoreAt k f s).memWf = true :=
  memWf_setCore k h (hf _ (memWf_getCore k h))

theorem memWf_updCore {f : Core → Core} (h : s.memWf = true)
    (hf : ∀ c : Core, c.memWf = true → (f c).memWf = true) : (updCore f s).memWf = true :=
  memWf_setCore s.cur h (hf _ (memWf_getCore s.cur h))

/-- An update of the context in focus touches no memory. -/
theorem memWf_updCtx (f : Ctx → Ctx) (h : s.memWf = true) : (updCtx f s).memWf = true :=
  memWf_updCore h fun _ hc => hc

theorem memWf_updSeg (f : Seg → Seg) (h : s.memWf = true) : (updSeg f s).memWf = true := memWf_updCtx _ h

theorem memWf_setTask (k : Nat) {t : Task} (h : s.memWf = true) (ht : t.memWf = true) :
    (setTask s k t).memWf = true := by
  obtain ⟨h1, h2, h3, h4⟩ := (memWf_iff s).mp h
  exact (memWf_iff _).mpr ⟨h1, h2, h3, KMap.forall_set (P := fun t : Task => t.memWf = true) k t h4 ht⟩

theorem memWf_updTask (k : Nat) {f : Task → Task} (h : s.memWf = true)
    (hf : ∀ t : Task, t.memWf = true → (f t).memWf = true) : (updTask k f s).memWf = true :=
  memWf_setTask k h (hf _ (memWf_getTask k h))

@[simp] theorem memWf_focus (k : Nat) : (focus k s).memWf = s.memWf := rfl
@[simp] theorem memWf_setDie (d : Nat) (x : Die) : (setDie s d x).memWf = s.memWf := rfl
@[simp] theorem memWf_updDie (d : Nat) (f : Die → Die) : (updDie d f s).memWf = s.memWf := rfl
@[simp] theorem memWf_updRing (r : Nat) (f : Ring → Ring) : (updRing r f s).memWf = s.memWf := rfl
@[simp] theorem memWf_updSpace (a : Nat) (f : Space → Space) : (updSpace a f s).memWf = s.memWf := rfl

theorem memWf_dram {m : List Host.Cell} (h : s.memWf = true) (hm : Memory.wf m = true) :
    State.memWf { s with dram := m } = true := by
  obtain ⟨_, h2, h3, h4⟩ := (memWf_iff s).mp h
  exact (memWf_iff _).mpr ⟨hm, h2, h3, h4⟩

theorem memWf_hostMem {m : List Host.Cell} (h : s.memWf = true) (hm : Memory.wf m = true) :
    State.memWf { s with hostMem := m } = true := by
  obtain ⟨h1, _, h3, h4⟩ := (memWf_iff s).mp h
  exact (memWf_iff _).mpr ⟨h1, hm, h3, h4⟩

/-- A store of bytes in DRAM keeps the form. -/
theorem memWf_setDram (a : Nat) (bs : List Byte) (h : s.memWf = true) :
    State.memWf { s with dram := KMap.setList 0 s.dram a bs } = true :=
  memWf_dram h (KMap.wf_setList bs a ((memWf_iff s).mp h).1)

/-- A store of bytes in host memory keeps the form. -/
theorem memWf_setHost (a : Nat) (bs : List Byte) (h : s.memWf = true) :
    State.memWf { s with hostMem := KMap.setList 0 s.hostMem a bs } = true :=
  memWf_hostMem h (KMap.wf_setList bs a ((memWf_iff s).mp h).2.1)

/-- A chain of operations each of which keeps the form keeps it. -/
theorem memWf_foldl {β : Type} {f : State → β → State} (hf : ∀ (s : State) b, s.memWf = true → (f s b).memWf = true)
    (l : List β) {s : State} (h : s.memWf = true) : (l.foldl f s).memWf = true := by
  induction l generalizing s with
  | nil => exact h
  | cons b r ih => exact ih (hf s b h)

/-- Parts of sectors, each of whose writes keeps the form, keep it (R269). -/
theorem memWf_writeParts {α : Type} (sector : α → Nat) {w : α → State → State}
    (hw : ∀ a (s : State), s.memWf = true → (w a s).memWf = true) (ps : List α) {s : State} (h : s.memWf = true) :
    (writeParts sector w ps s).memWf = true := by
  have step (a : State × List (Nat × Nat)) (p : α) (ha : a.1.memWf = true) : (writePart sector w a p).1.memWf = true := by
    unfold writePart
    split
    · exact hw p _ ha
    · exact hw p _ ha
  suffices ∀ (l : List α) (a : State × List (Nat × Nat)), a.1.memWf = true → (l.foldl (writePart sector w) a).1.memWf = true
    from this ps (s, []) h
  intro l
  induction l with
  | nil => exact fun _ h => h
  | cons p r ih => exact fun a ha => ih _ (step a p ha)

theorem memWf_onCore (k : Nat) {f : State → State} (hf : ∀ s : State, s.memWf = true → (f s).memWf = true)
    (h : s.memWf = true) : (onCore k f s).memWf = true := hf _ h

theorem memWf_forCores {f : Nat → State → State} (hf : ∀ k (s : State), s.memWf = true → (f k s).memWf = true)
    (h : s.memWf = true) : (forCores f s).memWf = true := memWf_foldl (fun s k => hf k s) _ h

/-! ## Memory and the slices -/

/-- What a scoring read sees of a write touches no memory (R322). -/
theorem memWf_noteScoring (pa : Nat) (h : s.memWf = true) : (noteScoring pa s).memWf = true := by
  unfold noteScoring
  refine memWf_foldl (fun s k hs => ?_) _ h
  split
  · dsimp only; split
    · exact memWf_updCoreAt (s := (drawFree s).2) k hs fun _ hc => hc
    · exact hs
  · exact hs

theorem memWf_dramWrite (pa : Nat) (bs : List Byte) (h : s.memWf = true) : (dramWrite pa bs s).memWf = true :=
  memWf_noteScoring pa (memWf_setDram pa bs h)

/-- Poison marks are no part of the form. -/
theorem memWf_memBad (l : List Nat) (h : s.memWf = true) : State.memWf { s with memBad := l } = true := h

theorem memWf_writeBackSectors (l : L2Line) (mask : BitVec 4) (h : s.memWf = true) :
    (writeBackSectors l mask s).memWf = true := by
  unfold writeBackSectors
  refine memWf_foldl (fun s i hs => ?_) _ h
  split
  · exact memWf_dramWrite _ _ (memWf_memBad _ hs)
  · exact hs

theorem memWf_touchSector (asid va pa : Nat) (h : s.memWf = true) : (touchSector asid va pa s).memWf = true := by
  unfold touchSector
  simp only
  split
  · simpa
  · split
    · simpa
    · split
      · exact h
      · simpa using memWf_writeBackSectors _ _ h

theorem memWf_homeWrite (asid va pa : Nat) (bs : List Byte) (bad : Bool) (h : s.memWf = true) :
    (homeWrite asid va pa bs bad s).memWf = true := by
  have h1 := memWf_touchSector asid va pa h
  unfold homeWrite
  simp only
  split
  · simpa using h1
  · exact memWf_dramWrite _ _ (memWf_memBad _ h1)

theorem memWf_physWrite (asid va : Nat) (p : Phys) (bs : List Byte) (bad : Bool) (h : s.memWf = true) :
    (physWrite asid va p bs bad s).memWf = true := by
  unfold physWrite; split
  · exact memWf_setHost _ _ h
  · exact memWf_homeWrite asid va p.pa bs bad h

theorem memWf_cleanLine (line : Nat) (mask : BitVec 4) (h : s.memWf = true) : (cleanLine line mask s).memWf = true := by
  unfold cleanLine; simp only; split
  · exact h
  · simpa using memWf_writeBackSectors _ mask h

theorem memWf_evictLine (line : Nat) (h : s.memWf = true) : (evictLine line s).memWf = true := by
  unfold evictLine; simpa using memWf_cleanLine line 0xF h

theorem memWf_discardSector (pa : Nat) (h : s.memWf = true) : (discardSector pa s).memWf = true := by
  unfold discardSector; simp only; split
  · exact h
  · simpa

theorem memWf_writeVa (die asid va : Nat) (bs : List Byte) (bad : Bool) (h : s.memWf = true) :
    (writeVa die asid va bs bad s).memWf = true :=
  memWf_foldl (fun s p hs => by
    split
    · exact memWf_physWrite _ _ _ _ _ hs
    · exact hs) _ h

theorem memWf_noteWalk (die asid va : Nat) (h : s.memWf = true) : (noteWalk die asid va s).memWf = true := by
  unfold noteWalk; split
  · exact h
  · split
    · simpa
    · exact h

theorem memWf_fillRdc (die asid va pa : Nat) (bs : List Byte) (bad : Bool) (h : s.memWf = true) :
    (fillRdc die asid va pa bs bad s).memWf = true := by
  unfold fillRdc; simp only; split <;> simpa

theorem memWf_rdcUpdate (die asid va : Nat) (bs : List Byte) (h : s.memWf = true) :
    (rdcUpdate die asid va bs s).memWf = true := by
  unfold rdcUpdate; split
  · split
    · simpa
    · exact h
  · exact h

theorem memWf_homeLoad (asid va n : Nat) (p : Phys) (hit miss : Nat) (h : s.memWf = true) :
    (homeLoad asid va n p hit miss s).2.memWf = true := memWf_touchSector asid va p.pa h

theorem memWf_scalarLoad (die asid va n : Nat) (p : Phys) (lat : Nat) (h : s.memWf = true) :
    (scalarLoad die asid va n p lat s).2.memWf = true := by
  unfold scalarLoad
  split
  · exact h
  · split
    · exact memWf_homeLoad _ _ _ _ _ _ h
    · split
      · exact h
      · dsimp only; split
        · exact memWf_homeLoad _ _ _ _ _ _ h
        · exact memWf_fillRdc _ _ _ _ _ _ (memWf_homeLoad _ _ _ _ _ _ h)

theorem memWf_scalarStore (asid va : Nat) (p : Phys) (bs : List Byte) (h : s.memWf = true) :
    (scalarStore asid va p bs s).memWf = true := memWf_physWrite asid va p bs false h

@[simp] theorem memWf_lsWrite (die : Nat) (c : Ctx) (x : Nat) (bs : List Byte) : (lsWrite die c x bs s).memWf = s.memWf := rfl

theorem memWf_pokeDram (pa : Nat) (bs : List Byte) (h : s.memWf = true) : (pokeDram pa bs s).memWf = true :=
  memWf_dramWrite _ _ (memWf_memBad _ h)

theorem memWf_pokeSector (pa : Nat) (bs : List Byte) (h : s.memWf = true) : (pokeSector pa bs s).memWf = true := by
  unfold pokeSector; split
  · split
    · simpa using h
    · exact memWf_pokeDram _ _ h
  · exact memWf_pokeDram _ _ h

theorem memWf_pokeDevice (pa : Nat) (bs : List Byte) (h : s.memWf = true) : (pokeDevice pa bs s).memWf = true :=
  memWf_foldl (fun s p hs => by
    split
    · exact memWf_pokeSector _ _ hs
    · exact hs) _ h

/-! ## Scratchpad -/

theorem Core.memWf_spWrite (off : Nat) (bs : List Byte) {c : Core} (h : c.memWf = true) :
    (spWrite off bs c).memWf = true := by
  obtain ⟨h1, h2⟩ := c.memWf_iff.mp h
  exact (Core.memWf_iff _).mpr ⟨h1, KMap.wf_setList bs off h2⟩

theorem Memory.wf_foldl_set {β : Type} (f : β → Nat) (g : β → Byte) (l : List β) {m : List Host.Cell}
    (h : Memory.wf m = true) : Memory.wf (l.foldl (fun m b => KMap.set 0 m (f b) (g b)) m) = true := by
  induction l generalizing m with
  | nil => exact h
  | cons b r ih => exact ih (KMap.wf_set _ _ h)

theorem Core.memWf_spWriteBytes (l : List (Nat × Byte)) {c : Core} (h : c.memWf = true) :
    (spWriteBytes l c).memWf = true := by
  obtain ⟨h1, h2⟩ := c.memWf_iff.mp h
  exact (Core.memWf_iff _).mpr ⟨h1, Memory.wf_foldl_set Prod.fst Prod.snd l h2⟩

/-! ## The words' shared endings -/

theorem memWf_writeG (d : BitVec 5) (v : Word) (h : s.memWf = true) : (writeG d v s).memWf = true := by
  unfold writeG; split
  · exact h
  · exact memWf_updCore h fun _ hc => hc

theorem memWf_writeBt (t : BitVec 3) (v : Word) (h : s.memWf = true) : (writeBt t v s).memWf = true := memWf_updCtx _ h
theorem memWf_writeP (p : BitVec 16) (h : s.memWf = true) : (writeP p s).memWf = true := memWf_updCtx _ h
theorem memWf_setPc (pc : Word) (h : s.memWf = true) : (setPc pc s).memWf = true := memWf_updCtx _ h
theorem memWf_setBusy (k lat : Nat) (h : s.memWf = true) : (setBusy k lat s).memWf = true := by
  unfold setBusy; split
  · exact h
  · exact memWf_updCore h fun _ hc => hc
theorem memWf_setReady (cyc : Nat) (h : s.memWf = true) : (setReady cyc s).memWf = true :=
  memWf_updCore h fun c hc => by split <;> exact hc
theorem memWf_retire (size cyc : Nat) (h : s.memWf = true) : (retire size cyc s).memWf = true :=
  memWf_setReady cyc (memWf_updCtx _ h)

/-! ## Reads -/

/-- A write of bytes to DRAM with no line of the address cached is read back. -/
theorem homeByte_uncached (pa : Nat) (h : findLine (getDie s (homeDie pa)) (pa / 256) = none) :
    homeByte s pa = KMap.get 0 s.dram pa := by unfold homeByte; rw [h]

theorem physByte_host (pa : Nat) : physByte s ⟨true, pa⟩ = KMap.get 0 s.hostMem pa := rfl

/-- Host memory: a write is read back, and every other byte stays as it was. -/
theorem physByte_setHost (a q : Nat) (bs : List Byte) :
    physByte { s with hostMem := KMap.setList 0 s.hostMem a bs } ⟨true, q⟩ =
      if a ≤ q ∧ q < a + bs.length then bs.getD (q - a) 0 else physByte s ⟨true, q⟩ := KMap.get_setList 0 bs _ a q

/-- Scratchpad: a write is read back, and every other byte stays as it was. -/
theorem sp_spWrite (off a : Nat) (bs : List Byte) (c : Core) :
    KMap.get 0 (spWrite off bs c).sp a =
      if off ≤ a ∧ a < off + bs.length then bs.getD (a - off) 0 else KMap.get 0 c.sp a := KMap.get_setList 0 bs _ off a

end Sys2Proof.Machine
end

