-- ==== Sys2Proof/Laws/Ops.lean ====
section
/-! SUPPORT. What each shared operation of the exceptions, the accesses and the record issues can do, said once. -/

namespace Sys2Proof.Machine

variable {s : State}

/-! ## Raising a cause -/

/-- Raising a cause always goes on. -/
theorem raise_next (code : Nat) (info : Word) (s : State) : ∃ t, raise code info s = .next t := ⟨_, rfl⟩

/-- In the shadow context any cause aborts the task (R355). -/
theorem raise_shadow (code : Nat) (info : Word) (h : (curCtx s).inShadow = true) :
    raise code info s = .next (abortHere 0x46 0 0 s) := by simp [raise, h]

/-- In loose code a cause that aborts ends the task with that cause (R350). -/
theorem raise_abort (code : Nat) (info : Word) (h : LooseMain s) (hx : handlingHere s code = .X) :
    raise code info s = .next (abortHere code 0 0 s) := by
  simp only [raise, h.main, h.loose, hx, Bool.false_eq_true, if_false, if_true]

/-- In loose code any other cause starts the handler, where the code object has one (R350, R355). -/
theorem raise_trap (code : Nat) (info : Word) (h : LooseMain s) (hx : handlingHere s code ≠ .X)
    (hh : (curCtx s).handler ≠ 0) : raise code info s = .next (enterHandler 0 code 0 0 info (pcOf s) s) := by
  simp only [raise, h.main, h.loose, Bool.false_eq_true, if_false, if_true, preciseTrap, hh]

/-- Inside a segment a cause waits for the end of the cycle (R366). -/
theorem raise_segment (code : Nat) (info : Word) (h : (curCtx s).inShadow = false)
    (hp : (curCtx s).seg.phase ≠ .loose) : raise code info s = .next (pushWordEvent code 0 info (pcOf s) s) := by
  simp [raise, h, hp]

theorem looseOnly_out (k : Out) (h : inSegment s = false) : looseOnly s k = k := by simp [looseOnly, h]
theorem looseOnly_in (k : Out) (h : inSegment s = true) : looseOnly s k = raise 0x07 0 s := by simp [looseOnly, h]
theorem mainOnly_main (k : Out) (h : (curCtx s).inShadow = false) : mainOnly s k = k := by simp [mainOnly, h]
theorem mainOnly_shadow (k : Out) (h : (curCtx s).inShadow = true) : mainOnly s k = .next (abortHere 0x46 0 0 s) := by
  simp [mainOnly, h]

theorem LooseMain.inSegment (h : LooseMain s) : inSegment s = false := by
  simp [Machine.inSegment, h.loose]

/-! ## Entering the handler -/

theorem trapCauseWord_precise {code : Nat} (h : code < 256) : trapCauseWord 0 0 0 code = BitVec.ofNat 64 code := by
  simp [trapCauseWord, Nat.mod_eq_of_lt h]

theorem curCtx_enterHandler (how code col offset : Nat) (info pc : Word) :
    curCtx (enterHandler how code col offset info pc s) = { curCtx s with
      trapCause := trapCauseWord offset col how code
      trapPc := BitVec.ofNat 64 (pc.toNat % 2 ^ 57), trapInfo := info
      inShadow := true
      shadow := { Regs.zero with
        g := KMap.set 0 [] 1 (BitVec.ofNat 64 (mailboxOf s.cur))
        pc := BitVec.ofNat 64 ((curCtx s).codeBase + (curCtx s).handler) } } := by
  unfold enterHandler; rw [curCtx_updCore]; rfl

/-- Entering the handler takes a precise trap: nothing of the machine changes but the registers of the exception and
the shadow context (R352 to R355). -/
theorem trapped_enterHandler {code : Nat} (hc : code < 256) (info pc : Word) :
    Trapped s (enterHandler 0 code 0 0 info pc s) code info pc := by
  have hctx := curCtx_enterHandler (s := s) 0 code 0 0 info pc
  have hregs : regs (curCtx (enterHandler 0 code 0 0 info pc s)) = { Regs.zero with
      g := KMap.set 0 [] 1 (BitVec.ofNat 64 (mailboxOf s.cur))
      pc := BitVec.ofNat 64 ((curCtx s).codeBase + (curCtx s).handler) } := by rw [hctx]; rfl
  have hread : ∀ n, (regs (curCtx (enterHandler 0 code 0 0 info pc s))).read n =
      if n = 1 then BitVec.ofNat 64 (mailboxOf s.cur) else 0 := by
    intro n; rw [hregs]; simp only [Regs.read, KMap.get_set, KMap.get_nil]; grind
  refine ⟨onlyFocus_updCore _ s, ?_, ?_, ?_, ?_, ?_, ?_, ?_, ⟨?_, ?_, ?_⟩, ?_, ?_⟩
  · unfold enterHandler; rw [curCore_updCore, curCtx_updCore]
  · rw [hctx]
  · rw [hctx]; exact trapCauseWord_precise hc
  · rw [hctx]
  · rw [hctx]
  · unfold pcOf; rw [hregs]
  · unfold readG; rw [hread]; rfl
  · intro n hn
    unfold readG; rw [hread, if_neg fun e => hn (BitVec.eq_of_toNat_eq (by simpa using e))]
  · intro b; unfold readBt; rw [hregs]; rfl
  · unfold readP; rw [hregs]; rfl
  · unfold enterHandler; rw [curCore_updCore]
  · refine SameBytes.of_focus (onlyFocus_updCore _ s) ?_
    unfold enterHandler; rw [curCore_updCore]

/-! ## Scalar accesses -/

theorem issueAccess_pends (a : Access) (h : ¬ (a.due ≤ clk s ∧ unblocked s a ∧ !a.seg)) :
    issueAccess a s = updCore (fun c => { c with pend := c.pend ++ [a] }) s := if_neg h

theorem waitsFor_quiet (cls : BitVec 4) (wr shadow : Bool) (h : QuietPort s) : waitsFor s cls wr shadow = [] := by
  simp [waitsFor, h.pend, h.fences]

theorem performEarlier_quiet (cls : BitVec 4) (wr : Bool) (h : QuietPort s) : performEarlier cls wr s = s := by
  simp [performEarlier, performIds, waitsFor_quiet cls wr _ h]

/-! ## Record issues -/

/-- The four ways an issue ends (R36 to R38). -/
theorem issueStep_clash (x : Issue) (free : Nat) (perform : State → Perf) (h : collides (curCore s) x.col free = true) :
    issueStep x free perform s = .next (pushFaults x.col (issuePc (curCore s) x.seq) [(0x25, 0)] (beginIssue true x s)) := by
  simp [issueStep, h]

theorem issueStep_nul (x : Issue) (free : Nat) (perform : State → Perf) (h : collides (curCore s) x.col free = false)
    (hn : x.nul = true) : issueStep x free perform s = .next (endIssue x (beginIssue false x s)) := by
  simp [issueStep, h, hn]

theorem issueStep_ok (x : Issue) (free : Nat) (perform : State → Perf) {t : State}
    (h : collides (curCore s) x.col free = false) (hn : x.nul = false) (hp : perform (beginIssue false x s) = .ok t) :
    issueStep x free perform s = .next (endIssue x t) := by
  simp [issueStep, h, hn, hp]

theorem issueStep_error (x : Issue) (free : Nat) (perform : State → Perf) {fs : List Flt}
    (h : collides (curCore s) x.col free = false) (hn : x.nul = false) (hp : perform (beginIssue false x s) = .error fs) :
    issueStep x free perform s = .next (pushFaults x.col (issuePc (curCore s) x.seq) fs
      (keepForRetry x fs (endIssue x (beginIssue false x s)))) := by
  simp [issueStep, h, hn, hp]

/-- What is put in flight joins the flights of the core and takes its number; nothing else of the core changes. -/
theorem curCore_launchFlight (x : Issue) (lat : Nat) (k : FKind) :
    curCore (launchFlight x lat k s) = { curCore s with
      flights := (curCore s).flights ++ [⟨now s + lat, x.col, now s, (curCore s).nextId, k⟩]
      nextId := (curCore s).nextId + 1 } := by
  unfold launchFlight launchFrom newId
  simp only [curCore_updCore]
  rfl

theorem onlyFocus_launchFlight (x : Issue) (lat : Nat) (k : FKind) : OnlyFocus s (launchFlight x lat k s) := by
  unfold launchFlight launchFrom newId
  exact (onlyFocus_updCore _ s).trans (onlyFocus_updCore _ _)

theorem curCore_dropFlight (f : Flight) :
    curCore (dropFlight f s) = { curCore s with flights := (curCore s).flights.filter fun g => g.seq != f.seq } := by
  unfold dropFlight; rw [curCore_updCore]

/-- A whole vector register written: its lanes are the values, every other lane is as it was (R150). -/
theorem vregs_putVec (v i : Nat) (vals : List Elem) (c : Core) :
    KMap.get 0 (putVec v vals c).ctx.vregs i =
      if 1024 * v ≤ i ∧ i < 1024 * v + vals.length then vals.getD (i - 1024 * v) 0 else KMap.get 0 c.ctx.vregs i := by
  simp only [putVec]; rw [Nat.mul_comm 1024 v]; exact KMap.get_setList 0 vals _ _ i

/-! ## The canonical form through the shared operations -/

theorem memWf_report (kind ring code launchId offset col spidx taskId : Nat) :
    (report kind ring code launchId offset col spidx taskId s).memWf = s.memWf := by
  unfold report; simp only; split <;> rfl

theorem memWf_reportLater (r : Report) : (reportLater r s).memWf = s.memWf := by
  unfold reportLater; split
  · exact memWf_report _ _ _ _ _ _ _ _
  · rfl

/-- Reports that have waited touch no memory (R388). -/
theorem memWf_deliverReports (h : s.memWf = true) : (deliverReports s).memWf = true := by
  unfold deliverReports; split
  · exact memWf_foldl (fun s r hs => by rw [memWf_reportLater]; exact hs) _ h
  · exact h

theorem memWf_updConn (pkg : Nat) (f : Conn → Conn) : (updConn pkg f s).memWf = s.memWf := rfl
theorem memWf_emit (pkg port : Nat) (f : Frame) : (emit pkg port f s).memWf = s.memWf := rfl
theorem memWf_emitData (pkg port : Nat) (f : Frame) : (emitData pkg port f s).memWf = s.memWf := rfl
theorem memWf_emitStriped (pkg : Nat) (f : Frame) : (emitStriped pkg f s).memWf = s.memWf := by
  unfold emitStriped; simp only; split <;> rfl
theorem memWf_sendData (pkg : Nat) (f : Frame) : (sendData pkg f s).memWf = s.memWf := by
  unfold sendData; simp only; split
  · exact memWf_emitStriped _ _
  · rfl
theorem memWf_wakeLocal (ring : Nat) : (wakeLocal ring s).memWf = s.memWf := by
  unfold wakeLocal; simp only; split
  · rfl
  · split <;> rfl
theorem memWf_wake (w : Word) : (wake w s).memWf = s.memWf := by
  unfold wake; simp only; split
  · exact memWf_wakeLocal _
  · split
    · exact memWf_sendData _ _
    · rfl
theorem memWf_mailboxStore (va n : Nat) : (mailboxStore va n s).memWf = s.memWf := by
  unfold mailboxStore; split <;> rfl
theorem memWf_acquireBy (shadow : Bool) (scope : Nat) (mask : BitVec 16) (h : s.memWf = true) :
    (acquireBy shadow scope mask s).memWf = true := by
  unfold acquireBy
  dsimp only; split
  · unfold rdcDropAll
    rw [memWf_updDie]
    exact memWf_updCore h fun _ hc => hc
  · exact memWf_updCore h fun _ hc => hc
theorem memWf_acquire (scope : Nat) (mask : BitVec 16) (h : s.memWf = true) : (acquire scope mask s).memWf = true :=
  memWf_acquireBy _ _ _ h
theorem memWf_completeAcquire (f : FenceRec) (h : s.memWf = true) : (completeAcquire f s).memWf = true :=
  memWf_updCore (memWf_acquireBy _ _ _ h) fun _ hc => hc

theorem memWf_drawFree : (drawFree s).2.memWf = s.memWf := rfl
theorem memWf_drawOracle : (drawOracle s).2.memWf = s.memWf := by unfold drawOracle; split <;> rfl
theorem memWf_newId (h : s.memWf = true) : (newId s).2.memWf = true := memWf_updCore h fun _ hc => hc

theorem Core.memWf_markSectors (off n : Nat) (bad : Bool) (tag : Option (BitVec 7)) {c : Core} (h : c.memWf = true) :
    (markSectors off n bad tag c).memWf = true := by
  unfold markSectors
  suffices ∀ (l : List (Nat × Nat)) (c : Core), c.memWf = true → ((l.foldl (fun c p =>
      { c with
        spBad := if bad then setBadMark true (p.1 / 64) c.spBad else c.spBad
        tags := match tag with
          | some t => KMap.set 0 c.tags (p.1 / 64) t
          | none => c.tags }) c).memWf = true) from this _ _ h
  intro l
  induction l with
  | nil => exact fun _ h => h
  | cons p r ih => exact fun c h => ih _ h

theorem memWf_writeDest (die : Nat) (c : Ctx) (d : Dest) (bs : List Byte) (bad : Bool) (tag : Option (BitVec 7))
    (h : s.memWf = true) : (writeDest die c d bs bad tag s).memWf = true := by
  cases d with
  | sp core off => exact memWf_updCoreAt core h fun x hx => Core.memWf_markSectors _ _ _ _ (Core.memWf_spWrite _ _ hx)
  | ls off =>
    simp only [writeDest]
    refine memWf_foldl (fun s p hs => ?_) _ (by simpa)
    unfold lsMarkPiece
    split <;> exact hs
  | va a => exact memWf_writeVa _ _ _ _ _ h

theorem memWf_writeCopy (die : Nat) (c : Ctx) (cp : Copy) (ps : List ((Dest × List Byte) × Bool)) (h : s.memWf = true) :
    (writeCopy die c cp ps s).memWf = true :=
  memWf_writeParts _ (fun _ _ hs => memWf_writeDest _ _ _ _ _ _ hs) ps h

theorem memWf_cutCopy (die : Nat) (c : Ctx) (cp : Copy) (h : s.memWf = true) : (cutCopy die c cp s).memWf = true :=
  memWf_writeCopy _ _ _ _ h

theorem Core.memWf_clearCore {c : Core} (h : c.memWf = true) : (clearCore c).memWf = true := h

theorem memWf_clearShare (k : Nat) (h : s.memWf = true) : (clearShare k s).memWf = true := h

theorem memWf_emptyWays (k w : Nat) (h : s.memWf = true) : (emptyWays k w s).memWf = true := by
  unfold emptyWays
  exact memWf_foldl (fun s l hs => memWf_evictLine _ hs) _ h

theorem memWf_returnSlices (k : Nat) (h : s.memWf = true) : (returnSlices k s).memWf = true := by
  unfold returnSlices; split
  · exact h
  · exact memWf_updCoreAt k (memWf_clearShare k (memWf_emptyWays k 0 h)) fun _ hc => hc

theorem memWf_unlockTask (t : Nat) (h : s.memWf = true) : (unlockTask t s).memWf = true := by
  unfold unlockTask
  refine memWf_updTask (s := (getTask s t).locks.foldl _ s) t ?_ fun _ hx => hx
  refine memWf_foldl (fun s p hs => ?_) _ h
  exact hs

theorem memWf_freeApertures (t : Nat) (i : Option Nat) (h : s.memWf = true) : (freeApertures t i s).memWf = true := by
  unfold freeApertures
  refine memWf_foldl (fun s d hs => ?_) _ h
  exact hs

theorem memWf_pushEvent (code col : Nat) (info pc : Word) (h : s.memWf = true) :
    (pushEvent code col info pc s).memWf = true := memWf_updCore h fun _ hc => hc

theorem memWf_finishLoad (a : Access) (v : Word) (lat : Nat) (h : s.memWf = true) :
    (finishLoad a v lat s).memWf = true := by
  refine memWf_updCore h fun c hc => ?_
  dsimp only
  by_cases hk : KMap.get 0 c.loading (if a.shadow then 64 + a.reg else a.reg) = a.id ∧ a.reg ≠ 0
  · rw [if_pos hk]; exact hc
  · rw [if_neg hk]; exact hc

theorem memWf_dropAccess (id : Nat) (h : s.memWf = true) : (dropAccess id s).memWf = true := by
  unfold dropAccess
  dsimp only
  refine memWf_updCore (memWf_foldl (fun s f hs => memWf_completeAcquire f hs) _ ?_) fun _ hc => hc
  exact memWf_updCore h fun _ hc => hc

theorem memWf_noteObserved (cls : BitVec 4) (shadow : Bool) (ids : List Nat) (h : s.memWf = true) :
    (noteObserved cls shadow ids s).memWf = true := by
  unfold noteObserved; split
  · exact h
  · exact memWf_updCore h fun _ hc => hc

theorem memWf_loadHere (cls : BitVec 4) (shadow : Bool) (va n : Nat) (p : Phys) (lat : Nat) (h : s.memWf = true) :
    (loadHere cls shadow va n p lat s).2.memWf = true := memWf_noteObserved _ _ _ (memWf_scalarLoad _ _ _ _ _ _ h)

theorem memWf_performAtomic (a : Access) (p : Phys) (h : s.memWf = true) : (performAtomic a p s).memWf = true := by
  unfold performAtomic
  split
  · exact memWf_pushEvent _ _ _ _ h
  · have hd : ∀ b : Bool, (if b then drawOracle s else (0, s)).2.memWf = true := fun b => by
      cases b
      · exact h
      · simpa [memWf_drawOracle] using h
    exact memWf_finishLoad _ _ _ (memWf_physWrite _ _ _ _ _ (hd _))

/-- An access that performs keeps every memory canonical (R258). -/
theorem memWf_performAccess (a : Access) (h : s.memWf = true) : (performAccess a s).memWf = true := by
  refine memWf_dropAccess a.id ?_
  unfold accessEffect
  extract_lets die asid finish
  have hfin : ∀ (l : Loaded) (u : State), u.memWf = true → (finish l u).memWf = true := by
    intro l u hu
    have h1 : (if l.bad = true then pushEvent (if a.shadow = true then 0x46 else 0x44) 0 0 (pcOf u) u else u).memWf = true := by
      split
      · exact memWf_pushEvent _ _ _ _ hu
      · exact hu
    simp only [finish]
    by_cases hs : a.seg = true
    · rw [if_pos hs]; exact memWf_updCore h1 fun _ hc => hc
    · rw [if_neg hs]; exact memWf_finishLoad _ _ _ h1
  have hu : s.memWf = true := h
  clear_value finish
  split
  · split
    · exact hfin _ _ hu
    · split
      · exact hfin _ _ (memWf_loadHere _ _ _ _ _ _ hu)
      · exact hfin _ _ hu
  · split
    · split
      · rw [memWf_wake]; exact hu
      · exact hu
    · split
      · split
        · exact memWf_performAtomic _ _ hu
        · rw [memWf_mailboxStore]; exact memWf_scalarStore _ _ _ _ hu
      · exact hu

theorem memWf_cutCore (k : Nat) (h : s.memWf = true) : (cutCore k s).memWf = true := by
  refine memWf_onCore k (fun u hu => memWf_foldl (fun s a hs => ?_) _ hu) (memWf_foldl (fun s f hs => ?_) _ h)
  · split
    · exact memWf_performAccess _ hs
    · exact hs
  · split
    · exact memWf_cutCopy _ _ _ hs
    · exact hs

theorem memWf_haltCore (k : Nat) (h : s.memWf = true) : (haltCore k s).memWf = true := by
  unfold haltCore
  refine memWf_returnSlices k (memWf_setCore k h (Core.memWf_clearCore ?_))
  have hc := memWf_getCore k h
  split <;> exact hc

theorem Task.memWf_ended {t : Task} (f : Task → Task) (hc : (f t).code = t.code) (hs : (f t).saved = [])
    (h : t.memWf = true) : (f t).memWf = true := by
  obtain ⟨h1, _⟩ := t.memWf_iff.mp h
  exact (Task.memWf_iff _).mpr ⟨hc ▸ h1, by simp [hs]⟩

/-- Aborting a task keeps every memory canonical (R365). -/
theorem memWf_taskAbort (t code offset col spidx : Nat) (h : s.memWf = true) :
    (taskAbort t code offset col spidx s).memWf = true := by
  have hc : State.memWf (forCores (fun k s =>
      if (getCore s k).resident && (getCore s k).ctx.task == t then cutCore k s else s) s) = true := by
    refine memWf_forCores (fun k s hs => ?_) h
    split
    · exact memWf_cutCore k hs
    · exact hs
  have hf : ∀ u : State, u.memWf = true → State.memWf (forCores (fun k s =>
      if (getCore s k).resident && (getCore s k).ctx.task == t then haltCore k s
      else if (getCore s k).ctx.task == t && !(getCore s k).resident then returnSlices k s else s) u) = true := by
    refine fun u hu => memWf_forCores (fun k s hs => ?_) hu
    split
    · exact memWf_haltCore k hs
    · split
      · exact memWf_returnSlices k hs
      · exact hs
  have h1 := memWf_freeApertures t none (memWf_unlockTask t (hf _ hc))
  unfold taskAbort
  dsimp only
  generalize freeApertures t none _ = v at h1 ⊢
  rw [memWf_reportLater]
  exact memWf_updTask (s := { v with
      arrivals := v.arrivals.filter fun m => m.task != t, notes := v.notes.filter fun m => m.task != t }) t h1
    fun x hx => Task.memWf_ended (fun x => { x with
      life := .aborted, saved := [], bars := []
      places := (List.range x.contexts).foldl (fun p i => KMap.set .unplaced p i .ended) x.places }) rfl rfl hx

theorem memWf_abortHere (code offset col : Nat) (h : s.memWf = true) : (abortHere code offset col s).memWf = true := by
  unfold abortHere
  dsimp only
  split
  · split <;> exact memWf_taskAbort _ _ _ _ _ h
  · exact memWf_taskAbort _ _ _ _ _ h

theorem memWf_enterHandler (how code col offset : Nat) (info pc : Word) (h : s.memWf = true) :
    (enterHandler how code col offset info pc s).memWf = true := memWf_updCore h fun _ hc => hc

theorem memWf_pushWordEvent (code col : Nat) (info pc : Word) (h : s.memWf = true) :
    (pushWordEvent code col info pc s).memWf = true :=
  memWf_updCore (memWf_pushEvent code col info pc h) fun _ hc => hc

/-- Raising a cause keeps every memory canonical. -/
theorem memWf_raise (code : Nat) (info : Word) (h : s.memWf = true) {t : State} (ht : raise code info s = .next t) :
    t.memWf = true := by
  unfold raise at ht
  obtain rfl := Host.Outcome.next.inj ht
  split
  · exact memWf_abortHere _ _ _ h
  · split
    · split
      · exact memWf_abortHere _ _ _ h
      · unfold preciseTrap; split
        · exact memWf_abortHere _ _ _ h
        · exact memWf_enterHandler _ _ _ _ _ _ h
    · exact memWf_pushWordEvent _ _ _ _ h

theorem memWf_issueAccess (a : Access) (h : s.memWf = true) : (issueAccess a s).memWf = true := by
  unfold issueAccess; split
  · exact memWf_performAccess a h
  · exact memWf_updCore h fun _ hc => hc

theorem memWf_performChain (fuel id : Nat) (h : s.memWf = true) : (performChain fuel id s).memWf = true := by
  induction fuel generalizing id s with
  | zero => exact h
  | succ n ih =>
    unfold performChain
    split
    · exact h
    · exact memWf_performAccess _ (memWf_foldl (fun s i hs => ih i hs) _ h)

theorem memWf_performIds (ids : List Nat) (h : s.memWf = true) : (performIds ids s).memWf = true :=
  memWf_foldl (fun _ i hs => memWf_performChain _ i hs) _ h

theorem memWf_performAll (p : Access → Bool) (h : s.memWf = true) : (performAll p s).memWf = true :=
  memWf_performIds _ h

theorem memWf_performEarlier (cls : BitVec 4) (wr : Bool) (h : s.memWf = true) : (performEarlier cls wr s).memWf = true :=
  memWf_performIds _ h

theorem memWf_launchFlight (x : Issue) (lat : Nat) (k : FKind) (h : s.memWf = true) :
    (launchFlight x lat k s).memWf = true := memWf_updCore (memWf_newId h) fun _ hc => hc

theorem memWf_dropFlight (f : Flight) (h : s.memWf = true) : (dropFlight f s).memWf = true :=
  memWf_updCore h fun _ hc => hc

theorem memWf_beginIssue (clash : Bool) (x : Issue) (h : s.memWf = true) : (beginIssue clash x s).memWf = true := by
  refine memWf_updCore h fun c hc => ?_
  dsimp only
  split <;> (split <;> exact hc)

theorem memWf_endIssue (x : Issue) (h : s.memWf = true) : (endIssue x s).memWf = true := by
  unfold endIssue; split
  · refine memWf_updCore h fun c hc => ?_
    unfold setNotify; simp only; split
    · exact hc
    · split <;> exact hc
  · exact h

theorem memWf_pushFaults (col : Nat) (pc : Word) (fs : List Flt) (h : s.memWf = true) :
    (pushFaults col pc fs s).memWf = true := memWf_updCore h fun _ hc => hc

theorem memWf_keepForRetry (x : Issue) (fs : List Flt) (h : s.memWf = true) : (keepForRetry x fs s).memWf = true := by
  unfold keepForRetry; split
  · exact memWf_updCore h fun _ hc => hc
  · exact h

/-- An issue keeps every memory canonical where its operation does. -/
theorem memWf_issueStep (x : Issue) (free : Nat) (perform : State → Perf)
    (hp : ∀ u t : State, u.memWf = true → perform u = .ok t → t.memWf = true) (h : s.memWf = true) {t : State}
    (ht : issueStep x free perform s = .next t) : t.memWf = true := by
  have hb := memWf_beginIssue (collides (curCore s) x.col free) x h
  unfold issueStep at ht
  obtain rfl := Host.Outcome.next.inj ht
  split
  · exact memWf_pushFaults _ _ _ hb
  · split
    · exact memWf_endIssue x hb
    · split
      · exact memWf_endIssue x (hp _ _ hb ‹_›)
      · exact memWf_pushFaults _ _ _ (memWf_keepForRetry _ _ (memWf_endIssue x hb))

/-- Returning from a handler touches no memory (R357). -/
theorem memWf_returnFromHandler (h : s.memWf = true) : (returnFromHandler s).memWf = true := by
  unfold returnFromHandler; simp only; split
  · exact memWf_updCore h fun _ hc => hc
  · refine memWf_forCores (fun k s hs => ?_) (memWf_updCtx _ h)
    split
    · split
      · exact memWf_setCore k hs (memWf_getCore k hs)
      · split
        · exact memWf_setCore k hs (memWf_getCore k hs)
        · exact hs
    · exact hs
  · exact memWf_updCore h fun _ hc => hc

end Sys2Proof.Machine
end

