-- ==== Sys2Proof/Laws/PerInstr.lean ====
section
/-! SUPPORT. One lemma for each instruction: how many words encode it. A scalar word is one, a literal pair and FENCE
two, a record line sixteen (R45, R47, R57); what no word encodes has none. -/

namespace Sys2Proof.Laws.EncodeLength

/-- The number of words that encode an instruction. -/
def Statement (i : Instr) : Prop :=
  (encode i).length = 0 ∨ (encode i).length = 1 ∨ (encode i).length = 2 ∨ (encode i).length = 16

theorem add (d a b : BitVec 5) : Statement (.add d a b) := .inr (.inl rfl)
theorem sub (d a b : BitVec 5) : Statement (.sub d a b) := .inr (.inl rfl)
theorem mul (d a b : BitVec 5) : Statement (.mul d a b) := .inr (.inl rfl)
theorem mulh (d a b : BitVec 5) : Statement (.mulh d a b) := .inr (.inl rfl)
theorem mulhu (d a b : BitVec 5) : Statement (.mulhu d a b) := .inr (.inl rfl)
theorem div (d a b : BitVec 5) : Statement (.div d a b) := .inr (.inl rfl)
theorem divu (d a b : BitVec 5) : Statement (.divu d a b) := .inr (.inl rfl)
theorem rem (d a b : BitVec 5) : Statement (.rem d a b) := .inr (.inl rfl)
theorem remu (d a b : BitVec 5) : Statement (.remu d a b) := .inr (.inl rfl)
theorem and (d a b : BitVec 5) : Statement (.and d a b) := .inr (.inl rfl)
theorem or (d a b : BitVec 5) : Statement (.or d a b) := .inr (.inl rfl)
theorem xor (d a b : BitVec 5) : Statement (.xor d a b) := .inr (.inl rfl)
theorem shl (d a b : BitVec 5) : Statement (.shl d a b) := .inr (.inl rfl)
theorem shr (d a b : BitVec 5) : Statement (.shr d a b) := .inr (.inl rfl)
theorem sar (d a b : BitVec 5) : Statement (.sar d a b) := .inr (.inl rfl)
theorem min (d a b : BitVec 5) : Statement (.min d a b) := .inr (.inl rfl)
theorem max (d a b : BitVec 5) : Statement (.max d a b) := .inr (.inl rfl)
theorem minu (d a b : BitVec 5) : Statement (.minu d a b) := .inr (.inl rfl)
theorem maxu (d a b : BitVec 5) : Statement (.maxu d a b) := .inr (.inl rfl)
theorem slt (d a b : BitVec 5) : Statement (.slt d a b) := .inr (.inl rfl)
theorem sltu (d a b : BitVec 5) : Statement (.sltu d a b) := .inr (.inl rfl)
theorem seq (d a b : BitVec 5) : Statement (.seq d a b) := .inr (.inl rfl)
theorem clz (d a : BitVec 5) : Statement (.clz d a) := .inr (.inl rfl)
theorem popc (d a : BitVec 5) : Statement (.popc d a) := .inr (.inl rfl)
theorem mov (d a : BitVec 5) : Statement (.mov d a) := .inr (.inl rfl)
theorem lea (d a b : BitVec 5) (s : BitVec 2) : Statement (.lea d a b s) := .inr (.inl rfl)
theorem madd (d a b : BitVec 5) : Statement (.madd d a b) := .inr (.inl rfl)
theorem sel (d a b : BitVec 5) : Statement (.sel d a b) := .inr (.inl rfl)
theorem fsh (d a b : BitVec 5) (n : BitVec 6) : Statement (.fsh d a b n) := .inr (.inl rfl)
theorem bfx (d a : BitVec 5) (len1 pos : BitVec 6) : Statement (.bfx d a len1 pos) := .inr (.inl rfl)
theorem bfi (d a : BitVec 5) (len1 pos : BitVec 6) : Statement (.bfi d a len1 pos) := .inr (.inl rfl)
theorem addi (d a : BitVec 5) (imm : BitVec 15) : Statement (.addi d a imm) := .inr (.inl rfl)
theorem andi (d a : BitVec 5) (imm : BitVec 15) : Statement (.andi d a imm) := .inr (.inl rfl)
theorem ori (d a : BitVec 5) (imm : BitVec 15) : Statement (.ori d a imm) := .inr (.inl rfl)
theorem xori (d a : BitVec 5) (imm : BitVec 15) : Statement (.xori d a imm) := .inr (.inl rfl)
theorem shli (d a : BitVec 5) (n : BitVec 6) : Statement (.shli d a n) := .inr (.inl rfl)
theorem shri (d a : BitVec 5) (n : BitVec 6) : Statement (.shri d a n) := .inr (.inl rfl)
theorem sari (d a : BitVec 5) (n : BitVec 6) : Statement (.sari d a n) := .inr (.inl rfl)
theorem liw (d : BitVec 5) (lit : BitVec 32) : Statement (.liw d lit) := .inr (.inr (.inl rfl))
theorem lih (d : BitVec 5) (lit : BitVec 32) : Statement (.lih d lit) := .inr (.inr (.inl rfl))
theorem ldB (d a : BitVec 5) (off : BitVec 11) (cls : BitVec 4) : Statement (.ldB d a off cls) := .inr (.inl rfl)
theorem ldH (d a : BitVec 5) (off : BitVec 11) (cls : BitVec 4) : Statement (.ldH d a off cls) := .inr (.inl rfl)
theorem ldW (d a : BitVec 5) (off : BitVec 11) (cls : BitVec 4) : Statement (.ldW d a off cls) := .inr (.inl rfl)
theorem ldD (d a : BitVec 5) (off : BitVec 11) (cls : BitVec 4) : Statement (.ldD d a off cls) := .inr (.inl rfl)
theorem stB (s a : BitVec 5) (off : BitVec 11) (cls : BitVec 4) : Statement (.stB s a off cls) := .inr (.inl rfl)
theorem stH (s a : BitVec 5) (off : BitVec 11) (cls : BitVec 4) : Statement (.stH s a off cls) := .inr (.inl rfl)
theorem stW (s a : BitVec 5) (off : BitVec 11) (cls : BitVec 4) : Statement (.stW s a off cls) := .inr (.inl rfl)
theorem stD (s a : BitVec 5) (off : BitVec 11) (cls : BitVec 4) : Statement (.stD s a off cls) := .inr (.inl rfl)
theorem ldsB (d a : BitVec 5) (off : BitVec 11) (cls : BitVec 4) : Statement (.ldsB d a off cls) := .inr (.inl rfl)
theorem ldsH (d a : BitVec 5) (off : BitVec 11) (cls : BitVec 4) : Statement (.ldsH d a off cls) := .inr (.inl rfl)
theorem ldsW (d a : BitVec 5) (off : BitVec 11) (cls : BitVec 4) : Statement (.ldsW d a off cls) := .inr (.inl rfl)
theorem ldsD (d a : BitVec 5) (off : BitVec 11) (cls : BitVec 4) : Statement (.ldsD d a off cls) := .inr (.inl rfl)
theorem stsB (s a : BitVec 5) (off : BitVec 11) (cls : BitVec 4) : Statement (.stsB s a off cls) := .inr (.inl rfl)
theorem stsH (s a : BitVec 5) (off : BitVec 11) (cls : BitVec 4) : Statement (.stsH s a off cls) := .inr (.inl rfl)
theorem stsW (s a : BitVec 5) (off : BitVec 11) (cls : BitVec 4) : Statement (.stsW s a off cls) := .inr (.inl rfl)
theorem stsD (s a : BitVec 5) (off : BitVec 11) (cls : BitVec 4) : Statement (.stsD s a off cls) := .inr (.inl rfl)
theorem amoAdd (d a b : BitVec 5) (scope : BitVec 2) (dbl : BitVec 1) (cls : BitVec 4) : Statement (.amoAdd d a b scope dbl cls) := .inr (.inl rfl)
theorem amoAnd (d a b : BitVec 5) (scope : BitVec 2) (dbl : BitVec 1) (cls : BitVec 4) : Statement (.amoAnd d a b scope dbl cls) := .inr (.inl rfl)
theorem amoOr (d a b : BitVec 5) (scope : BitVec 2) (dbl : BitVec 1) (cls : BitVec 4) : Statement (.amoOr d a b scope dbl cls) := .inr (.inl rfl)
theorem amoXor (d a b : BitVec 5) (scope : BitVec 2) (dbl : BitVec 1) (cls : BitVec 4) : Statement (.amoXor d a b scope dbl cls) := .inr (.inl rfl)
theorem amoMin (d a b : BitVec 5) (scope : BitVec 2) (dbl : BitVec 1) (cls : BitVec 4) : Statement (.amoMin d a b scope dbl cls) := .inr (.inl rfl)
theorem amoMax (d a b : BitVec 5) (scope : BitVec 2) (dbl : BitVec 1) (cls : BitVec 4) : Statement (.amoMax d a b scope dbl cls) := .inr (.inl rfl)
theorem amoSwap (d a b : BitVec 5) (scope : BitVec 2) (dbl : BitVec 1) (cls : BitVec 4) : Statement (.amoSwap d a b scope dbl cls) := .inr (.inl rfl)
theorem cas (d a b : BitVec 5) (scope : BitVec 2) (dbl : BitVec 1) (cls : BitVec 4) : Statement (.cas d a b scope dbl cls) := .inr (.inl rfl)
theorem ptb (t : BitVec 3) (off : BitVec 22) : Statement (.ptb t off) := .inr (.inl rfl)
theorem bEq (t : BitVec 3) (a b : BitVec 5) (h : BitVec 1) : Statement (.bEq t a b h) := .inr (.inl rfl)
theorem bNe (t : BitVec 3) (a b : BitVec 5) (h : BitVec 1) : Statement (.bNe t a b h) := .inr (.inl rfl)
theorem bLt (t : BitVec 3) (a b : BitVec 5) (h : BitVec 1) : Statement (.bLt t a b h) := .inr (.inl rfl)
theorem bGe (t : BitVec 3) (a b : BitVec 5) (h : BitVec 1) : Statement (.bGe t a b h) := .inr (.inl rfl)
theorem bLtu (t : BitVec 3) (a b : BitVec 5) (h : BitVec 1) : Statement (.bLtu t a b h) := .inr (.inl rfl)
theorem bGeu (t : BitVec 3) (a b : BitVec 5) (h : BitVec 1) : Statement (.bGeu t a b h) := .inr (.inl rfl)
theorem jmp (t : BitVec 3) (h : BitVec 1) : Statement (.jmp t h) := .inr (.inl rfl)
theorem bPnz (t : BitVec 3) (h : BitVec 1) : Statement (.bPnz t h) := .inr (.inl rfl)
theorem bPz (t : BitVec 3) (h : BitVec 1) : Statement (.bPz t h) := .inr (.inl rfl)
theorem call (t : BitVec 3) (a : BitVec 5) : Statement (.call t a) := .inr (.inl rfl)
theorem ret (a : BitVec 5) : Statement (.ret a) := .inr (.inl rfl)
theorem loopw (t : BitVec 3) (a : BitVec 5) : Statement (.loopw t a) := .inr (.inl rfl)
theorem segb (off : BitVec 22) : Statement (.segb off) := .inr (.inl rfl)
theorem align (a : BitVec 5) : Statement (.align a) := .inr (.inl rfl)
theorem waitc (d a b : BitVec 5) (cls : BitVec 4) : Statement (.waitc d a b cls) := .inr (.inl rfl)
theorem gets (d : BitVec 5) (n : BitVec 15) : Statement (.gets d n) := .inr (.inl rfl)
theorem sets (a : BitVec 5) (n : BitVec 15) : Statement (.sets a n) := .inr (.inl rfl)
theorem trap (n : BitVec 15) : Statement (.trap n) := .inr (.inl rfl)
theorem fenceFull (scope : BitVec 2) (mask : BitVec 16) : Statement (.fenceFull scope mask) := .inr (.inr (.inl rfl))
theorem fenceAcq (scope : BitVec 2) (mask : BitVec 16) : Statement (.fenceAcq scope mask) := .inr (.inr (.inl rfl))
theorem fenceRel (scope : BitVec 2) (mask : BitVec 16) : Statement (.fenceRel scope mask) := .inr (.inr (.inl rfl))
theorem tapePlay (d : BitVec 5) : Statement (.tapePlay d) := .inr (.inl rfl)
theorem tapePatch (k a : BitVec 5) : Statement (.tapePatch k a) := .inr (.inl rfl)
theorem tapeGuard (i a : BitVec 5) : Statement (.tapeGuard i a) := .inr (.inl rfl)
theorem barInit (a : BitVec 5) (n : BitVec 10) : Statement (.barInit a n) := .inr (.inl rfl)
theorem barArrive (n : BitVec 10) : Statement (.barArrive n) := .inr (.inl rfl)
theorem barWait (d : BitVec 5) (n : BitVec 10) : Statement (.barWait d n) := .inr (.inl rfl)
theorem barTest (d : BitVec 5) (n : BitVec 10) : Statement (.barTest d n) := .inr (.inl rfl)
theorem ways (a : BitVec 5) : Statement (.ways a) := .inr (.inl rfl)
theorem flush (a b : BitVec 5) (cls : BitVec 4) : Statement (.flush a b cls) := .inr (.inl rfl)
theorem inval (a b : BitVec 5) (cls : BitVec 4) : Statement (.inval a b cls) := .inr (.inl rfl)
theorem discard (a b : BitVec 5) (cls : BitVec 4) : Statement (.discard a b cls) := .inr (.inl rfl)
theorem pref (a b : BitVec 5) (cls : BitVec 4) : Statement (.pref a b cls) := .inr (.inl rfl)
theorem sdef (a : BitVec 5) (s : BitVec 6) : Statement (.sdef a s) := .inr (.inl rfl)
theorem sset (a : BitVec 5) (w : BitVec 3) (s : BitVec 6) : Statement (.sset a w s) := .inr (.inl rfl)
theorem sget (d : BitVec 5) (w : BitVec 3) (s : BitVec 6) : Statement (.sget d w s) := .inr (.inl rfl)
theorem sadv (a : BitVec 5) (s : BitVec 6) : Statement (.sadv a s) := .inr (.inl rfl)
theorem hintRegion (w : IWord) : Statement (.hintRegion w) := .inr (.inl rfl)
theorem recordForward (raw : Line) : Statement (.recordForward raw) := .inr (.inr (.inr rfl))
theorem mark (x : Issue) : Statement (.mark x) := .inl rfl
theorem mma (x : Issue) : Statement (.mma x) := .inl rfl
theorem mpass (x : Issue) : Statement (.mpass x) := .inl rfl
theorem mzero (x : Issue) : Statement (.mzero x) := .inl rfl
theorem mload (x : Issue) : Statement (.mload x) := .inl rfl
theorem mdrain (x : Issue) : Statement (.mdrain x) := .inl rfl
theorem mstore (x : Issue) : Statement (.mstore x) := .inl rfl
theorem mrep (x : Issue) : Statement (.mrep x) := .inl rfl
theorem mchain (x : Issue) : Statement (.mchain x) := .inl rfl
theorem vadd (x : Issue) : Statement (.vadd x) := .inl rfl
theorem vsub (x : Issue) : Statement (.vsub x) := .inl rfl
theorem vmul (x : Issue) : Statement (.vmul x) := .inl rfl
theorem vfma (x : Issue) : Statement (.vfma x) := .inl rfl
theorem vmin (x : Issue) : Statement (.vmin x) := .inl rfl
theorem vmax (x : Issue) : Statement (.vmax x) := .inl rfl
theorem vabs (x : Issue) : Statement (.vabs x) := .inl rfl
theorem vneg (x : Issue) : Statement (.vneg x) := .inl rfl
theorem vmulh (x : Issue) : Statement (.vmulh x) := .inl rfl
theorem vand (x : Issue) : Statement (.vand x) := .inl rfl
theorem vor (x : Issue) : Statement (.vor x) := .inl rfl
theorem vxor (x : Issue) : Statement (.vxor x) := .inl rfl
theorem vnot (x : Issue) : Statement (.vnot x) := .inl rfl
theorem vshl (x : Issue) : Statement (.vshl x) := .inl rfl
theorem vshr (x : Issue) : Statement (.vshr x) := .inl rfl
theorem vsar (x : Issue) : Statement (.vsar x) := .inl rfl
theorem vbfx (x : Issue) : Statement (.vbfx x) := .inl rfl
theorem vfsh (x : Issue) : Statement (.vfsh x) := .inl rfl
theorem vpopc (x : Issue) : Statement (.vpopc x) := .inl rfl
theorem vclz (x : Issue) : Statement (.vclz x) := .inl rfl
theorem vcmp (x : Issue) : Statement (.vcmp x) := .inl rfl
theorem vsel (x : Issue) : Statement (.vsel x) := .inl rfl
theorem vmov (x : Issue) : Statement (.vmov x) := .inl rfl
theorem vspl (x : Issue) : Statement (.vspl x) := .inl rfl
theorem viota (x : Issue) : Statement (.viota x) := .inl rfl
theorem vcvt (x : Issue) : Statement (.vcvt x) := .inl rfl
theorem vqnt (x : Issue) : Statement (.vqnt x) := .inl rfl
theorem vdq (x : Issue) : Statement (.vdq x) := .inl rfl
theorem vrotr (x : Issue) : Statement (.vrotr x) := .inl rfl
theorem vrotc (x : Issue) : Statement (.vrotc x) := .inl rfl
theorem vbcr (x : Issue) : Statement (.vbcr x) := .inl rfl
theorem vbcc (x : Issue) : Statement (.vbcc x) := .inl rfl
theorem vredr (x : Issue) : Statement (.vredr x) := .inl rfl
theorem vredc (x : Issue) : Statement (.vredc x) := .inl rfl
theorem vscanr (x : Issue) : Statement (.vscanr x) := .inl rfl
theorem vscanc (x : Issue) : Statement (.vscanc x) := .inl rfl
theorem vtrb (x : Issue) : Statement (.vtrb x) := .inl rfl
theorem vld (x : Issue) : Statement (.vld x) := .inl rfl
theorem vst (x : Issue) : Statement (.vst x) := .inl rfl
theorem vpop (x : Issue) : Statement (.vpop x) := .inl rfl
theorem vgath (x : Issue) : Statement (.vgath x) := .inl rfl
theorem vscat (x : Issue) : Statement (.vscat x) := .inl rfl
theorem vlut (x : Issue) : Statement (.vlut x) := .inl rfl
theorem vpart (x : Issue) : Statement (.vpart x) := .inl rfl
theorem vcnt (x : Issue) : Statement (.vcnt x) := .inl rfl
theorem vamo (x : Issue) : Statement (.vamo x) := .inl rfl
theorem frcp (x : Issue) : Statement (.frcp x) := .inl rfl
theorem frsq (x : Issue) : Statement (.frsq x) := .inl rfl
theorem fsqrt (x : Issue) : Statement (.fsqrt x) := .inl rfl
theorem fexp2 (x : Issue) : Statement (.fexp2 x) := .inl rfl
theorem flog2 (x : Issue) : Statement (.flog2 x) := .inl rfl
theorem fsin (x : Issue) : Statement (.fsin x) := .inl rfl
theorem fcos (x : Issue) : Statement (.fcos x) := .inl rfl
theorem ftanh (x : Issue) : Statement (.ftanh x) := .inl rfl
theorem fsig (x : Issue) : Statement (.fsig x) := .inl rfl
theorem cpy (x : Issue) : Statement (.cpy x) := .inl rfl
theorem cpyL (x : Issue) : Statement (.cpyL x) := .inl rfl
theorem cpyG (x : Issue) : Statement (.cpyG x) := .inl rfl
theorem cpyS (x : Issue) : Statement (.cpyS x) := .inl rfl
theorem cpyXMemory (x : Issue) : Statement (.cpyXMemory x) := .inl rfl
theorem cpyXScratchpad (x : Issue) : Statement (.cpyXScratchpad x) := .inl rfl
theorem cpyZ (x : Issue) : Statement (.cpyZ x) := .inl rfl
theorem cpyD (x : Issue) : Statement (.cpyD x) := .inl rfl
theorem cpyW (x : Issue) : Statement (.cpyW x) := .inl rfl
theorem oxf (x : Issue) : Statement (.oxf x) := .inl rfl
theorem oxc (x : Issue) : Statement (.oxc x) := .inl rfl
theorem omask (x : Issue) : Statement (.omask x) := .inl rfl
theorem ocal (x : Issue) : Statement (.ocal x) := .inl rfl
theorem owin (x : Issue) : Statement (.owin x) := .inl rfl
theorem oref (x : Issue) : Statement (.oref x) := .inl rfl
theorem nbScore (x : Issue) : Statement (.nbScore x) := .inl rfl
theorem nbSel (x : Issue) : Statement (.nbSel x) := .inl rfl
theorem nbPut (x : Issue) : Statement (.nbPut x) := .inl rfl
theorem nbStat (x : Issue) : Statement (.nbStat x) := .inl rfl
theorem copyLanding (f : Flight) : Statement (.copyLanding f) := .inl rfl
theorem scalarLoadLanding (f : Flight) : Statement (.scalarLoadLanding f) := .inl rfl
theorem landingStage (f : Flight) : Statement (.landingStage f) := .inl rfl
theorem drainPush (f : Flight) : Statement (.drainPush f) := .inl rfl
theorem vectorLanding (f : Flight) : Statement (.vectorLanding f) := .inl rfl
theorem opticalOutputLanding (f : Flight) : Statement (.opticalOutputLanding f) := .inl rfl
theorem nbScoreLanding (f : Flight) : Statement (.nbScoreLanding f) := .inl rfl
theorem vamoAcknowledgement (f : Flight) : Statement (.vamoAcknowledgement f) := .inl rfl
theorem barrierArrival (m : Arrival) : Statement (.barrierArrival m) := .inl rfl
theorem resumption (task spidx core : Nat) : Statement (.resumption task spidx core) := .inl rfl
theorem launch (ring : Nat) (packet : Line) : Statement (.launch ring packet) := .inl rfl
theorem abortRequest (ring : Nat) (packet : Line) : Statement (.abortRequest ring packet) := .inl rfl
theorem ringScan (ring : Nat) : Statement (.ringScan ring) := .inl rfl
theorem launchReady (task : Nat) : Statement (.launchReady task) := .inl rfl
theorem launchPlacement (task spidx core : Nat) : Statement (.launchPlacement task spidx core) := .inl rfl
theorem launchCompletion (task : Nat) : Statement (.launchCompletion task) := .inl rfl
theorem hostWake (w : Word) : Statement (.hostWake w) := .inl rfl
theorem resolve (core : Nat) (choice : AllocChoice) : Statement (.resolve core choice) := .inl rfl
theorem negotiate (slot : Nat) (req : Line) : Statement (.negotiate slot req) := .inl rfl
theorem config (slot : Nat) (req : Line) : Statement (.config slot req) := .inl rfl
theorem ringreg (slot : Nat) (req : Line) : Statement (.ringreg slot req) := .inl rfl
theorem ringdel (slot : Nat) (req : Line) : Statement (.ringdel slot req) := .inl rfl
theorem alloc (slot : Nat) (req : Line) (choice : AllocChoice) : Statement (.alloc slot req choice) := .inl rfl
theorem free (slot : Nat) (req : Line) : Statement (.free slot req) := .inl rfl
theorem peerbind (slot : Nat) (req : Line) : Statement (.peerbind slot req) := .inl rfl
theorem reprd (v : Word) : Statement (.reprd v) := .inl rfl
theorem hostMemoryRead (offset size : Nat) : Statement (.hostMemoryRead offset size) := .inl rfl
theorem hostMemoryWrite (offset : Nat) (bytes : List Byte) : Statement (.hostMemoryWrite offset bytes) := .inl rfl
theorem spdmRequest (index : Nat) : Statement (.spdmRequest index) := .inl rfl
theorem lockstepMismatch (fn : Nat) : Statement (.lockstepMismatch fn) := .inl rfl
theorem liveUpdate (image : Image) : Statement (.liveUpdate image) := .inl rfl
theorem firmwareRecalibration (aperture : Nat) : Statement (.firmwareRecalibration aperture) := .inl rfl
theorem refreshBurst (die bank : Nat) : Statement (.refreshBurst die bank) := .inl rfl
theorem temperatureCrossing (die : Nat) (celsius : Int) : Statement (.temperatureCrossing die celsius) := .inl rfl
theorem powerCapExceeded (milliwatts : Nat) : Statement (.powerCapExceeded milliwatts) := .inl rfl
theorem foldMapChange (core : Nat) (cls : BitVec 8) : Statement (.foldMapChange core cls) := .inl rfl
theorem write (f : Frame) : Statement (.write f) := .inl rfl
theorem readreq (f : Frame) : Statement (.readreq f) := .inl rfl
theorem readresp (f : Frame) : Statement (.readresp f) := .inl rfl
theorem wake (f : Frame) : Statement (.wake f) := .inl rfl
theorem done (f : Frame) : Statement (.done f) := .inl rfl
theorem ack (f : Frame) : Statement (.ack f) := .inl rfl
theorem nak (f : Frame) : Statement (.nak f) := .inl rfl
theorem probe (f : Frame) : Statement (.probe f) := .inl rfl
theorem probeack (f : Frame) : Statement (.probeack f) := .inl rfl
theorem stripeTimeout (pkg port : Nat) : Statement (.stripeTimeout pkg port) := .inl rfl
theorem portLinkLoss (port : Nat) : Statement (.portLinkLoss port) := .inl rfl
theorem accessPerforms (a : Access) : Statement (.accessPerforms a) := .inl rfl
theorem hostLinkCompletion (a : Access) : Statement (.hostLinkCompletion a) := .inl rfl
theorem engineAccessPerform (f : Flight) : Statement (.engineAccessPerform f) := .inl rfl
theorem effectivePriorityPromotion (task : Nat) : Statement (.effectivePriorityPromotion task) := .inl rfl
theorem tapeAffinityWaitExpiry (task : Nat) : Statement (.tapeAffinityWaitExpiry task) := .inl rfl
theorem pageEviction (asid va : Nat) (hostPage : Nat) : Statement (.pageEviction asid va hostPage) := .inl rfl
theorem logicPlyJunctionLimit (die ply : Nat) : Statement (.logicPlyJunctionLimit die ply) := .inl rfl
theorem recordHintRegionIssue (x : Issue) : Statement (.recordHintRegionIssue x) := .inl rfl
theorem leave : Statement .leave := .inr (.inl rfl)
theorem sege : Statement .sege := .inr (.inl rfl)
theorem eret : Statement .eret := .inr (.inl rfl)
theorem endCtx : Statement .endCtx := .inr (.inl rfl)
theorem yield : Statement .yield := .inr (.inl rfl)
theorem tapeRec : Statement .tapeRec := .inr (.inl rfl)
theorem tapeEnd : Statement .tapeEnd := .inr (.inl rfl)
theorem tapeDrop : Statement .tapeDrop := .inr (.inl rfl)
theorem nop : Statement .nop := .inr (.inl rfl)
theorem segmentRelease : Statement .segmentRelease := .inl rfl
theorem gangStartMissed : Statement .gangStartMissed := .inl rfl
theorem segeCompletion : Statement .segeCompletion := .inl rfl
theorem walkCompletion : Statement .walkCompletion := .inl rfl
theorem gangReRelease : Statement .gangReRelease := .inl rfl
theorem replayResume : Statement .replayResume := .inl rfl
theorem refreshDeadline : Statement .refreshDeadline := .inl rfl
theorem looseCodeWatchdog : Statement .looseCodeWatchdog := .inl rfl
theorem looseCopyOverrun : Statement .looseCopyOverrun := .inl rfl
theorem barWaitCompletion : Statement .barWaitCompletion := .inl rfl
theorem waitcSatisfied : Statement .waitcSatisfied := .inl rfl
theorem waysChange : Statement .waysChange := .inl rfl
theorem waysRetire : Statement .waysRetire := .inl rfl
theorem preemption : Statement .preemption := .inl rfl
theorem periodicReadinessTest : Statement .periodicReadinessTest := .inl rfl
theorem abandon : Statement .abandon := .inl rfl
theorem heartbeat : Statement .heartbeat := .inl rfl
theorem heartbeatMissed : Statement .heartbeatMissed := .inl rfl
theorem postponedBurstsIssued : Statement .postponedBurstsIssued := .inl rfl
theorem thermalTrip : Statement .thermalTrip := .inl rfl
theorem packageReset : Statement .packageReset := .inl rfl
theorem probePeriod : Statement .probePeriod := .inl rfl
theorem playedForward : Statement .playedForward := .inl rfl
theorem ackInterval : Statement .ackInterval := .inl rfl
theorem gapNak : Statement .gapNak := .inl rfl
theorem retransmitTimeout : Statement .retransmitTimeout := .inl rfl
theorem coreClockCycle : Statement .coreClockCycle := .inl rfl
theorem machineCheck : Statement .machineCheck := .inl rfl

end Sys2Proof.Laws.EncodeLength
end

