-- ==== Sys2Proof/Laws/Word.lean ====
section
/-! SUPPORT. What the endings shared by the control-core words do: `finishWord` and `retire`, each said once. -/

namespace Sys2Proof.Machine

/-- The state in which `finishWord` ends. -/
theorem finishWord_eq (size : Nat) (d : BitVec 5) (lat : Nat) (v : Word) (s : State) :
    finishWord size d lat v s = .next (retire size 1 (setBusy d.toNat lat (writeG d v s))) := rfl

@[simp] theorem clk_setBusy (k lat : Nat) (s : State) : clk (setBusy k lat s) = clk s := by
  unfold setBusy; split
  · rfl
  · unfold clk now tempoNow; rw [curCtx_updCore, curCore_updCore]; rfl

@[simp] theorem clk_writeG (d : BitVec 5) (v : Word) (s : State) : clk (writeG d v s) = clk s := by
  unfold writeG; split
  · rfl
  · unfold clk now tempoNow; rw [curCore_updCore, curCtx_updCore, noteWrite_inShadow, updRegs_inShadow]; rfl

theorem curCore_retire (size cyc : Nat) (s : State) :
    curCore (retire size cyc s) =
      { curCore s with
        ready := if (curCtx s).inShadow then (curCore s).ready else clk s + cyc
        shReady := if (curCtx s).inShadow then clk s + cyc else (curCore s).shReady
        ctx := updRegs (fun r => { r with pc := r.pc + BitVec.ofNat 64 size }) (curCtx s) } := by
  unfold retire setReady
  rw [curCore_updCore, clk_updCtx_regs, curCore_updCtx]
  simp only [updRegs_inShadow]
  split <;> rfl

theorem curCore_writeG (d : BitVec 5) (v : Word) (s : State) :
    curCore (writeG d v s) =
      { curCore s with
        loading := if d = 0 then (curCore s).loading else KMap.set 0 (curCore s).loading (regKey (curCtx s) d.toNat) 0
        ctx := if d = 0 then curCtx s else noteWrite d.toNat (updRegs (Regs.write d.toNat v) (curCtx s)) } := by
  unfold writeG; split
  · rfl
  · rw [curCore_updCore]; rfl

theorem curCore_setBusy (k lat : Nat) (s : State) :
    curCore (setBusy k lat s) =
      { curCore s with
        busy := if k = 0 then (curCore s).busy else KMap.set 0 (curCore s).busy (regKey (curCtx s) k) (clk s + lat) } := by
  unfold setBusy; split
  · rfl
  · rw [curCore_updCore]; rfl

theorem OnlyControl.refl (c : Core) : OnlyControl c c := rfl
theorem OnlyControl.trans {c d e : Core} (h : OnlyControl c d) (h' : OnlyControl d e) : OnlyControl c e := by
  unfold OnlyControl at *; rw [h', h]
theorem OnlyRegs.refl (c : Ctx) : OnlyRegs c c := ⟨rfl, by split <;> rfl⟩
theorem OnlyRegs.inShadow {c d : Ctx} (h : OnlyRegs c d) : d.inShadow = c.inShadow :=
  (congrArg Ctx.inShadow h.1).trans rfl
theorem OnlyRegs.trans {c d e : Ctx} (h : OnlyRegs c d) (h' : OnlyRegs d e) : OnlyRegs c e := by
  refine ⟨?_, ?_⟩
  · conv_lhs => rw [h'.1, h.1]
  · have a := h.2; have b := h'.2; rw [h.inShadow] at b
    split <;> rename_i hs <;> simp only [hs] at a b <;> simp_all
theorem onlyRegs_updRegs (f : Regs → Regs) (c : Ctx) : OnlyRegs c (updRegs f c) := by
  unfold OnlyRegs updRegs; refine ⟨?_, ?_⟩ <;> split <;> rfl
theorem onlyRegs_noteWrite (b : Nat) (c : Ctx) : OnlyRegs c (noteWrite b c) := by
  unfold OnlyRegs noteWrite noteMain; refine ⟨?_, ?_⟩ <;> split <;> (try split) <;> rfl

/-- A word that writes no register is done once it retires. -/
theorem retire_done (size cyc : Nat) (s : State) : WordDone s (retire size cyc s) (pcOf s + BitVec.ofNat 64 size) cyc 0 := by
  refine ⟨⟨?_, ?_, ?_, rfl, ?_, ?_, ?_⟩, ?_, ?_, ?_⟩
  · exact onlyFocus_retire size cyc s
  · rw [curCore_retire]; rfl
  · rw [curCtx_retire]; exact onlyRegs_updRegs _ _
  · unfold pcOf; rw [curCtx_retire, regs_updRegs]
  · unfold nextIssue; rw [curCore_retire, curCtx_retire, updRegs_inShadow]; split <;> rfl
  · exact .of_focus (onlyFocus_retire size cyc s) (by rw [curCore_retire])
  · intro n _; unfold readG; rw [curCtx_retire, regs_updRegs]; rfl
  · intro b; unfold readBt; rw [curCtx_retire, regs_updRegs]
  · unfold readP; rw [curCtx_retire, regs_updRegs]

theorem regs_writeG (d : BitVec 5) (v : Word) (s : State) :
    regs (curCtx (writeG d v s)) = Regs.write d.toNat v (regs (curCtx s)) := by
  rw [curCtx_writeG]; split
  · rename_i h; subst h; rfl
  · rw [regs_noteWrite, regs_updRegs]

theorem readG_writeG (d n : BitVec 5) (v : Word) (s : State) :
    readG (writeG d v s) n = if n = d ∧ d ≠ 0 then v else readG s n := by
  unfold readG
  rw [regs_writeG, Regs.read_write]
  have h1 : n = d ↔ n.toNat = d.toNat := BitVec.toNat_inj.symm
  have h2 : d = 0 ↔ d.toNat = 0 := BitVec.toNat_inj.symm
  simp only [h1, ne_eq, h2]

/-- What stands before the retirement of a word, and is left as it was by it. -/
theorem retire_after {s u : State} (size cyc : Nat) (d : BitVec 5) (hf : OnlyFocus s u)
    (hc : OnlyControl (curCore s) (curCore u)) (hr : OnlyRegs (curCtx s) (curCtx u))
    (hg : ∀ n, n ≠ d → readG u n = readG s n) (hb : (regs (curCtx u)).bt = (regs (curCtx s)).bt)
    (hp : (regs (curCtx u)).p = (regs (curCtx s)).p) (hpc : (regs (curCtx u)).pc = (regs (curCtx s)).pc)
    (hk : clk u = clk s) :
    WordDone s (retire size cyc u) (pcOf s + BitVec.ofNat 64 size) cyc d := by
  have h := retire_done size cyc u
  have hs : SameBytes s u := .of_focus hf ((congrArg Core.sp hc).trans rfl)
  refine ⟨⟨?_, ?_, ?_, rfl, ?_, ?_, ?_⟩, ?_, ?_, ?_⟩
  · exact hf.trans h.focus
  · exact hc.trans h.core
  · exact hr.trans h.ctx
  · rw [h.pc]; unfold pcOf; rw [hpc]
  · rw [h.issue, hk]
  · exact ⟨fun p => (h.bytes.1 p).trans (hs.1 p), fun k a => (h.bytes.2 k a).trans (hs.2 k a)⟩
  · intro n hn
    by_cases h0 : n = 0
    · rw [h0]; rfl
    · rw [h.others n h0, hg n hn]
  · intro b; rw [h.bt b]; unfold readBt; rw [hb]
  · rw [h.pred]; exact hp

/-- A word that writes a general register is done, with its value written, once it finishes. -/
theorem finishWord_done (size : Nat) (d : BitVec 5) (lat : Nat) (v : Word) (s : State) :
    ∃ t, finishWord size d lat v s = .next t ∧ WordDone s t (pcOf s + BitVec.ofNat 64 size) 1 d ∧ Wrote s t d v lat := by
  refine ⟨_, rfl, retire_after size 1 d ?_ ?_ ?_ ?_ ?_ ?_ ?_ ?_, fun hd => ⟨?_, ?_⟩⟩
  · exact (onlyFocus_writeG d v s).trans (onlyFocus_setBusy _ _ _)
  · rw [curCore_setBusy, curCore_writeG]; rfl
  · rw [curCtx_setBusy, curCtx_writeG]; split
    · exact .refl _
    · exact (onlyRegs_updRegs _ _).trans (onlyRegs_noteWrite _ _)
  · intro n hn; unfold readG; rw [curCtx_setBusy]
    exact (readG_writeG d n v s).trans (if_neg fun h => hn h.1)
  · rw [curCtx_setBusy, regs_writeG, Regs.write_bt]
  · rw [curCtx_setBusy, regs_writeG, Regs.write_p]
  · rw [curCtx_setBusy, regs_writeG, Regs.write_pc]
  · rw [clk_setBusy, clk_writeG]
  · rw [(retire_done size 1 _).others d hd]; unfold readG; rw [curCtx_setBusy]
    exact (readG_writeG d d v s).trans (if_pos ⟨rfl, hd⟩)
  · unfold readableAt
    rw [curCore_retire, curCtx_retire, curCore_setBusy, curCtx_setBusy, clk_writeG, curCtx_writeG, if_neg hd]
    have hn : d.toNat ≠ 0 := fun h => hd (BitVec.eq_of_toNat_eq h)
    simp only [regKey, updRegs_inShadow, noteWrite_inShadow, if_neg hn, KMap.get_set_same]

end Sys2Proof.Machine
end

