-- ==== Sys2Proof/Tests/Slice0.lean ====
section
/-! SUPPORT. The model's own tests: ill-formed terms are refused, words written out from their forms decode, single
steps give what the manual's examples say, and every statement's hypotheses are met somewhere. -/

open Sys2Proof Sys2Proof.Machine

namespace Sys2Proof.Tests

-- One theorem at a time: the many small decisions below would otherwise each take a thread.
set_option Elab.async false

/-! ## Small records, streams and states -/

/-- A field of a line at a bit. -/
def fld (v k : Nat) : Line := BitVec.ofNat 512 v <<< k

/-- A record line of one issue: column, operation, names of D, A and B, modifier (R57). -/
def recLine (col op d a b mod : Nat) : Line :=
  fld 0x7F 25 + fld col 21 + fld op 9 + fld 1 96 + fld 1 112 + fld 1 128 + fld 1 144 + fld d 160 + fld a 168 + fld b 176
    + fld mod 424

/-- The one issue of such a record, with the streams it names. -/
def issueOf (col op d a b mod : Nat) (sD sA sB : Line) : Issue :=
  { Issue.zero with col := col, raw := recLine col op d a b mod, sD := sD, sA := sA, sB := sB, seq := 1, first := true, last := true }

/-- A stream (R112): space, base, row and tile pitch, rows, columns, format. -/
def stream (space base rowPitch tilePitch rows cols fmt : Nat) : Line :=
  fld base 0 + fld space 57 + fld rowPitch 64 + fld tilePitch 96 + fld (rows - 1) 128 + fld (cols - 1) 136 + fld fmt 144

/-- A context of task 1 with a handler. -/
def ctx1 : Ctx := { Ctx.launch with task := 1, codeSize := 4096, codeBase := 0x40000, handler := 64, q := 4, m := 2, barriers := 2 }

/-- Core 0 runs that context; its page at 0x10000 is in the translation cache, writable, at 0x20000 (R243). -/
def base : State :=
  { State.reset with
    cores := [(0, { Core.reset with resident := true, ctx := ctx1 })]
    dies := [(0, { Die.reset with tlb := [⟨0, 0x10000, 0x10000, 0x20009, 0⟩] })] }

/-- The same with a register set. -/
def withG (n : Nat) (v : Word) (s : State) : State := updCtx (fun c => { c with main := c.main.write n v }) s

/-- The same inside a segment, and in the shadow context. -/
def seg : State := updSeg (fun g => { g with phase := .running }) base
def shadow : State := updCtx (fun c => { c with inShadow := true }) base

/-- No line is cached, so the caches agree with DRAM. -/
theorem coherent_empty {s : State} (h : ∀ d, (getDie s d).l2 = []) : Coherent s :=
  fun d => ⟨by simp [h d], by simp [h d], by simp [h d], by simp [h d]⟩

theorem base_l2 (d : Nat) : (getDie base d).l2 = [] := by
  unfold getDie base; simp only [KMap.get]; split <;> rfl

theorem base_coherent : Coherent base := coherent_empty base_l2

/-! ## Ill-formed terms are refused -/

theorem test_ill_specialNumber : illFormed (.gets 3 3) = some .specialNumber := by decide
theorem test_ill_tapeLimit : illFormed (.tapePatch 16 1) = some .tapeLimit ∧ illFormed (.tapeGuard 8 1) = some .tapeLimit := by
  decide
theorem test_ill_fenceMask : illFormed (.fenceFull 0 0) = some .fenceMask := by decide
theorem test_ill_hintWord : illFormed (.hintRegion 0x02000000) = some .hintWord ∧ illFormed (.hintRegion 0xE0000000) = some .hintWord
    ∧ illFormed (.hintRegion 0xFC000000) = none := by decide
theorem test_ill_recordMark : illFormed (.recordForward 0) = some .recordMark := by decide +kernel
theorem test_ill_operation : illFormed (.vadd (issueOf 2 1 0x40 0x41 0x42 0 0 0 0)) = some .operation := by decide +kernel
theorem test_ill_position : illFormed (.vadd { issueOf 2 0 0x40 0x41 0x42 0 0 0 0 with i0 := 1 }) = some .position := by decide +kernel
theorem test_ill_flightKind : illFormed (.vectorLanding ⟨0, 0, 0, 0, .load 1 1 0⟩) = some .flightKind := by decide
theorem test_ill_range : illFormed (.logicPlyJunctionLimit 8 0) = some .range := by decide

/-! ## Words written out from their forms (R48 to R55) -/

theorem test_decode_sub : decodeTableWord 32 (0x01#7 ++ 5#5 ++ 6#5 ++ 7#5 ++ 0x01#6 ++ 0#4).toNat = some (.sub 5 6 7) := by decide
theorem test_decode_lea : decodeTableWord 32 (0x02#7 ++ 5#5 ++ 6#5 ++ 7#5 ++ 3#6 ++ 0#4).toNat = some (.lea 5 6 7 3) := by decide
theorem test_decode_fsh : decodeTableWord 32 (0x03#7 ++ 5#5 ++ 6#5 ++ 7#5 ++ 63#6 ++ 0#4).toNat = some (.fsh 5 6 7 63) := by decide
theorem test_decode_bfi : decodeTableWord 32 (0x05#7 ++ 5#5 ++ 6#5 ++ 0#3 ++ 12#6 ++ 33#6).toNat = some (.bfi 5 6 12 33) := by decide
theorem test_decode_sari : decodeTableWord 32 (0x0E#7 ++ 5#5 ++ 6#5 ++ 0#9 ++ 40#6).toNat = some (.sari 5 6 40) := by decide
theorem test_decode_addi : decodeTableWord 32 0x10318001 = some (.addi 3 3 1) := by decide
theorem test_decode_ld : decodeTableWord 32 0x36510021 = some (.ldD 5 2 2 1) := by decide
theorem test_decode_st : decodeTableWord 32 (0x1C#7 ++ 9#5 ++ 2#5 ++ 0x7FF#11 ++ 3#4).toNat = some (.stB 9 2 0x7FF 3) := by decide
theorem test_decode_lds : decodeTableWord 32 (0x22#7 ++ 9#5 ++ 2#5 ++ 5#11 ++ 0#4).toNat = some (.ldsW 9 2 5 0) := by decide
theorem test_decode_cas : decodeTableWord 32 (0x29#7 ++ 1#5 ++ 2#5 ++ 3#5 ++ 2#2 ++ 0#3 ++ 1#1 ++ 7#4).toNat = some (.cas 1 2 3 2 1 7) := by
  decide
theorem test_decode_lih : decodeTableWord 64 ((0xFFFFFFFF#32 ++ (0x10#7 ++ 6#5 ++ 0#10 ++ 1#6 ++ 0#4)).toNat) = some (.lih 6 0xFFFFFFFF) := by
  decide
theorem test_decode_jmp : decodeTableWord 32 (0x31#7 ++ 6#4 ++ 3#3 ++ 0#5 ++ 0#5 ++ 0#8).toNat = some (.jmp 3 0) := by decide
theorem test_decode_call : decodeTableWord 32 (0x32#7 ++ 0#4 ++ 3#3 ++ 31#5 ++ 0#13).toNat = some (.call 3 31) := by decide
theorem test_decode_loopw : decodeTableWord 32 0x6804C000 = some (.loopw 1 6) := by decide
theorem test_decode_segb : decodeTableWord 32 (0x38#7 ++ 0#3 ++ 0x200000#22).toNat = some (.segb 0x200000) := by decide
theorem test_decode_align : decodeTableWord 32 0x72000000 = some (.align 0) := by decide
theorem test_decode_sege : decodeTableWord 32 0x74000000 = some .sege := by decide
theorem test_decode_waitc : decodeTableWord 32 (0x3B#7 ++ 1#5 ++ 2#5 ++ 3#5 ++ 0#6 ++ 9#4).toNat = some (.waitc 1 2 3 9) := by decide
theorem test_decode_gets : decodeTableWord 32 (0x40#7 ++ 7#5 ++ 0#5 ++ 0x041#15).toNat = some (.gets 7 0x41) := by decide
theorem test_decode_eret : decodeTableWord 32 0x86000000 = some .eret := by decide
theorem test_decode_fence : decodeTableWord 64 (((0#12 ++ 1#2 ++ 3#2 ++ 0x8001#16) ++ (0x45#7 ++ 0#25)).toNat)
    = some (.fenceAcq 3 0x8001) := by decide
theorem test_decode_tape : decodeTableWord 32 (0x48#7 ++ 15#5 ++ 4#5 ++ 0#5 ++ 3#6 ++ 0#4).toNat = some (.tapePatch 15 4) := by decide
theorem test_decode_bar : decodeTableWord 32 (0x4C#7 ++ 4#5 ++ 0#5 ++ 0#5 ++ 1023#10).toNat = some (.barWait 4 1023) := by decide
theorem test_decode_ways : decodeTableWord 32 (0x50#7 ++ 0#5 ++ 4#5 ++ 0#15).toNat = some (.ways 4) := by decide
theorem test_decode_inval : decodeTableWord 32 (0x52#7 ++ 0#5 ++ 4#5 ++ 5#5 ++ 0#6 ++ 2#4).toNat = some (.inval 4 5 2) := by decide
theorem test_decode_sset : decodeTableWord 32 (0x59#7 ++ 0#5 ++ 4#5 ++ 0#6 ++ 7#3 ++ 63#6).toNat = some (.sset 4 7 63) := by decide
theorem test_decode_hint : decodeTableWord 32 (0x7E#7 ++ 0x1FFFFFF#25).toNat = some (.hintRegion 0xFDFFFFFF) := by decide

/-- The record of the manual's worked example (R65), word by word. -/
def example65 : Line :=
  fld 0xFE400000 0 + fld 0x28 32 + fld 0x00020002 64 + fld 0x00010004 96 + fld 0x00010001 128 + fld 0x01504048 160
    + fld 0x100 256 + fld 0x900 480

theorem test_decode_record : decodeTableWord 512 example65.toNat = some (.recordForward example65) := by decide +kernel
theorem test_record_fields : colOf example65 = 2 ∧ opOf example65 = 0 ∧ recStamp example65 = 40 ∧ recII example65 = 2
    ∧ tripOf example65 0 = 4 ∧ nameD example65 = 0x48 ∧ nameA example65 = 0x40 ∧ nameB example65 = 0x50
    ∧ strideD example65 0 = 1 ∧ strideA example65 0 = 1 ∧ strideB example65 0 = 0 := by decide +kernel

/-- Operations of every column, by column and operation code (R63). -/
theorem test_operation_va : recordInstr (issueOf 2 0 0x48 0x40 0x50 0 0 0 0) = some (.vadd (issueOf 2 0 0x48 0x40 0x50 0 0 0 0)) := by decide +kernel
theorem test_operation_vb : recordInstr (issueOf 3 0x55 0x48 0 0 0 0 0 0) = some (.vpop (issueOf 3 0x55 0x48 0 0 0 0 0 0)) := by decide +kernel
theorem test_operation_mx : recordInstr (issueOf 1 6 0x48 0x60 0 0 0 0 0) = some (.mrep (issueOf 1 6 0x48 0x60 0 0 0 0 0)) := by decide +kernel
theorem test_operation_sf : recordInstr (issueOf 4 8 0x48 0x49 0 0 0 0 0) = some (.fsig (issueOf 4 8 0x48 0x49 0 0 0 0 0)) := by decide +kernel
theorem test_operation_cp : recordInstr (issueOf 5 5 0 0 0x80 0 0 0 0) = some (.cpyZ (issueOf 5 5 0 0 0x80 0 0 0 0)) := by decide +kernel
theorem test_operation_nb : recordInstr (issueOf 7 3 0x48 0 0 0 0 0 0) = some (.nbStat (issueOf 7 3 0x48 0 0 0 0 0 0)) := by decide +kernel
theorem test_operation_none : recordInstr (issueOf 4 9 0x48 0x49 0 0 0 0 0) = none := by decide +kernel

/-! ## Single steps: expected values from the rules, worked by hand -/

/-- The instruction answers a next state of which the test holds. -/
def runs (i : Instr) (s : State) (p : State → Bool) : Bool :=
  match exec i s with
  | .next t => p t
  | .fault _ => false
  | .refused _ => false

/-- g2 and g3 hold the two values. -/
def two (a b : Word) : State := withG 3 b (withG 2 a base)

theorem test_add_wraps : runs (.add 1 2 3) (two 0xFFFFFFFFFFFFFFFF 2) (fun t => readG t 1 == 1 && pcOf t == 4) = true := by decide
theorem test_add_g0_discards : runs (.add 0 2 3) (two 5 2) (fun t => readG t 0 == 0) = true := by decide
theorem test_mulh_signed : runs (.mulh 1 2 3) (two (-1) 2) (fun t => readG t 1 == -1) = true := by decide
theorem test_mulhu : runs (.mulhu 1 2 3) (two (-1) (-1)) (fun t => readG t 1 == -2) = true := by decide
theorem test_div_by_zero : runs (.div 1 2 3) (two 7 0) (fun t => readG t 1 == -1) = true := by decide
theorem test_div_corner : runs (.div 1 2 3) (two 0x8000000000000000 (-1)) (fun t => readG t 1 == 0x8000000000000000) = true := by
  decide
theorem test_rem_sign : runs (.rem 1 2 3) (two (-7) 2) (fun t => readG t 1 == -1) = true := by decide
theorem test_shl_amount : runs (.shl 1 2 3) (two 1 65) (fun t => readG t 1 == 2) = true := by decide
theorem test_sar_sign : runs (.sar 1 2 3) (two (-8) 1) (fun t => readG t 1 == -4) = true := by decide
theorem test_sltu_unsigned : runs (.sltu 1 2 3) (two 1 (-1)) (fun t => readG t 1 == 1) = true := by decide
theorem test_slt_signed : runs (.slt 1 2 3) (two 1 (-1)) (fun t => readG t 1 == 0) = true := by decide
theorem test_clz_zero : runs (.clz 1 2) (two 0 0) (fun t => readG t 1 == 64) = true := by decide
theorem test_fsh_rotate : runs (.fsh 1 2 2 4) (two 0x123 0) (fun t => readG t 1 == 0x3000000000000012) = true := by decide
theorem test_bfx_top : runs (.bfx 1 2 7 60) (two 0xF000000000000001 0) (fun t => readG t 1 == 0xF) = true := by decide
theorem test_bfi_keeps : runs (.bfi 3 2 3 4) (two 0xA 0xFFFF) (fun t => readG t 3 == 0xFFAF) = true := by decide
theorem test_andi_signed : runs (.andi 1 2 0x7FF0) (two 0x1F 0) (fun t => readG t 1 == 0x10) = true := by decide
theorem test_lih_keeps_low : runs (.lih 2 0xFFFFFFFF) (two 5 0) (fun t => readG t 2 == 0xFFFFFFFF00000005 && pcOf t == 8) = true := by
  decide

/-- The loop of chapter 04's worked example: g6 = 0x1_0000_0002, P = 1; the second pass is live in both stages. -/
theorem test_loopw : runs (.loopw 1 6) (withG 6 0x0000000100000002 (writeBt 1 0x40000 (updCore (fun c =>
    { c with istore := [(3, 0xE0)] }) base)))
    (fun t => readP t == 3 && readG t 6 == 0x0000000100000001 && (curCtx t).lpass == 1) = true := by decide
theorem test_loopw_falls : runs (.loopw 1 0) base (fun t => readP t == 1 && (curCtx t).lpass == 0 && pcOf t == 4) = true := by decide

theorem test_trap : runs (.trap 9) base (fun t => (curCtx t).inShadow && (curCtx t).trapCause == 0xFF && (curCtx t).trapInfo == 9
    && (curCtx t).trapPc == 4 && pcOf t == 0x40040 && readG t 1 == 0x01FFFFFF00000000) = true := by decide
theorem test_misaligned : runs (.ldD 1 2 0 0) (two 0x10004 0) (fun t => (curCtx t).trapCause == 4 && (curCtx t).trapInfo == 0x10004
    && (curCtx t).trapPc == 0) = true := by decide
theorem test_write_protect : runs (.stD 1 2 0 0) (withG 2 0x10000 (updDie 0 (fun d =>
    { d with tlb := [⟨0, 0x10000, 0x10000, 0x20001, 0⟩] }) base)) (fun t => (curCtx t).trapCause == 0x11) = true := by decide
theorem test_segment_event : runs (.sege) base (fun t => (curCtx t).inShadow) = true ∧
    runs (.sets 1 0x1B) seg (fun t => (curCore t).events.map Event.code == [0x07]) = true := by decide

theorem test_store_load : runs (.stD 3 2 1 0) (two 0x10000 0x1122334455667788) (fun t =>
    physByte t ⟨false, 0x20008⟩ == 0x88 && physByte t ⟨false, 0x2000F⟩ == 0x11 && physByte t ⟨false, 0x20010⟩ == 0) = true := by
  decide +kernel
theorem test_amo_min_signed : runs (.amoMin 1 2 3 0 0 0) (two 0x10000 0xFFFFFFFF) (fun t =>
    readG t 1 == 0 && physByte t ⟨false, 0x20000⟩ == 0xFF && physByte t ⟨false, 0x20004⟩ == 0) = true := by decide +kernel
theorem test_sts : runs (.stsH 3 2 0 0) (two 0x1FFFFE 0xABCD) (fun t => spByte t 0x1FFFFF == 0xAB && spByte t 0x1FFFFE == 0xCD) = true := by
  decide +kernel
theorem test_sts_bounds : runs (.stsD 3 2 0 0) (two 0x200000 0) (fun t => (curCtx t).trapCause == 6) = true := by decide +kernel

/-- Elements of binary32: 1, 2, 3, a NaN with a payload (R107, R155, R156). -/
theorem test_f32_add : addF .rne (f32 0x3F800000) (f32 0x40000000) = 0x40400000 := by decide +kernel
theorem test_f32_min_zero : minMaxLane false 0 0 0x80000000 = 0x80000000 := by decide +kernel
theorem test_f32_cmp_nan : cmpLane 1 0 0x7FC00001 0 = 0xFFFFFFFF ∧ cmpLane 0 0 0x7FC00001 0 = 0 := by decide +kernel
theorem test_sf_special : sfValue 0 0x80000000 = 0xFF800000 ∧ sfValue 3 0x43000000 = 0x7F800000 ∧ sfValue 2 0x40800000 = 0x40000000 := by
  decide +kernel
theorem test_fold_latency : mxLatency 0x0F = 14 ∧ mxLatency 0x01 = 8 := by decide

theorem test_reset_refuses : runs (.config 0 (fld 2 0)) State.reset (fun t => slotStatus t 0 == 1) = true := by decide +kernel

/-! ## The hypotheses of the statements are met -/

theorem wit_IntegerWordResult : ∃ v, wordResult base (.lih 31 5) = some (31, v, 8, 1) := ⟨_, rfl⟩

theorem wit_DivisionAndFieldResult : (divResult (two 7 0) (.div 1 2 3) = some (1, 0, BitVec.ofInt 64 (-1)) ∧ (curCtx (two 7 0)).atrap = false)
    ∧ (divResult (two (-7) 2) (.rem 31 2 3) = some (31, 2, BitVec.ofInt 64 (-1)) ∧ (2 : Word) ≠ 0) := by decide

theorem two_quiet (a b : Word) : QuietPort (two a b) := ⟨rfl, rfl, rfl, rfl⟩
theorem two_coherent (a b : Word) : Coherent (two a b) := coherent_empty base_l2

theorem wit_LoadStoreResult :
    (loadOf (two 0x1FFFF 0) (.ldB 1 2 0 15) = some (1, 0x1FFFF, 1) ∧ RunsLoose (two 0x1FFFF 0) ∧ QuietPort (two 0x1FFFF 0)
      ∧ Coherent (two 0x1FFFF 0) ∧ 0x1FFFF % 1 = 0 ∧ isWakePage 0x1FFFF = false
      ∧ accessTr (two 0x1FFFF 0) 0x1FFFF false = .ok ⟨false, 0x2FFFF⟩ true ∧ seenBad (two 0x1FFFF 0) 0x1FFFF ⟨false, 0x2FFFF⟩ = false)
    ∧ (storeOf (two 0x20000 0) (.stD 3 2 0x7FF 15) = some (3, 0x1FFF8, 8) ∧ inSegment (two 0x20000 0) = false ∧ QuietPort (two 0x20000 0)
      ∧ Coherent (two 0x20000 0) ∧ 0x1FFF8 % 8 = 0 ∧ isWakePage 0x1FFF8 = false ∧ isMailbox 0x1FFF8 = false
      ∧ accessTr (two 0x20000 0) 0x1FFF8 true = .ok ⟨false, 0x2FFF8⟩ true ∧ 0x2FFF8 % 8 = 0) :=
  ⟨⟨by decide, .inr (by decide), two_quiet .., two_coherent _ _, by decide, by decide, by decide, by decide⟩,
    ⟨by decide, by decide, two_quiet .., two_coherent _ _, by decide, by decide, by decide, by decide, by decide⟩⟩

/-- A context in a segment with an address in g2. -/
def segAt (v : Word) : State := withG 2 v seg

/-- A store that has issued and waits to perform. -/
def store1 : Access :=
  { id := 7, kind := .store, va := 0x10000, size := 8, data := 5, exp := 0, reg := 0, cls := 0, scope := 0, waits := [], due := 0
    seg := true, shadow := false, host := false }

/-- A load into g31 that waits to perform, of a segment or of loose code. -/
def load1 (inSeg : Bool) : Access := { store1 with kind := .load, reg := 31, due := 60, seg := inSeg }
def loading1 : State := updCore (fun c => { c with loading := [(31, 7)] }) base

theorem wit_SegmentAccesses :
    ((if true then storeOf (segAt 0x10000) (.stD 3 2 0 0) else loadOf (segAt 0x10000) (.stD 3 2 0 0)) = some (3, 0x10000, 8)
      ∧ inSegment (segAt 0x10000) = true ∧ (segAt 0x10000).oracle = [] ∧ 0x10000 % 8 = 0 ∧ isWakePage 0x10000 = false
      ∧ accessTr (segAt 0x10000) 0x10000 true = .ok ⟨false, 0x20000⟩ true ∧ (⟨false, 0x20000⟩ : Phys).host = false)
    ∧ ((if false then storeOf (segAt 0x10000) (.ldD 3 2 0 0) else loadOf (segAt 0x10000) (.ldD 3 2 0 0)) = some (3, 0x10000, 8)
      ∧ accessTr (segAt 0x10000) 0x10000 false = .ok ⟨false, 0x20000⟩ true ∧ loadsInFlight (curCore (segAt 0x10000)) < 8)
    ∧ (Coherent base ∧ store1.kind = .store ∧ isWakePage store1.va = false ∧ isMailbox store1.va = false
      ∧ translate base (curDie base) (curCtx base).asid store1.va true = .ok ⟨false, 0x20000⟩ true ∧ 0x20000 % store1.size = 0
      ∧ store1.size = 8 ∧ EndsNoAcquire base store1)
    ∧ (∀ b, Coherent loading1 ∧ (load1 b).kind = .load ∧ isWakePage (load1 b).va = false
      ∧ translate loading1 (curDie loading1) (curCtx loading1).asid (load1 b).va false = .ok ⟨false, 0x20000⟩ true
      ∧ EndsNoAcquire loading1 (load1 b) ∧ 0x20000 % (load1 b).size = 0 ∧ (load1 b).size = 8
      ∧ seenBad loading1 (load1 b).va ⟨false, 0x20000⟩ = false ∧ (load1 b).shadow = false ∧ (load1 b).due = 0 + 60
      ∧ (load1 b).seg = b ∧ (load1 b).reg = 31 ∧ KMap.get 0 (curCore loading1).loading (load1 b).reg = (load1 b).id)
    ∧ ((⟨0, 0, 0, 0, .load 31 5 7⟩ : Flight).kind = .load 31 5 7 ∧ 31 ≠ 0 ∧ 31 < 32
      ∧ KMap.get 0 (curCore (updCore (fun c => { c with loading := [(31, 5)] }) base)).loading 31 = 5
      ∧ KMap.get 0 (curCore base).loading 31 ≠ 5) :=
  ⟨by decide, by decide, ⟨base_coherent, by unfold EndsNoAcquire; decide⟩,
    fun b => ⟨coherent_empty base_l2, by unfold EndsNoAcquire; cases b <;> decide +kernel⟩, by decide⟩

theorem wit_ScratchpadWords :
    (scratchLoadOf (two 0x1FFFFE 0) (.ldsH 1 2 0 0) = some (1, 0x1FFFFE, 2) ∧ 0x1FFFFE % 2 = 0 ∧ 0x1FFFFE + 2 ≤ 2 ^ 21
      ∧ watched (curCore (two 0x1FFFFE 0)) 0x1FFFFE 2 = false ∧ spBadIn (curCore (two 0x1FFFFE 0)) 0x1FFFFE 2 = false)
    ∧ (scratchStoreOf (two 0 0) (.stsD 3 2 0 0) = some (3, 0, 8) ∧ 0 % 8 = 0 ∧ 0 + 8 ≤ 2 ^ 21 ∧ inSegment (two 0 0) = false)
    ∧ (scratchStoreOf (segAt 0x1FFFFE) (.stsH 3 2 0 0) = some (3, 0x1FFFFE, 2) ∧ inSegment (segAt 0x1FFFFE) = true) := by decide

/-- An atomic that adds 5 and returns the old word in g31, in the port. -/
def amo1 : Access := { store1 with kind := .amo 0, reg := 31, scope := 3 }

/-- The port of core 0 holds a store of class 0. -/
def behind : State := updCore (fun c => { c with pend := [{ store1 with id := 128 }] }) (two 0x10000 9)

theorem wit_AtomicResult :
    (∃ f, atomicOf (two 0x1FFFC 9) (.cas 1 2 3 3 0 0) = some (1, 0x1FFFC, 4, 3, f)
      ∧ RunsLoose (two 0x1FFFC 9) ∧ (two 0x1FFFC 9).cur < 128 ∧ 0x1FFFC % 4 = 0 ∧ isWakePage 0x1FFFC = false
      ∧ accessTr (two 0x1FFFC 9) 0x1FFFC true = .ok ⟨false, 0x2FFFC⟩ true ∧ QuietPort (two 0x1FFFC 9)
      ∧ Coherent (two 0x1FFFC 9) ∧ 0x2FFFC % 4 = 0 ∧ sectorBad (two 0x1FFFC 9) ⟨false, 0x2FFFC⟩ = false)
    ∧ (Coherent loading1 ∧ isAtomic amo1.kind = true ∧ isWakePage amo1.va = false
      ∧ translate loading1 (curDie loading1) (curCtx loading1).asid amo1.va true = .ok ⟨false, 0x20000⟩ true ∧ amo1.size = 8
      ∧ sectorBad loading1 ⟨false, 0x20000⟩ = false ∧ loading1.oracle = [] ∧ KMap.get 0 (curCore loading1).loading amo1.reg = amo1.id)
    ∧ ∃ f, atomicOf behind (.amoSwap 31 2 3 0 1 0) = some (31, 0x10000, 8, 0, f) ∧ RunsLoose behind ∧ behind.cur < 128
      ∧ accessTr behind 0x10000 true = .ok ⟨false, 0x20000⟩ true
      ∧ ∃ b ∈ (curCore behind).pend, b.shadow = (curCtx behind).inShadow ∧ b.cls = atomicClass (.amoSwap 31 2 3 0 1 0)
        ∧ accessPending behind b.id = true :=
  ⟨⟨_, rfl, .inr (by decide), by decide, by decide, by decide, by decide, two_quiet .., two_coherent _ _, by decide, by decide⟩,
    ⟨coherent_empty base_l2, by decide⟩, _, rfl, .inr (by decide), by decide, by decide, by decide⟩

/-- A misaligned atomic in a segment breaks two rules, and the lower code is raised (R84, R366). -/
theorem test_amo_misaligned : runs (.amoAdd 1 2 3 0 0 0) (withG 2 0x10002 seg) (fun t => (curCore t).events.map Event.code == [0x04]) = true := by
  decide +kernel

/-- bt1 and g2 hold the last word of the code object. -/
def atEnd : State := withG 2 0x40FFC (writeBt 1 0x40FFC base)

theorem wit_BranchResult : (branchOf atEnd (.bEq 1 3 4 1) = some (1, true) ∧ Enterable atEnd (readBt atEnd 1))
    ∧ branchOf atEnd (.bNe 7 3 4 1) = some (7, false) := by unfold Enterable; decide

theorem wit_CallReturnPtb : Enterable atEnd (readBt atEnd 1) ∧ Enterable atEnd (readG atEnd 2) := by unfold Enterable; decide

theorem wit_LoopAndLeave : (loopWindowNat (readP atEnd) (readG (withG 6 0x0000000F00000002 atEnd) 6) ≠ 0 ∧ Enterable atEnd (readBt atEnd 1))
    ∧ loopWindowNat (readP base) (readG base 0) = 0 := by unfold Enterable; decide

/-- A handler under way while the second issue of a record in column 3 is next. -/
def shadowQueue : State :=
  updCore (fun c => { c with queue := [{ x := issueOf 3 0 0 0 0 0 0 0 0, start := 0, ii := 1, total := 2, next := 1, pc := 0 }] }) shadow

theorem wit_GetsResult : (specialListed (0x41#15).toNat = true ∧ ((curCtx base).inShadow = true ∨ (0x41#15).toNat < 0x30 ∨ 0x37 < (0x41#15).toNat))
    ∧ (specialListed (0x37#15).toNat = true ∧ (curCtx shadow).inShadow = true
      ∧ (∀ q ∈ (curCore shadow).queue, q.x.col = 7 → q.next = 0 ∨ q.total ≤ q.next))
    ∧ (specialListed (0x33#15).toNat = true ∧ (curCtx shadowQueue).inShadow = true ∧ (expanding (curCore shadowQueue) 3).isSome = true) := by
  decide +kernel

theorem wit_SetsResult : specialListed (0x2A#15).toNat = true ∧ inSegment base = false ∧ inSegment shadow = false := by decide

theorem wit_WordsTrap :
    ((trapOf (two 0x10004 0) (.ldD 1 2 0 0)).isSome = true ∧ LooseMain (two 0x10004 0) ∧ (curCtx (two 0x10004 0)).handler ≠ 0)
    ∧ ((if true then storeOf (two 0x20000 0) (.stD 3 2 0 0) else loadOf (two 0x20000 0) (.stD 3 2 0 0)) = some (3, 0x20000, 8)
      ∧ LooseMain (two 0x20000 0) ∧ (curCtx (two 0x20000 0)).handler ≠ 0 ∧ 0x20000 % 8 = 0 ∧ isWakePage 0x20000 = false
      ∧ accessTr (two 0x20000 0) 0x20000 true = .fault 0x10 0 ∧ 0x10 ≤ 0x10 ∧ 0x10 ≤ 0x14)
    ∧ ((curCtx shadow).inShadow = true ∧ shadowForbidden .yield = true ∧ reportRoom shadow)
    ∧ (let s := pushEvent 0x45 0 0 0 shadow
      (curCtx s).inShadow = true ∧ (∃ e ∈ (curCore s).events, e.code = 0x45) ∧ s.cur < 128 ∧ (curCore s).resident = true)
    ∧ ((trapOf shadow (.gets 1 3)).isSome = true ∧ specialListed (3#15).toNat = false) :=
  ⟨⟨by decide, ⟨by decide, by decide⟩, by decide⟩, ⟨by decide, ⟨by decide, by decide⟩, by decide⟩, by unfold reportRoom; decide, by decide, by decide⟩

/-- A handler of HOW 3 whose gang waits for its new release, or still aborts. -/
def returning (p : Phase) : State :=
  updSeg (fun g => { g with phase := p, reReleased := true }) (updCtx (fun c => { c with trapCause := 0x310 }) shadow)

theorem wit_TrapAndReturn :
    (LooseMain base ∧ (curCtx base).handler ≠ 0) ∧ inSegment seg = true
    ∧ ((curCtx shadow).inShadow = true ∧ (∀ a ∈ (curCore shadow).pend, a.shadow = false)
      ∧ bitsAt (curCtx shadow).trapCause 8 4 ≠ 1 ∧ bitsAt (curCtx shadow).trapCause 8 4 ≠ 3)
    ∧ bitsAt (curCtx (updCtx (fun c => { c with trapCause := 0x110 }) shadow)).trapCause 8 4 = 1
    ∧ (∀ p ∈ [Phase.waiting, Phase.aborting], let s := returning p
      (curCtx s).inShadow = true ∧ bitsAt (curCtx s).trapCause 8 4 = 3 ∧ (∀ a ∈ (curCore s).pend, a.shadow = false)
        ∧ (getCore s 0).resident = true ∧ (getCore s 0).ctx.task = (curCtx s).task ∧ (getCore s 0).ctx.seg.reReleased = true
        ∧ bitsAt (getCore s 0).ctx.seg.hdr 144 12 = bitsAt (curCtx s).seg.hdr 144 12 ∧ (getCore s 0).ctx.seg.phase = p)
    ∧ (getCore shadow 1).ctx.task ≠ (curCtx shadow).task :=
  ⟨⟨⟨by decide, by decide⟩, by decide⟩, by decide, by decide, by decide, by decide +kernel, by decide⟩

/-- An access of class 15 pends; core 0 has read early a store that pends on core 1. -/
def pending15 (k : AccKind) : State := updCore (fun c => { c with pend := [{ store1 with cls := 15, kind := k }] }) base
def observing : State :=
  updCoreAt 1 (fun c => { c with pend := [{ store1 with id := 129 }] })
    (updCore (fun c => { c with observed := [⟨129, 0, false, some 2⟩] }) base)

theorem wit_FenceResult : (0x8000 : BitVec 16) ≠ 0 ∧ inSegment base = false
    ∧ ((∀ a ∈ (curCore base).pend, Ordered base 0x8000 a → accWrites a.kind = true) ∧ (∀ a ∈ (curCore base).pend, ¬ Ordered base 0x8000 a)
      ∧ (curCore base).fences = [] ∧ (curCore base).observed = [])
    ∧ (∃ a ∈ (curCore (pending15 .store)).pend, Ordered (pending15 .store) 0x8000 a ∧ accWrites a.kind = true
        ∧ scopeReaches (pending15 .store) 3 a = true)
    ∧ (∃ a ∈ (curCore (pending15 .load)).pend, Ordered (pending15 .load) 0x8000 a ∧ accWrites a.kind = false)
    ∧ (∃ o ∈ (curCore observing).observed, o.shadow = (curCtx observing).inShadow ∧ o.scope = some 2 ∧ (2#2).toNat ≤ 2
        ∧ accessPending observing o.id = true)
    ∧ ((curCore observing).pend = [] ∧ (curCore observing).fences = []) := by
  unfold Ordered; decide +kernel

theorem wit_RangeWordsResult : (inSegment (two 0x10000 0x10000) = false ∧ QuietPort (two 0x10000 0x10000) ∧ Coherent (two 0x10000 0x10000)
      ∧ 0 < (readG (two 0x10000 0x10000) 3).toNat ∧ (readG (two 0x10000 0x10000) 3).toNat ≤ 2 ^ 30
      ∧ accessFault (two 0x10000 0x10000) true (readG (two 0x10000 0x10000) 2).toNat (readG (two 0x10000 0x10000) 3).toNat = none)
    ∧ (inSegment (two 0 0x40000000) = false ∧ Coherent (two 0 0x40000000) ∧ (two 0 0x40000000).oracle = []
      ∧ (readG (two 0 0x40000000) 3).toNat ≤ 2 ^ 30) :=
  ⟨⟨by decide, two_quiet .., two_coherent _ _, by decide, by decide, by decide +kernel⟩, by decide, two_coherent _ _, by decide, by decide⟩

/-- A context that waits for the zero word at 0x10000. -/
def waiting (thr : Word) : State := updCtx (fun c => { c with wait := .waitc 31 0x10000 thr 0 }) base

theorem wit_WaitcResult :
    (inSegment (two 0x1FFF8 0) = false ∧ QuietPort (two 0x1FFF8 0) ∧ (readG (two 0x1FFF8 0) 2).toNat % 8 = 0
      ∧ translate (two 0x1FFF8 0) 0 (curCtx (two 0x1FFF8 0)).asid (readG (two 0x1FFF8 0) 2).toNat false = .ok ⟨false, 0x2FFF8⟩ true)
    ∧ (inSegment (two 0x01FFFFFFFFFFF008 0) = false ∧ QuietPort (two 0x01FFFFFFFFFFF008 0)
      ∧ (readG (two 0x01FFFFFFFFFFF008 0) 2).toNat % 8 = 0 ∧ isWakePage (readG (two 0x01FFFFFFFFFFF008 0) 2).toNat = true)
    ∧ ((curCtx (waiting 0)).wait = .waitc (31#5).toNat 0x10000 0 0 ∧ isWakePage 0x10000 = false
      ∧ translate (waiting 0) 0 0 0x10000 false = .ok ⟨false, 0x20000⟩ true ∧ sectorBad (waiting 0) ⟨false, 0x20000⟩ = false
      ∧ (0 : Word).toNat ≤ (wordOfBytes (physBytes (waiting 0) ⟨false, 0x20000⟩ 8)).toNat)
    ∧ (wordOfBytes (physBytes (waiting 1) ⟨false, 0x20000⟩ 8)).toNat < (1 : Word).toNat :=
  ⟨⟨by decide, two_quiet .., by decide, by decide⟩, ⟨by decide, two_quiet .., by decide, by decide⟩, by decide, by decide⟩

theorem wit_StreamWords :
    (inSegment (two 0x1FFC0 0) = false ∧ QuietPort (two 0x1FFC0 0) ∧ Coherent (two 0x1FFC0 0) ∧ (readG (two 0x1FFC0 0) 2).toNat % 64 = 0
      ∧ isWakePage (readG (two 0x1FFC0 0) 2).toNat = false
      ∧ translate (two 0x1FFC0 0) 0 0 (readG (two 0x1FFC0 0) 2).toNat false = .ok ⟨false, 0x2FFC0⟩ true
      ∧ seenBad (two 0x1FFC0 0) (readG (two 0x1FFC0 0) 2).toNat ⟨false, 0x2FFC0⟩ = false
      ∧ streamOk (BitVec.ofNat 512 (ofLeBytes (seenBytes (two 0x1FFC0 0) (readG (two 0x1FFC0 0) 2).toNat 64 ⟨false, 0x2FFC0⟩))) = true)
    ∧ streamOk (stClean (putBits (streamAt (curCtx (two 5 0)) (63#6).toNat) (64 * (7#3).toNat) 64 (readG (two 5 0) 2).toNat)) = true
    ∧ (63#6).toNat ∉ (curCore base).streamBad :=
  ⟨⟨by decide, two_quiet .., two_coherent _ _, by decide, by decide, by decide, by decide, by decide +kernel⟩, by decide +kernel, by decide⟩

/-- ALIGN in the last word of its line, its header of 1 cycle and any fold class at 0x40000 (R31). -/
def atAlign : State :=
  updCore (fun c => { c with istore := [(0, 1), (3, 0xFF)], ctx := { c.ctx with
    main := { c.ctx.main with pc := 0x4003C }, segb := some 0x40000 } }) base
/-- The same with a header of no cycles. -/
def atBadAlign : State := updCore (fun c => { c with istore := [(3, 0xFF)] }) atAlign

/-- The same with the header of a gang of two at tempo g1; and another member on core 1, which agrees on T or not. -/
def atGang : State :=
  updCore (fun c => { c with istore := [(0, 1), (3, 0xFF), (17, 3)], ctx := { c.ctx with gangs := true } }) atAlign
def gangHdr : Line := fld 1 0 + fld 0xFF 24 + fld 3 136
def gangOther (t : Nat) : State :=
  updCoreAt 1 (fun c => { c with resident := true, ctx := { ctx1 with seg := { Seg.loose with
    phase := .pre, hdr := gangHdr, gangT := t } } }) atGang

theorem wit_SegmentOpens_gang :
    (∃ h, h = gangHdr ∧ (curCtx atGang).rec_ = false ∧ LooseMain atGang
      ∧ (pcOf atGang).toNat % 64 = 60 ∧ (curCtx atGang).segb.map (namedHeader (curCore atGang)) = some (some h)
      ∧ alignCause (curCore atGang) (refCurrent atGang) h = none ∧ hdrGang h = true
      ∧ (∀ k, k < 128 → k ≠ (gangOther 0).cur → FormsWith (gangOther 0) h k → AgreesWith (gangOther 0) h (readG (gangOther 0) 1).toNat k)
      ∧ (∃ k, k < 128 ∧ k ≠ (gangOther 5).cur ∧ FormsWith (gangOther 5) h k ∧ ¬ AgreesWith (gangOther 5) h (readG (gangOther 5) 1).toNat k)
      ∧ (curCore (gangOther 5)).resident = true ∧ (curCtx (gangOther 5)).handler ≠ 0
      ∧ ∀ k, k < 128 → FormsWith (gangOther 5) h k → (getCore (gangOther 5) k).ctx.handler ≠ 0)
    ∧ (LooseMain base ∧ (pcOf base).toNat % 64 ≠ 60)
    ∧ ((pcOf atAlign).toNat % 64 = 60 ∧ (curCtx (updCtx (fun c => { c with segb := none }) atAlign)).segb = none)
    ∧ ((0x40020 : Word).toNat % 64 ≠ 0 ∧ (0x3FFC0 : Word).toNat < (curCtx atAlign).codeBase
      ∧ (curCtx atAlign).codeBase + (curCtx atAlign).codeSize < (0x41000 : Word).toNat + 64) := by
  refine ⟨⟨gangHdr, rfl, by decide, ⟨by decide, by decide⟩, by decide, by decide +kernel, by decide +kernel, by decide +kernel, ?_, ⟨1, ?_⟩,
    by decide +kernel, by decide +kernel, ?_⟩,
    ⟨⟨by decide, by decide⟩, by decide⟩, by decide, by decide +kernel⟩
  · unfold FormsWith AgreesWith; decide +kernel
  · unfold FormsWith AgreesWith; decide +kernel
  · unfold FormsWith; decide +kernel

theorem wit_SegmentOpens : ((curCtx base).inShadow = false ∧ inSegment base = false)
    ∧ (∃ h, (curCtx atAlign).rec_ = false ∧ LooseMain atAlign
      ∧ (pcOf atAlign).toNat % 64 = 60 ∧ (curCtx atAlign).segb.map (namedHeader (curCore atAlign)) = some (some h)
      ∧ alignCause (curCore atAlign) (refCurrent atAlign) h = none ∧ hdrGang h = false)
    ∧ ∃ h, LooseMain atBadAlign ∧ (pcOf atBadAlign).toNat % 64 = 60 ∧ (curCtx atBadAlign).handler ≠ 0
      ∧ (curCtx atBadAlign).segb.map (namedHeader (curCore atBadAlign)) = some (some h)
      ∧ alignCause (curCore atBadAlign) (refCurrent atBadAlign) h = some 0x24 :=
  ⟨by decide, ⟨_, by decide, ⟨by decide, by decide⟩, by decide, rfl, by decide +kernel, by decide +kernel⟩,
    _, ⟨by decide, by decide⟩, by decide, by decide, rfl, by decide +kernel⟩

/-- A segment about to be released; the same released once before; a gang of two with one member, at its time T. -/
def preSeg : State := updSeg (fun g => { g with phase := .pre }) base
def preSegAgain : State := updSeg (fun g => { g with phase := .pre, reReleased := true }) base
def gangAlone : State := updSeg (fun g => { g with phase := .pre, hdr := fld 1 136 + fld 1 137 }) base

theorem wit_SegmentReleases : releaseReady preSeg = true
    ∧ (releaseReady preSegAgain = true ∧ (curCtx preSegAgain).seg.reReleased = true)
    ∧ (segGang gangAlone = true ∧ (curCtx gangAlone).seg.phase = .pre ∧ (curCtx gangAlone).seg.gangT ≤ tempoNow gangAlone
      ∧ gangReady gangAlone = false ∧ ∀ k ∈ gangMembers gangAlone, (getCore gangAlone k).ctx.handler ≠ 0) := by decide +kernel

/-- A segment whose SEGE has issued at its last cycle, and of which everything has landed. -/
def closeSeg : State := updSeg (fun g => { g with phase := .closing, hdr := 1, segeAt := some 1, crc := 0xFFFFFFFF }) base

/-- The same with a deferred TRAP; and without a handler. -/
def trapSeg : State := updSeg (fun g => { g with trap := some (7, 9) }) closeSeg
def trapAlone : State := updCtx (fun c => { c with handler := 0 }) trapSeg

/-- The same recording, and with a stream that has passed its threshold. -/
def recSeg : State := updCtx (fun c => { c with rec_ := true }) closeSeg
def wideSeg : State := updCtx (fun c => { c with streams := [(0, fld 5 384)] }) recSeg

/-- The same as the only member of its gang; and with a notification to raise, while dispatch runs and while it does not. -/
def gangClose : State := updSeg (fun g => { g with hdr := 1 + fld 1 136 }) closeSeg
def notedSeg (c : Machine.Complex) : State :=
  { updSeg (fun g => { g with notes := 2 }) closeSeg with fw := { State.reset.fw with complex := c } }

/-- The one context of its task raises one notification into word 0 of a completion table in the page at 0x10000. -/
def notedOne : State :=
  setTask (updSeg (fun g => { g with notes := 1 }) closeSeg) 1
    { Task.none with notidx := 0, desc := { Ring.none with live := true, ctab := 0x10000 } }

theorem completes_of {s : State} (h : ((curCtx s).seg.phase == .closing && !(curCtx s).inShadow && landedAll (curCore s)
      && (curCore s).events.isEmpty && (curCore s).hold == .none && (curCore s).drain.isEmpty
      && (curCtx s).seg.segeAt == some (hdrCycles (curCtx s).seg.hdr)
      && crcFinal (curCtx s).seg.crc == hdrSig (curCtx s).seg.hdr) = true)
    (g : segGang s = true → ∀ k ∈ releasedGang s,
      (getCore s k).ctx.seg.phase = .closing ∧ endMismatches (getCore s k).ctx.seg = []) : Completes s := by
  simp only [Bool.and_eq_true, beq_iff_eq, Bool.not_eq_true', List.isEmpty_iff] at h
  obtain ⟨⟨⟨⟨⟨⟨⟨h1, h2⟩, h3⟩, h4⟩, h5⟩, h6⟩, h7⟩, h8⟩ := h
  exact ⟨h1, h2, h3, ⟨h4, h5, h6⟩, .inr ⟨h7, h8⟩, g⟩

theorem wit_SegmentCloses : inSegment seg = true
    ∧ (Completes closeSeg ∧ (curCtx closeSeg).seg.notes = 0 ∧ (curCtx closeSeg).rec_ = false ∧ (curCtx closeSeg).seg.trap = none)
    ∧ (Completes trapSeg ∧ (curCtx trapSeg).seg.trap = some (7, 9) ∧ (curCtx trapSeg).handler ≠ 0)
    ∧ (Completes trapAlone ∧ (curCtx trapAlone).seg.trap = some (7, 9) ∧ (curCtx trapAlone).handler = 0 ∧ reportRoom trapAlone)
    ∧ (Completes recSeg ∧ (curCtx recSeg).rec_ = true ∧ boundAgree (curCtx recSeg) = true
      ∧ (curCore recSeg).tape.entries.length + 6 ≤ 16384 ∧ widenAfter (curCtx recSeg) = (curCtx recSeg).widen
      ∧ (curCtx recSeg).seg.trap = none)
    ∧ (Completes wideSeg ∧ (curCtx wideSeg).rec_ = true ∧ widenAfter (curCtx wideSeg) ≠ (curCtx wideSeg).widen
      ∧ (curCtx wideSeg).seg.trap = none)
    ∧ (Completes gangClose ∧ segGang gangClose = true ∧ 0 ∈ releasedGang gangClose)
    ∧ ((notedSeg .running).notes = [] ∧ complexRuns (notedSeg .running) = true ∧ (curCore (notedSeg .running)).observed = []
      ∧ complexRuns (notedSeg .locked) = false ∧ (curCtx (notedSeg .locked)).seg.notes ≠ 0)
    ∧ (let s := notedOne; let k := getTask s (curCtx s).task
      Completes s ∧ s.notes = [] ∧ complexRuns s = true ∧ (curCore s).observed = [] ∧ (curCtx s).seg.notes = 1
        ∧ k.taken = KMap.get 0 k.raised (curCtx s).spidx ∧ k.contexts = 1 ∧ (curCtx s).spidx = 0 ∧ k.notidx ≠ 0xFFFF ∧ Coherent s
        ∧ firmwarePhys s k.desc.owner k.desc.asid (k.desc.ctab + 8 * k.notidx) = some ⟨false, 0x20000⟩) := by
  refine ⟨by decide, ⟨completes_of (by decide +kernel) (by decide +kernel), by decide⟩,
    ⟨completes_of (by decide +kernel) (by decide +kernel), by decide⟩,
    ⟨completes_of (by decide +kernel) (by decide +kernel), by unfold reportRoom; decide⟩,
    ⟨completes_of (by decide +kernel) (by decide +kernel), by decide +kernel⟩,
    ⟨completes_of (by decide +kernel) (by decide +kernel), by decide +kernel⟩,
    ⟨completes_of (by decide +kernel) (by decide +kernel), by decide +kernel⟩, by decide,
    completes_of (by decide +kernel) (by decide +kernel), by decide, by decide, by decide, by decide, by decide, by decide, by decide,
    by decide, coherent_empty base_l2, by decide⟩

/-- The tape is negotiated; a context that records; one whose play found no tape. -/
def taped : State := { base with feat0 := 0x10 }
def recording : State := updCtx (fun c => { c with rec_ := true }) taped
def played : State := updCtx (fun c => { c with playAt := 0x40000 }) taped

theorem wit_TapeWords : ((curCtx taped).inShadow = false ∧ inSegment taped = false ∧ tapeOn taped = true
      ∧ boundAgree (curCtx taped) = true ∧ (15#5).toNat < 16 ∧ (7#5).toNat < 8 ∧ (curCtx taped).rec_ = false)
    ∧ ((curCtx recording).inShadow = false ∧ inSegment recording = false ∧ tapeOn recording = true
      ∧ boundAgree (curCtx recording) = true ∧ (curCtx recording).rec_ = true
      ∧ (curCore recording).tape.entries.length + 5 ≤ 16384)
    ∧ ((curCtx played).inShadow = false ∧ inSegment played = false ∧ tapeOn played = true
      ∧ boundAgree (curCtx played) = true ∧ (curCtx played).rec_ = false ∧ (curCtx played).playAt ≠ 0) := by decide

/-- The core's tape was recorded here for this code, and its guard 7 holds a value that g2 has not. -/
def guarded (g : BitVec 8) : State :=
  updCore (fun c => { c with tape := { c.tape with
    state := 2, region := pcOf base, foldClass := c.fold, feat0 := 0x10, codeHash := c.ctx.codeHash, gmask := g
    gval := [(7, 5)], greg := [(7, 2)] } }) taped

theorem wit_TapePlayResult : ((curCtx base).inShadow = false ∧ inSegment base = false ∧ tapeOn base = false)
    ∧ ((curCtx (guarded 0x80)).inShadow = false ∧ inSegment (guarded 0x80) = false ∧ tapeOn (guarded 0x80) = true
      ∧ (curCtx (guarded 0x80)).rec_ = false ∧ guardFails (guarded 0x80) 7 = true
      ∧ ∀ i, i < 8 → guardFails (guarded 0) i = false)
    ∧ (inSegment recording = false ∧ tapeOn recording = true ∧ (curCtx recording).rec_ = true
      ∧ (curCore recording).tape.codeHash = (curCtx recording).codeHash) := by decide

/-- Each reason of the table of R341, the first that holds (none where the tape plays). -/
theorem test_play_reasons : ([(0, fun s => s), (11, fun s => updCore (fun c => { c with tape := { c.tape with gmask := 0x80 } }) s),
    (10, updCtx fun c => { c with widen := 1 }), (9, updDie 5 fun d => { d with hot := true }), (8, updCore fun c => { c with fold := 1 }),
    (7, fun s => { s with feat1 := 1 }), (6, updCtx fun c => { c with spidx := 1 }),
    (4, updCtx fun c => { c with main := { c.main with pc := 4 } }), (3, updCore fun c => { c with tape := { c.tape with state := 4 } }),
    (2, updCore fun c => { c with tape := { c.tape with state := 3 } }), (1, updCtx fun c => { c with codeHash := 5 })]
      : List (Word × (State → State))).all (fun e => runs (.tapePlay 1) (e.2 (guarded 0)) fun t => readG t 1 == e.1) = true := by
  decide +kernel

/-- Barrier 1 of package scope, entered by this context or not, one participant of two arrived. -/
def atBarrier (w : Word) (wait : Wait) : State := updCtx (fun c => { c with bars := [(1, w)], wait := wait }) base

/-- An image of the context, and the task whose context 0 stands at a place, with that image. -/
def image1 : Saved :=
  { ctx := ctx1, die := 7, fold := 0, feat0 := 0, feat1 := 0, sp := none, aps := [], ls := [], bad := ⟨[], [], [], [], []⟩
    fences := [], observed := [⟨129, 0, false, some 2⟩], ready := 0 }
def placed (p : Place) : State := setTask base 1 { Task.none with places := [(0, p)], saved := [(0, image1)] }

/-- An arrival for it. -/
def arrival1 : Arrival := { due := 0, task := 1, spidx := 0, bar := 1, phase := 0, src := 0, waits := [], lat := 0 }

theorem wit_BarrierWords :
    ((curCtx base).inShadow = false ∧ (1#10).toNat < (curCtx base).barriers ∧ inSegment base = false
      ∧ bitsAt (readG (two 2 0) 2) 0 2 = 2 ∧ barArr (barWord (curCtx base) 1) = 0 ∧ barAhead (barWord (curCtx base) 1) = 0
      ∧ barMine (barWord (curCtx base) 1) = false ∧ 0 < participants base 2 ∧ participants base 2 < 256)
    ∧ (let s := atBarrier 0x00020200 .none
      barScope (barWord (curCtx s) 1) ≠ 0 ∧ barMine (barWord (curCtx s) 1) = false ∧ inSegment s = false)
    ∧ (let s := atBarrier 0x01020201 .none
      barScope (barWord (curCtx s) 1) ≠ 0 ∧ barMine (barWord (curCtx s) 1) = true)
    ∧ (let s := atBarrier 0x0001000000020200 (.bar (31#5).toNat (1#10).toNat)
      (curCtx s).wait = .bar (31#5).toNat (1#10).toNat ∧ barMine (barWord (curCtx s) 1) = false)
    ∧ KMap.get .unplaced (getTask (placed (.resident 127)) arrival1.task).places arrival1.spidx = .resident 127
    ∧ KMap.get .unplaced (getTask base arrival1.task).places arrival1.spidx = .unplaced
    ∧ KMap.get .unplaced (getTask (placed .saved) arrival1.task).places arrival1.spidx = .saved
    ∧ (getTask (placed .saved) arrival1.task).saved ≠ [] := by decide

/-- The one context of its group waits for 16 ways, or to retire in this cycle. -/
def atWays (w : Wait) : State := updCtx (fun c => { c with wait := w }) base

/-- The group goes to 15 ways while way 15 of a slice above it holds two dirty sectors. -/
def shrinking : State :=
  updDie 0 (fun d => { d with l2 := [⟨0x200, 0, 0x100, 31, 0, 15, 3, 3, 0, [(0, 1)], 0⟩] }) (atWays (.ways 15 0))

theorem wit_WaysResult : (readG (two 16 0) 2).toNat ≤ 16
    ∧ (waysOrphaned (atWays (.ways 16 0)) = false ∧ waysReady (atWays (.ways 16 0)) = true
      ∧ ∀ k ∈ groupCores (atWays (.ways 16 0)), waysAsked (atWays (.ways 16 0)) k = some 16)
    ∧ (waysReady shrinking = true ∧ (∀ k ∈ groupCores shrinking, waysAsked shrinking k = some 15) ∧ (curCtx shrinking).w.toNat = 16
      ∧ waysBusiest shrinking 15 = 2 ∧ waysWritten shrinking 15 = 2 ∧ waysShare shrinking = 4
      ∧ waysShare (updCtx (fun c => { c with q := 0 }) shrinking) = 0)
    ∧ ((curCtx (atWays (.waysDone 0))).wait = .waysDone 0 ∧ 0 ≤ tempoNow (atWays (.waysDone 0))) := by decide

theorem wit_EndAndYield : ((curCtx base).inShadow = false ∧ inSegment base = false ∧ (curCore base).pend = []
      ∧ (curCore base).events = [] ∧ (curCore base).resident = true ∧ (curCore base).yielding = false
      ∧ (curCore (pushEvent 0x45 0 0 0 base)).events ≠ [])
    ∧ ∀ u, waitingCtxs (getTask base u) = [] := by
  refine ⟨by decide, fun u => ?_⟩
  have : getTask base u = Task.none := rfl
  rw [this]; decide

/-- A context that stands at a pre-emption point with a request pending. -/
def leaving : State := updCore (fun c => { c with preempt := true }) base

/-- A launch of one context in an empty package, ready; and the same with its context saved. -/
def launchState (p : Place) : State :=
  setTask { State.reset with fw := { State.reset.fw with bringUp := .ready } } 1
    { Task.none with life := .ready, places := [(0, p)], saved := [(0, image1)] }

theorem wit_ContextsSavedAndRestored :
    ((curCore leaving).preempt = true ∧ atPoint leaving = true ∧ wholeSet leaving = [leaving.cur] ∧ (curCore leaving).pend = [])
    ∧ (resumeSet (getTask (launchState .saved) 1) 0 = [(0, image1)] ∧ canResume (launchState .saved) 1 127 image1 = true
      ∧ image1.ctx.w = 16 ∧ Coherent (launchState .saved)) := by
  refine ⟨by decide +kernel, by decide +kernel, by decide +kernel, by decide, coherent_empty fun d => ?_⟩
  simp only [getDie, launchState, setTask, State.reset, KMap.get]; rfl

/-- A queued launch that waits for a completion word to reach a threshold. -/
def queued (waits : List (Nat × Nat)) : State := setTask base 1 { Task.none with life := .queued, waits := waits }

theorem wit_LaunchesRun :
    ((getTask (launchState .unplaced) 1).life = .ready ∧ placeOf (launchState .unplaced) 1 0 = .unplaced
      ∧ 0 < (getTask (launchState .unplaced) 1).contexts ∧ startSet (getTask (launchState .unplaced) 1) 0 = [0]
      ∧ canStart (launchState .unplaced) 1 0 15 = true)
    ∧ ((getTask (queued []) 1).life = .queued ∧ waitsMet (queued []) (getTask (queued []) 1) = true)
    ∧ ((getTask (queued [(0, 1)]) 1).life = .queued ∧ waitsMet (queued [(0, 1)]) (getTask (queued [(0, 1)]) 1) = false)
    ∧ (getTask base 1).affUntil ≤ tempoNow base
    ∧ ((getTask (launchState .ended) 1).life = .ready ∧ allEnded (getTask (launchState .ended) 1) = true) := by decide +kernel

/-! ## Launches, requests and the outside -/

/-- A launch packet for the code object at 0x40080000, waiting on nothing, without completion words. -/
def packet1 : Line := fld 1 32 + fld 0xFFFF 48 + fld 0x40080000 64 + fld 0xFFFF 240

/-- Address space 1 with its tables at 0x1000, 0x2000 and 0x3000, and a page of 1 GiB of die 0 mapped at 0x40000000; ring 3
with its completion table there; and in it a code object header of 320 bytes, its entry at 0x100 (R372). -/
def withCode : State :=
  { base with
    spaces := [(1, ⟨0x1000, [], [(0x1000, 4096), (0x2000, 4096), (0x3000, 4096)]⟩)]
    rings := [(3, { Ring.none with live := true, asid := 1, ctab := 0x40000000 })]
    dram := [(0x1000, 1), (0x1001, 0x20), (0x2000, 1), (0x2001, 0x30), (0x3008, 3), (0x300B, 0x40),
      (0x40080000, 0x43), (0x40080001, 0x38), (0x40080002, 0x58), (0x40080003, 0x4B), (0x40080004, 1), (0x40080008, 0x40),
      (0x40080009, 1), (0x40080019, 1)] }

theorem ok_of {α ε : Type} {x : Except ε α} (h : (match x with | .ok _ => true | .error _ => false) = true) : ∃ a, x = .ok a := by
  cases x with
  | ok a => exact ⟨a, rfl⟩
  | error _ => simp at h

theorem error_of {α : Type} {n : Nat} {x : Except Nat α} (h : (match x with | .ok _ => false | .error m => m == n) = true) : x = .error n := by
  cases x with
  | ok _ => simp at h
  | error _ => simpa using h

/-- A launch of ring 3, queued; and one whose contexts have all ended. -/
def queuedOn3 : State := setTask base 9 { Task.none with ring := 3, desc := { Ring.none with live := true }, life := .queued }
def endedOn3 : State :=
  setTask base 9 { Task.none with ring := 3, desc := { Ring.none with live := true }, life := .ready, places := [(0, .ended)] }

/-- A code object whose header has other bytes beside; the packet gives a reason of the table of R380. -/
def withHeader (bs : List (Nat × Byte)) : State :=
  { withCode with dram := bs.foldl (fun m b => KMap.set 0 m (0x40080000 + b.1) b.2) withCode.dram }
def flawOf (bs : List (Nat × Byte)) (p : Line) : Option Nat :=
  match firmwareBytes (withHeader bs) 0 1 (bitsAt p 64 64) 256 with
  | some h => ((launchFlaws (withHeader bs) 3 p h).find? fun e => e.2).map Prod.fst
  | none => some 99

theorem wit_PacketsParsed_flaws :
    flawOf [] packet1 = none ∧ flawOf [] (packet1 + fld 3 41) = some 1 ∧ flawOf [(0x18, 2)] packet1 = some 2
    ∧ flawOf [(0x30, 2), (0x31, 16)] packet1 = some 3 ∧ flawOf [(0x0E, 17)] packet1 = some 4
    ∧ flawOf [] (packet1 + fld 1 38 + fld 0xFFFF 304) = some 6
    ∧ (firmwareBytes base (getRing base 3).owner (getRing base 3).asid (bitsAt packet1 64 64) 256 = none
      ∧ packetFlawed (packet1 + fld 3 41) = true ∧ packetFlawed packet1 = false)
    ∧ (Coherent withCode ∧ firmwarePhys withCode 0 1 0x40000000 = some ⟨false, 0x40000000⟩) := by
  refine ⟨by decide +kernel, by decide +kernel, by decide +kernel, by decide +kernel, by decide +kernel, by decide +kernel,
    by decide +kernel, coherent_empty base_l2, by decide +kernel⟩

theorem wit_PacketsParsed :
    (∃ tk, parseLaunch (dropPacket 3 packet1 withCode) 3 packet1 = .ok tk)
    ∧ tableOk (dropPacket 3 packet1 base) (getRing base 3) = false
    ∧ (parseLaunch (dropPacket 3 0 base) 3 0 = .error 1 ∧ reportRoom base)
    ∧ (packetFlawed packet1 = false
      ∧ KMap.wf Task.none queuedOn3.tasks = true ∧ ∃ e ∈ queuedOn3.tasks, e.2.ring = 3 ∧ e.2.desc.live = true
          ∧ e.2.launchId = bitsAt packet1 192 48 ∧ e.2.life = .queued)
    ∧ (KMap.wf Task.none endedOn3.tasks = true ∧ ∃ e ∈ endedOn3.tasks, e.2.ring = 3 ∧ e.2.desc.live = true
      ∧ e.2.launchId = bitsAt packet1 192 48 ∧ e.2.life = .ready ∧ allEnded e.2 = true) :=
  ⟨ok_of (by decide +kernel), by decide +kernel, ⟨error_of (by decide +kernel), by unfold reportRoom; decide⟩, by decide +kernel, by decide +kernel⟩

/-- A request from its fields: byte, value. -/
def reqOf (code : Nat) (fs : List (Nat × Nat)) : Line := fs.foldl (fun r f => r + fld f.2 (8 * f.1)) (fld code 0)

theorem wellAddressed_of {code : Nat} {req : Line} (h : (reqCode req == code && (reqReserved code).all fun f => reqField req f.1 f.2 == 0) = true) :
    WellAddressed code req := by
  simpa [WellAddressed] using h

/-- A configured package; address space 1 with its tables at 0x1000, 0x2000 and 0x3000, and one page of 1 GiB of die 0
mapped at 0x40000000. -/
def configured : State := { State.reset with fw := { State.reset.fw with bringUp := .ready } }
def oneAlloc : Alloc := ⟨0x40000000, 0x40000000, 0x401, none, [], []⟩
def spaced (allocs : List Alloc) : State :=
  { configured with
    spaces := [(1, ⟨0x1000, allocs, [(0x1000, 4096), (0x2000, 4096), (0x3000, 4096)]⟩)]
    dram := [(0x1000, 1), (0x1001, 0x20), (0x2000, 1), (0x2001, 0x30), (0x3008, 3), (0x300B, 0x40)] }
def withRing (v : Bool) : State := { spaced [] with rings := [(7, { Ring.none with live := v, vector := 2 })] }

def ringReq : Line := reqOf 3 [(8, 1), (10, 16), (11, 7), (12, 63), (16, 64), (24, 64), (32, 8)]

theorem wit_RingsResult :
    ((bitsAt (0x123F0007 : Word) 16 16 = 0xFFFF ∨ bitsAt (0xFFFF0007 : Word) 16 16 = (withRing true).pkg.toNat)
      ∧ (getRing (withRing true) (bitsAt (0xFFFF0007 : Word) 0 16)).live = true
      ∧ (getRing (withRing true) (bitsAt (0xFFFF0007 : Word) 0 16)).overrun = false
      ∧ (getRing (withRing false) (bitsAt (0xFFFF0007 : Word) 0 16)).live = false)
    ∧ ((withRing true).fw.bringUp = .ready ∧ WellAddressed 3 ringReq ∧ reqField ringReq 8 2 ≠ 0 ∧ 4 ≤ reqField ringReq 10 1
      ∧ reqField ringReq 10 1 ≤ 16 ∧ reqField ringReq 11 1 < 8 ∧ reqField ringReq 12 1 ≠ 1 ∧ reqField ringReq 12 1 < 64
      ∧ reqField ringReq 16 8 % 64 = 0 ∧ reqField ringReq 24 8 % 64 = 0 ∧ reqField ringReq 32 8 % 8 = 0
      ∧ reqField ringReq 16 8 < 2 ^ 57 ∧ reqField ringReq 24 8 < 2 ^ 57 ∧ reqField ringReq 32 8 < 2 ^ 57
      ∧ spaceExists (withRing true) (reqField ringReq 8 2) = true
      ∧ (∀ e ∈ (withRing true).rings, e.2.live = true → e.2.vector ≠ reqField ringReq 12 1) ∧ freeRing (withRing true) = some 0)
    ∧ (WellAddressed 4 (reqOf 4 [(8, 7)]) ∧ (getRing (withRing true) (reqField (reqOf 4 [(8, 7)]) 8 2)).live = true) :=
  ⟨by decide, ⟨by decide, wellAddressed_of (by decide +kernel), by decide +kernel⟩, wellAddressed_of (by decide +kernel), by decide +kernel⟩

def configReq : Line := reqOf 2 [(8, 5), (10, 1), (12, 1200), (20, 1000), (24, 10000000)]

theorem wit_NegotiateAndConfig : (WellAddressed 1 (reqOf 1 [(8, 0x7F)]) ∧ anyResident State.reset = false ∧ anyResident base = true
      ∧ { base with fw := { base.fw with bringUp := .ready } }.fw.bringUp ≠ .negotiate)
    ∧ (WellAddressed 2 configReq ∧ configured.fw.bringUp ≠ .negotiate ∧ anyResident configured = false
      ∧ (1200 ≤ reqField configReq 12 2 ∧ reqField configReq 12 2 ≤ 2400)
      ∧ ∀ p, p < 4 → reqField configReq (16 + 4 * p) 4 = 0 ∨
        (1000 ≤ reqField configReq (16 + 4 * p) 4 ∧ reqField configReq (16 + 4 * p) 4 ≤ 10000000)) :=
  ⟨⟨wellAddressed_of (by decide +kernel), by decide +kernel⟩, wellAddressed_of (by decide +kernel), by decide +kernel⟩

def allocReq : Line := reqOf 5 [(8, 1), (16, 0x40000000), (24, 0x401), (32, 0x80000000)]
def freeReq : Line := reqOf 6 [(8, 1), (16, 0x40000000)]
def bindReq : Line := reqOf 7 [(8, 1), (10, 0xFFFE), (12, 9)]

/-- A resident context of the space has an access on its way. -/
def busyWith (allocs : List Alloc) : State :=
  updCore (fun c => { c with resident := true, ctx := { c.ctx with asid := 1 }, pend := [{ store1 with id := 128 }] }) (spaced allocs)
def busySpace : State := busyWith [oneAlloc]

/-- The page's mapping is going, to a host page or given up, with that access on its way or with none. -/
def goingPage (host : Option Nat) (ids : List Nat) : Leaving := ⟨0x40000003, 0x40000000, 0x40000000, host, ids, []⟩
def going (host : Option Nat) (ids : List Nat) : Alloc := { oneAlloc with leaving := [goingPage host ids] }

/-- The request unbinds; the binding it names stands. -/
def unbindReq : Line := reqOf 7 [(8, 1), (10, 0xFFFE), (12, 9), (14, 1)]
def boundSpace : State := { spaced [] with peers := [(0x1FFFE, some 9)] }

theorem wit_SpaceRequests :
    ((spaced [oneAlloc]).fw.bringUp = .ready ∧ busySpace.fw.bringUp = .ready)
    ∧ (WellAddressed 5 allocReq ∧ ∃ v : Nat × State, allocate (reqField allocReq 8 2) (reqField allocReq 16 8)
        (BitVec.ofNat 64 (reqField allocReq 24 8)) (reqField allocReq 32 8) ⟨0, [0x80000000], [], 0⟩ (spaced [oneAlloc]) = .ok v
        ∧ v.1 = 0x80000000)
    ∧ (WellAddressed 6 freeReq ∧ reqField freeReq 8 2 = 1 ∧ ∀ a ∈ [oneAlloc, { oneAlloc with freeing := some 63 }, going (some 0) [], going none [128], going none []],
      (getSpace (spaced [a]) 1).allocs.find? (fun a => a.va == reqField freeReq 16 8) = some a
        ∧ (getSpace (busyWith [a]) 1).allocs.find? (fun a => a.va == reqField freeReq 16 8) = some a
        ∧ (a.freeing = none ∨ a.freeing = some 63))
    ∧ freeWaits (spaced [going (some 0) []]) 1 (going (some 0) []) = true
    ∧ (freeWaits (busyWith [going none [128]]) 1 (going none [128]) = false ∧ (going none [128]).leaving ≠ []
      ∧ ∃ p ∈ (going none [128]).leaving, leavingDone (busyWith [going none [128]]) p = false)
    ∧ (freeWaits (spaced [going none []]) 1 (going none []) = false ∧ (going none []).leaving ≠ []
      ∧ ∀ p ∈ (going none []).leaving, leavingDone (spaced [going none []]) p = true)
    ∧ (freeWaits (spaced [oneAlloc]) 1 oneAlloc = false ∧ oneAlloc.leaving = [] ∧ accessesOf (spaced [oneAlloc]) 1 = []
      ∧ flightsOf (spaced [oneAlloc]) 1 = [])
    ∧ (freeWaits busySpace 1 oneAlloc = false ∧ allocPages oneAlloc = [0x40000000]
      ∧ walk busySpace (getSpace busySpace 1).root 0x40000000 = .leaf ⟨0x40000003, 0x40000000, 0x40000000⟩
      ∧ ∃ i ∈ accessesOf busySpace 1, accessPending busySpace i = true)
    ∧ (WellAddressed 7 bindReq ∧ reqField bindReq 8 2 ≠ 0 ∧ reqField bindReq 10 2 ≠ 0xFFFF
      ∧ spaceExists (spaced []) (reqField bindReq 8 2) = true ∧ reqField bindReq 14 1 = 0)
    ∧ (WellAddressed 7 unbindReq ∧ reqField unbindReq 8 2 ≠ 0 ∧ reqField unbindReq 10 2 ≠ 0xFFFF
      ∧ spaceExists boundSpace (reqField unbindReq 8 2) = true ∧ reqField unbindReq 14 1 = 1
      ∧ KMap.get .none boundSpace.peers (reqField unbindReq 8 2 * 65536 + reqField unbindReq 10 2) ≠ .none
      ∧ KMap.get .none (spaced []).peers (reqField unbindReq 8 2 * 65536 + reqField unbindReq 10 2) = .none) := by
  refine ⟨by decide, ⟨wellAddressed_of (by decide +kernel), ?_⟩, ⟨wellAddressed_of (by decide +kernel), by decide +kernel⟩, by decide +kernel,
    by decide +kernel, by decide +kernel, by decide +kernel, by decide +kernel, ⟨wellAddressed_of (by decide +kernel), by decide +kernel⟩,
    wellAddressed_of (by decide +kernel), by decide +kernel⟩
  have h : (match allocate (reqField allocReq 8 2) (reqField allocReq 16 8) (BitVec.ofNat 64 (reqField allocReq 24 8))
      (reqField allocReq 32 8) ⟨0, [0x80000000], [], 0⟩ (spaced [oneAlloc]) with
    | .ok v => v.1 == 0x80000000
    | .error _ => false) = true := by decide +kernel
  generalize allocate _ _ _ _ _ _ = x at h ⊢
  cases x with
  | ok v => exact ⟨v, rfl, by simpa using h⟩
  | error _ => simp at h

theorem wit_HostWindow : Coherent base ∧ (∀ i, i < [(0 : Byte), 1].length → populated (7 * 2 ^ 36 + 64 * 10 ^ 9 - 2 + i) = true) :=
  ⟨base_coherent, by decide⟩

/-- A firmware complex in a given state, the clock at a given cycle. -/
def complexAt (c : Machine.Complex) (last : Option Nat) (t : Word) : State :=
  { State.reset with tempo := t, fw := { State.reset.fw with complex := c, lastRestart := last } }

/-- A live update that runs, with what the old image has handed over. -/
def updating : State :=
  let s := complexAt (.updating Image.first 9) none 9
  { s with fw := { s.fw with handover := some ⟨0, [], 1200, [], 7, 15000, 0⟩ } }

/-- The same with a core in the middle of a segment. -/
def onlyIn (s : State) : State := { s with cores := seg.cores }

/-- A signature of another length never verifies, nor does one with a key of no bytes (R389). -/
theorem test_signature_length : mldsaVerify [] [] [] = false := by decide +kernel

theorem wit_FirmwareComplex :
    ((complexAt .running (some 5) 1500000005).fw.complex = .running
      ∧ ∀ u, (complexAt .running (some 5) 1500000005).fw.lastRestart = some u → u + 1500000000 ≤ tempoNow (complexAt .running (some 5) 1500000005))
    ∧ ((complexAt .running (some 5) 1500000004).fw.lastRestart = some 5 ∧ tempoNow (complexAt .running (some 5) 1500000004) < 5 + 1500000000)
    ∧ ([] : List Byte).length ≠ 4627
    ∧ State.reset.fw.complex = .running
    ∧ (let s := complexAt (.frozen 5 9 3) none 7; s.fw.complex = .frozen 5 9 3 ∧ QuietCycle s ∧ s.fw.held = [] ∧ reportRoom s
      ∧ 5 ≤ tempoNow s + 1 ∧ allStand s = true)
    ∧ (let s := complexAt (.checking Image.first 9) none 7; s.fw.complex = .checking Image.first 9 ∧ QuietCycle s ∧ s.fw.held = []
      ∧ reportRoom s ∧ tempoNow s + 1 < 9 ∧ allStand (onlyIn s) = false)
    ∧ (allStand base = true ∧ (getCore base 0).resident = true ∧ (getCore base 0).ctx.inShadow = false)
    ∧ (updating.fw.complex = .updating Image.first 9 ∧ reportRoom updating ∧ 9 ≤ tempoNow updating
      ∧ updating.fw.handover.isSome = true) := by
  refine ⟨⟨rfl, fun u h => ?_⟩, by decide, by decide, rfl, ?_, ?_, by decide +kernel, rfl, by unfold reportRoom; decide, by decide, rfl⟩
  · have : 5 = u := by simpa [complexAt] using h
    subst this; decide
  · unfold QuietCycle reportRoom; decide +kernel
  · refine ⟨rfl, ?_⟩; unfold QuietCycle reportRoom; decide +kernel

/-- A hot stack that keeps the normal cadence, in an extra slot, bank 511 postponed as often as given. -/
def hotStack (n : Nat) : State :=
  updDie 0 (fun d => { d with hot := true, doubled := false, burstAt := 131072, burstBank := 511, postponed := [(511, n)] }) base

theorem wit_RefreshAndTemperature :
    ((getDie base 0).burstBank < 511 ∧ 511 ≤ (getDie (hotStack 7) 0).burstBank)
    ∧ ((getDie (hotStack 7) 0).hot = true ∧ (getDie (hotStack 7) 0).doubled = false ∧ (getDie (hotStack 7) 0).burstAt / 131072 % 2 = 1
      ∧ KMap.get 0 (getDie (hotStack 7) 0).postponed 511 < 8 ∧ 8 ≤ KMap.get 0 (getDie (hotStack 8) 0).postponed 511)
    ∧ burstsReleased (hotStack 7) 0 = true
    ∧ (curDie base < 8 ∧ (getCore seg 0).resident = true ∧ (getCore seg 0).ctx.seg.phase = .running
      ∧ bitAt (getCore seg 0).ctx.latched (curDie seg) = false) := by decide +kernel

/-- A segment that holds aperture 0 of its die, whose window 0 is one point. -/
def optical : State :=
  updDie 0 (fun d => { d with ap0 := { d.ap0 with owner := some (1, 0), wins := [(0, 0)] } }) seg

theorem wit_PowerAndReset :
    (recalAllowed base 15 = true ∧ recalAllowed optical 0 = false ∧ (getAperture optical 0).cal = none)
    ∧ ((getCore base 127).resident = false ∧ liveOf ((0x0F : BitVec 8) &&& (getDie base (127 / 16)).plymask.setWidth 8) ≠ 0
      ∧ liveOf ((0xF0 : BitVec 8) &&& (getDie base (127 / 16)).plymask.setWidth 8) = 0 ∧ (getCore base 0).resident = true)
    ∧ (base.fw.cap * 1000 < 2400001 ∧ base.fw.overMs < 9 ∧ 2400000 ≤ base.fw.cap * 1000)
    ∧ (let s := { base with fw := { base.fw with overMs := 9 } }
      9 ≤ s.fw.overMs ∧ (getCore s 0).resident = true ∧ (getCore s 0).ctx.prio.toNat = lowestPriority s) := by decide +kernel

/-- The mailbox of core 0 asks for an operation on the page at `top` × 2^24, of the space that its context is of, which
holds the allocations given. -/
def mailedIn (allocs : List Alloc) (op top : Byte) : State :=
  { busyWith allocs with dram := (busyWith allocs).dram ++ [(mailboxOffset, op), (mailboxOffset + 11, top)] }
def mailed (op top : Byte) : State := mailedIn [oneAlloc] op top

/-- An allocation of one page of 1 GiB that has moved to the host, and a place for it. -/
def movedAlloc : Alloc := ⟨0x80000000, 0x40000000, 0x401, none, [(0x80000000, 0)], []⟩
def moved : State := mailedIn [movedAlloc] 1 0x80
def placeAt (offset : Nat) : AllocChoice := ⟨0, [offset], [], 0⟩

theorem bringBack_of {asid page host : Nat} {a : Alloc} {c : AllocChoice} {s : State}
    (h : (mapPages asid a.flags [(page, c.pages.headD 0)] (c.tables.map fun o => c.tableDie * 2 ^ 36 + o) s).isSome = true) :
    ∃ u, bringBack asid a page host c s = some u := by
  unfold bringBack
  simp only []
  cases hm : mapPages asid a.flags [(page, c.pages.headD 0)] (c.tables.map fun o => c.tableDie * 2 ^ 36 + o) s with
  | none => rw [hm] at h; cases h
  | some t => exact ⟨_, rfl⟩

theorem noBringBack_of {asid page host : Nat} {a : Alloc} {c : AllocChoice} {s : State}
    (h : (mapPages asid a.flags [(page, c.pages.headD 0)] (c.tables.map fun o => c.tableDie * 2 ^ 36 + o) s).isNone = true) :
    bringBack asid a page host c s = none := by
  unfold bringBack
  simp only []
  cases hm : mapPages asid a.flags [(page, c.pages.headD 0)] (c.tables.map fun o => c.tableDie * 2 ^ 36 + o) s with
  | none => rfl
  | some t => rw [hm] at h; cases h

theorem spaced_coherent : Coherent (spaced [oneAlloc]) := coherent_empty fun d => by
  simp only [getDie, spaced, configured, State.reset, KMap.get]; rfl

theorem wit_MemoryManager :
    bitsAt (mailWord (mailed 3 0) 0 0) 0 8 ≠ 1
    ∧ (bitsAt (mailWord (mailed 1 0x3F) 0 0) 0 8 = 1
      ∧ allocOf (mailed 1 0x3F) (getCore (mailed 1 0x3F) 0).ctx.asid (mailWord (mailed 1 0x3F) 0 8).toNat = none)
    ∧ (bitsAt (mailWord (mailed 1 0x40) 0 0) 0 8 = 1 ∧ (getCore (mailed 1 0x40) 0).ctx.asid = 1
      ∧ allocOf (mailed 1 0x40) 1 (mailWord (mailed 1 0x40) 0 8).toNat = some oneAlloc
      ∧ (mailWord (mailed 1 0x40) 0 8).toNat / allocPageSize oneAlloc.flags * allocPageSize oneAlloc.flags = 0x40000000
      ∧ oneAlloc.leaving = [] ∧ oneAlloc.evicted = [])
    ∧ (∀ h ∈ [some 0, none], let s := mailedIn [going h [128]] 1 0x40
      allocOf s 1 (mailWord s 0 8).toNat = some (going h [128])
        ∧ (going h [128]).leaving.find? (fun p => p.page == 0x40000000) = some (goingPage h [128]))
    ∧ (let a := { oneAlloc with freeing := some 3 }; a.freeing ≠ none
      ∧ allocOf (mailedIn [a] 1 0x40) 1 (mailWord (mailedIn [a] 1 0x40) 0 8).toNat = some a)
    ∧ (allocOf moved 1 (mailWord moved 0 8).toNat = some movedAlloc ∧ movedAlloc.leaving = []
      ∧ movedAlloc.evicted.find? (fun e => e.1 == 0x80000000) = some (0x80000000, 0)
      ∧ (∃ u, bringBack 1 movedAlloc 0x80000000 0 (placeAt 0x80000000) (dropMail 0 moved) = some u)
      ∧ bringBack 1 movedAlloc 0x80000000 0 (placeAt 1) (dropMail 0 moved) = none)
    ∧ (base.cur < 128 ∧ (curCore base).resident = true ∧ ∀ k, (getCore base k).pend = [])
    ∧ (∀ s ∈ [spaced [oneAlloc], busySpace], allocOf s 1 0x7FFFFFFF = some oneAlloc
      ∧ 0x7FFFFFFF / allocPageSize oneAlloc.flags * allocPageSize oneAlloc.flags = 0x40000000 ∧ evictable oneAlloc 0x40000000 = true
      ∧ 0x40000000 % allocPageSize oneAlloc.flags = 0
      ∧ walk s (getSpace s 1).root 0x40000000 = .leaf ⟨0x40000003, 0x40000000, 0x40000000⟩ ∧ allocPageSize oneAlloc.flags = 0x40000000)
    ∧ (accessesOf (spaced [oneAlloc]) 1 = [] ∧ flightsOf (spaced [oneAlloc]) 1 = [] ∧ Coherent (spaced [oneAlloc]))
    ∧ ∃ i ∈ accessesOf busySpace 1, accessPending busySpace i = true := by
  refine ⟨by decide +kernel, by decide +kernel, by decide +kernel, by decide +kernel, by decide +kernel,
    ⟨by decide +kernel, rfl, by decide, bringBack_of (by decide +kernel), noBringBack_of (by decide +kernel)⟩,
    ⟨by decide, by decide, fun k => ?_⟩, by decide +kernel, ⟨by decide +kernel, by decide +kernel, spaced_coherent⟩, by decide +kernel⟩
  simp only [getCore, base, KMap.get]; split <;> rfl

theorem mapped_of {asid : Nat} {flags : Word} {pages : List (Nat × Nat)} {tables : List Nat} {s : State} {page : Nat} {l : Leaf}
    (h : (match mapPages asid flags pages tables s with
      | some v => decide (walk v (getSpace v asid).root page = .leaf l)
      | none => false) = true) : ∃ v, mapPages asid flags pages tables s = some v ∧ walk v (getSpace v asid).root page = .leaf l := by
  generalize mapPages asid flags pages tables s = m at h
  cases m with
  | none => simp at h
  | some v => exact ⟨v, rfl, by simpa using h⟩

theorem wit_MemoryManager_effects :
    (Coherent base ∧ ∀ off, off < 64 → findTlb base (127 / 16) 0 (0x01FFFFFF00000000 + 0x10000 * (127 / 16) + 0x40 * (127 % 16) + off) = none)
    ∧ (let s := spaced [going none []]
      leafEntryAt s 1 (goingPage none []).page (bitsAt (going none []).flags 9 2) = 0x3008 ∧ populated 0x3008 = true
        ∧ going none [] ∈ (getSpace s 1).allocs ∧ Coherent s)
    ∧ (Coherent moved ∧ bitsAt movedAlloc.flags 0 4 ≤ 1
      ∧ ∃ v l, mapPages 1 movedAlloc.flags [(0x80000000, (placeAt 0x80000000).pages.headD 0)]
          ((placeAt 0x80000000).tables.map fun o => (placeAt 0x80000000).tableDie * 2 ^ 36 + o) moved = some v
        ∧ walk v (getSpace v 1).root 0x80000000 = .leaf l ∧ l.page = 0x80000000 ∧ l.size = allocPageSize movedAlloc.flags
        ∧ ∀ i, i < allocPageSize movedAlloc.flags → (leafPhys l (0x80000000 + i)).host = false
          ∧ populated (leafPhys l (0x80000000 + i)).pa = true) := by
  have hc : ∀ a, Coherent (spaced a) := fun a => coherent_empty fun d => by
    simp only [getDie, spaced, configured, State.reset, KMap.get]; rfl
  refine ⟨⟨base_coherent, by decide +kernel⟩, ⟨by decide +kernel, by decide, by decide, hc _⟩,
    coherent_empty fun d => by simp only [getDie, moved, mailedIn, busyWith, updCore, setCore, spaced, configured, State.reset, KMap.get]; rfl,
    by decide, ?_⟩
  obtain ⟨v, hv, hw⟩ := mapped_of (l := ⟨0x80000003, 0x80000000, 0x40000000⟩) (asid := 1) (flags := movedAlloc.flags)
    (pages := [(0x80000000, (placeAt 0x80000000).pages.headD 0)])
    (tables := (placeAt 0x80000000).tables.map fun o => (placeAt 0x80000000).tableDie * 2 ^ 36 + o) (s := moved) (page := 0x80000000)
    (by decide +kernel)
  have hz : allocPageSize movedAlloc.flags = 0x40000000 := by decide
  have hp : ∀ i, i < 0x40000000 → leafPhys ⟨0x80000003, 0x80000000, 0x40000000⟩ (0x80000000 + i) = ⟨false, 0x80000000 + i⟩ := fun i hi => by
    have h1 : bitAt (0x80000003 : Word) 11 = false := by decide
    have h2 : bitAt (0x80000003 : Word) 7 = false := by decide
    have h3 : pteAddr 0x80000003 = 0x80000000 := by decide
    simp only [leafPhys, h1, h2, h3, Bool.false_eq_true, if_false]
    congr 1; omega
  refine ⟨v, _, hv, hw, rfl, by rw [hz], fun i hi => ?_⟩
  rw [hz] at hi
  rw [hp i hi]
  refine ⟨rfl, ?_⟩
  show (decide (0x80000000 + i < 2 ^ 39) && decide ((0x80000000 + i) % 2 ^ 36 < 64 * 10 ^ 9)) = true
  simp only [Bool.and_eq_true, decide_eq_true_eq]
  omega

/-- A frame from package 9 on port 3 (R404), and a connection that has sent one and misses one. -/
def frameFields (type op psn : Nat) : Frame :=
  { ver := 1, type := type, domain := 0, srcPkg := 9, dstPkg := 0xFFFF, port := 3, psn := psn, ackPsn := 0, nakPsn := 0, len := 0, chk := 0
    rsvA := 0, rsvB := 0, rsvOp := 0, dst := 0x025800FFFF03, src := 0x025800000903, via := 3
    op := op, cls := 0, srcCore := 0, cmdId := 0, va := 0, rowPitch := 0, rowBytes := 0, nRows := 0, firstRow := 0, totalRows := 0, asid := 1
    data := [] }
def frame (type op psn : Nat) : Frame := { frameFields type op psn with chk := frameChk (frameFields type op psn) }
def connected : State :=
  { base with tempo := 30000, conns := [(9, { Conn.new with unacked := [frame 1 1 0], rxNext := 0xFFFFFFFF, stripe := [3], sinceAck := 1, gapSince := some 0 })] }

theorem wit_FramesResult :
    (frameMine base { frame 1 1 0 with dst := 0 } = false ∧ frameMine base { frame 1 1 0 with via := 4 } = false)
    ∧ (frameMine base { frame 1 1 0 with chk := 0 } = true ∧ frameOk base { frame 1 1 0 with chk := 0 } = false
      ∧ ({ frame 1 1 0 with chk := 0 } : Frame).chk ≠ frameChk { frame 1 1 0 with chk := 0 }
      ∧ frameMine base (frame 2 1 0) = true ∧ (frame 2 1 0).type ≠ 1)
    ∧ (frameMine connected (frame 1 5 0xFFFFFFFF) = true ∧ frameOk connected (frame 1 5 0xFFFFFFFF) = true ∧ (frame 1 5 0xFFFFFFFF).type = 1
      ∧ (frame 1 5 0xFFFFFFFF).psn = (getConn connected 9).rxNext ∧ (frame 1 5 0xFFFFFFFF).psn < 2 ^ 32 ∧ (getConn connected 9).ahead = [])
    ∧ (frameOk connected (frame 1 5 4094) = true ∧ 0 < psnAhead (frame 1 5 0).psn (getConn connected 9).rxNext
      ∧ psnAhead (frame 1 5 4094).psn (getConn connected 9).rxNext < 4096)
    ∧ (frameMine connected (frame 2 0 0) = true ∧ frameOk connected (frame 2 0 0) = true ∧ (frame 2 0 0).type = 2)
    ∧ (frameOk connected (frame 3 0 0) = true ∧ (frame 3 0 0).type = 3 ∧ (getConn connected (frame 3 0 0).srcPkg).stripe ≠ []
      ∧ (∀ g ∈ (getConn connected (frame 3 0 0).srcPkg).unacked, 2 ^ 31 ≤ psnAhead (frame 3 0 0).ackPsn (g.psn + 1))
      ∧ ∃ g ∈ (getConn connected (frame 3 0 0).srcPkg).unacked, g.psn = (frame 3 0 0).nakPsn)
    ∧ (frameOk base (frame 4 0 0) = true ∧ (frame 4 0 0).type = 4 ∧ (getConn base (frame 4 0 0).srcPkg).unacked = [])
    ∧ (frameOk base (frame 5 0 0) = true ∧ (frame 5 0 0).type = 5) := by decide +kernel

/-- A push of one row of 8 bytes to the mapped page of space 1, writable; the connection has lost a row of that command, or not. -/
def pushFrame (first : Nat) : Frame :=
  { frameFields 1 1 0 with va := 0x40000000, rowBytes := 8, nRows := 1, firstRow := first, totalRows := first + 1, data := List.replicate 8 1 }
def pushed (lost : List (Nat × Nat)) : State :=
  { spaced [] with conns := [(9, { Conn.new with lost := lost })], dram := KMap.set 0 (spaced []).dram 0x3008 0x0B }

theorem wit_FramesResult_push : (0 < (pushFrame 0).nRows ∧ rowsTranslate (pushed []) (pushFrame 0) = true
      ∧ (pushFrame 0).firstRow + (pushFrame 0).nRows = (pushFrame 0).totalRows ∧ (pushFrame 0).firstRow = 0)
    ∧ rowsTranslate base (pushFrame 0) = false
    ∧ (rowsTranslate (pushed [(0, 0)]) (pushFrame 4) = true ∧ (pushFrame 4).firstRow ≠ 0
      ∧ ((pushFrame 4).srcCore, (pushFrame 4).cmdId) ∈ (getConn (pushed [(0, 0)]) (pushFrame 4).srcPkg).lost) := by decide +kernel

/-- A copy by a path that lands `runs`. -/
def copyTo (path : Path) (runs : List (Dest × List Byte)) (tag : BitVec 7) : Copy :=
  { path := path, runs := runs, poison := [false], tag := tag, cls := 0, tagged := true, peer := 0, pull := false, cmdid := 0, through := false }

/-- The page of the push is in the translation cache; a loose command of core 0 to package 9 is in flight. -/
def pushedHit : State := updDie 0 (fun d => { d with tlb := [⟨1, 0x40000000, 0x40000000, 0x4000000B, 0⟩] }) (pushed [])
def answered : State :=
  updCore (fun c => { c with flights := [⟨0, 2 ^ 60, 0, 0, .copy { copyTo .package [(.sp 0 64, [])] 0 with peer := 9 }⟩] }) base

theorem wit_FramesResult_operations :
    (Coherent pushedHit ∧ (pushFrame 0).data.length = (pushFrame 0).nRows * (pushFrame 0).rowBytes ∧ 0 < (pushFrame 0).rowBytes
      ∧ rowsTranslate pushedHit (pushFrame 0) = true
      ∧ ∀ r ∈ pushedParts (pushFrame 0), translate pushedHit 0 (pushFrame 0).asid r.1 true = .ok ⟨false, r.1⟩ true)
    ∧ (∀ i, i < (pushFrame 0).totalRows → rangeFault (pushed []) 0 (pushFrame 0).asid false ((pushFrame 0).rowBytes / 4096 + 2)
        (frameRowAt (pushFrame 0) i) (pushFrame 0).rowBytes = none)
    ∧ (∃ g cp, Answers answered (pushFrame 0) g cp ∧ cp.poison.length = cp.runs.length)
    ∧ (let f := { pushFrame 0 with data := [7, 0] }
      7 = ofLeBytes (f.data.take 2) ∧ (getRing (withRing true) 7).live = true ∧ (getRing (withRing true) 7).overrun = false
        ∧ (getRing (withRing false) 7).live = false) := by
  refine ⟨⟨coherent_empty fun d => ?_, by decide, by decide, by decide +kernel, by decide +kernel⟩, by decide +kernel,
    ⟨_, { copyTo .package [(.sp 0 64, [])] 0 with peer := 9 }, ⟨rfl, rfl, rfl, rfl, rfl⟩, rfl⟩, by decide⟩
  simp only [pushedHit, getDie, updDie, setDie]
  rw [KMap.get_set]
  split <;> rfl

/-- Space 1 is bound to space 2 of package 9, all links up; a port silent for 4,500,000 cycles. -/
def bound : State := { base with links := 15, peers := [(0x10009, some 2)] }
def silent : State := { connected with tempo := 4499999 }
/-- The same with another port in the stripe. -/
def silentTwo : State := { silent with conns := [(9, { getConn silent 9 with stripe := [1, 3] })] }

theorem wit_TransportTimers :
    (9 ∈ boundPeers bound ∧ bitAt bound.links 3 = true)
    ∧ (3 ∈ (getConn silent 9).stripe ∧ KMap.get 0 (getConn silent 9).heard 3 + 4500000 ≤ tempoNow silent + 1
      ∧ ∀ q ∈ (getConn silent 9).stripe, q = 3)
    ∧ (3 ∈ (getConn silentTwo 9).stripe ∧ KMap.get 0 (getConn silentTwo 9).heard 3 + 4500000 ≤ tempoNow silentTwo + 1
      ∧ ∃ q ∈ (getConn silentTwo 9).stripe, q ≠ 3)
    ∧ (KMap.wf Conn.new connected.conns = true ∧ (9, getConn connected 9) ∈ connected.conns)
    ∧ (ackDue connected (getConn connected 9) = true ∧ nakDue connected (getConn connected 9) = true
      ∧ resendDue connected (getConn connected 9) = true ∧ (getConn connected 9).unacked = [frame 1 1 0]) := by decide +kernel

/-! ## Cycles, records and issues -/

def flightOf (k : FKind) : Flight := ⟨0, 2, 0, 0, k⟩

/-- Core time 2^20 with a copy in flight since cycle 0. -/
def overrun : State := updCore (fun c => { c with ctime := 0x100000, flights := [flightOf (.copy (copyTo .host [] 0))] }) seg
def overLoose : State := updCore (fun c => { c with watchdog := 150000001 }) base
def heldBy (h : Hold) (r : List Retry) : State := updCore (fun c => { c with hold := h, retry := r }) seg

/-- A walk that ends with a store to perform again; its page in device memory, or in host memory. -/
def walkEnds (pte : Word) (va : Nat) : State :=
  updDie 0 (fun d => { d with tlb := [⟨0, 0x10000, 0x10000, pte, 0⟩] }) (heldBy (.walk 0) [.access { store1 with va := va } 0x40008])

/-- Poison was found in this cycle; a replay of a window of cycles 4 to 6 with one issue, and one that has ended. -/
def poisoned : State := updCore (fun c => { c with events := [⟨0x42, 2, 0, 0x40008⟩] }) seg
def replaying (next : Nat) : State :=
  updSeg (fun g => { g with replayAt := next, replayEnd := 6, replayIssues := [(4, issueOf 2 0 0x5F 0x40 0x50 0 0 0 0, 0x40008)] }) (heldBy (.replay 0) [])

theorem wit_CyclesHoldsAndFailures :
    (seg.stimuli = [] ∧ seg.notes = [] ∧ ∀ k, k < 128 → (getCore seg k).events = [] ∧ (getCore seg k).ctx.seg.phase ≠ .aborting)
    ∧ (overLoose.cur < 128 ∧ (curCore overLoose).resident = true
      ∧ watchdogLimit overLoose (curCtx overLoose).prio.toNat < (curCore overLoose).watchdog)
    ∧ ((curCore overrun).flights = [flightOf (.copy (copyTo .host [] 0))] ∧ isLoose (copyTo .host [] 0).path = true
      ∧ (flightOf (.copy (copyTo .host [] 0))).issued + 2 ^ 20 ≤ now overrun)
    ∧ ((curCore (heldBy (.walk 0) [])).hold = .walk 0 ∧ (curCore (heldBy (.walk 0) [])).retry = [])
    ∧ ((curCore (walkEnds 0x20009 0x10000)).hold = .walk 0 ∧ (curCore (walkEnds 0x20009 0x10000)).retry = [.access store1 0x40008]
      ∧ accessTr (walkEnds 0x20009 0x10000) store1.va (accWrites store1.kind) = .ok ⟨false, 0x20000⟩ true
      ∧ (walkEnds 0x20009 0x10000).oracle = []
      ∧ accessTr (walkEnds 0x20809 0x10000) store1.va (accWrites store1.kind) = .ok ⟨true, 0x20000⟩ true
      ∧ accessTr (walkEnds 0x20009 0x30000) 0x30000 (accWrites store1.kind) = .fault 0x10 0)
    ∧ (poisoned.stimuli = [] ∧ poisoned.notes = [] ∧ (getCore poisoned 0).flights = [] ∧ (∀ j, j < 128 → (getCore poisoned j).ctx.seg.phase ≠ .aborting ∧ (j ≠ 0 → (getCore poisoned j).events = []))
      ∧ (getCore poisoned 0).events = [⟨0x42, 2, 0, 0x40008⟩] ∧ (getCore poisoned 0).hold = .none
      ∧ (getCore poisoned 0).ctx.seg.phase = .running ∧ segGang (focus 0 poisoned) = false ∧ (getCore poisoned 0).ctx.seg.replayed = false)
    ∧ (let s := replaying 4; let y := quietIssue (issueOf 2 0 0x5F 0x40 0x50 0 0 0 0)
      (curCore s).hold = .replay 0 ∧ (curCtx s).seg.replayAt = 4 ∧ 4 ≤ (curCtx s).seg.replayEnd ∧ (curCore s).flights = []
        ∧ (curCtx s).seg.replayIssues.filter (fun e => e.1 == 4) = [(4, issueOf 2 0 0x5F 0x40 0x50 0 0 0 0, 0x40008)]
        ∧ recordOf (.vadd y) = some y ∧ recordInstr y = some (.vadd y) ∧ y.nul = false ∧ (∃ r, laneResult s (.vadd y) = some r)
        ∧ (curCore s).vBad = [] ∧ (curCore s).events = [])
    ∧ (let s := replaying 7
      (curCore s).hold = .replay 0 ∧ (curCore s).resident = true ∧ (curCtx s).seg.replayEnd < (curCtx s).seg.replayAt
        ∧ (curCore s).flights = [] ∧ (curCore s).events = [] ∧ (curCore s).retry = []
        ∧ unpredictableAccs (curCtx s).seg.replayIssues = []) := by
  refine ⟨by decide +kernel, by decide +kernel, by decide +kernel, by decide +kernel, by decide +kernel, by decide +kernel,
    ⟨by decide, by decide, by decide, by decide, by decide +kernel, rfl, by decide +kernel, by decide +kernel, ⟨_, rfl⟩, by decide, by decide⟩,
    by decide +kernel⟩

/-- Core 0 in a segment, solo or of a gang, released at cycle 2 and now at cycle 7, with an event, a result and a load in flight. -/
def eventIn (gang : Bool) (code : Nat) (again : Bool) : State :=
  updCore (fun c => { c with
    ctime := 7, events := [⟨code, 5, 0, 0x40008⟩], flights := [flightOf (.load 1 1 5), flightOf (.copy (copyTo .host [] 0))]
    ctx := { c.ctx with seg := { Seg.loose with
      phase := .running, start := 2, transAborted := again, hdr := if gang then fld 1 136 else 0 } } }) base

/-- An abort for that cause has drained. -/
def drainedAbort (gang : Bool) (code : Nat) : State :=
  updCore (fun c => { c with ctx := { c.ctx with seg := { Seg.loose with
    phase := .aborting, accs := 1, alignPc := 0x4003C, ev := ⟨code, 5, 0, 0x40008⟩, hdr := if gang then fld 1 136 else 0 } } }) base

/-- What the statement asks of an event, and of an abort that has drained. -/
def eventOk (gang : Bool) (code : Nat) (again : Bool) : Prop :=
  OneEvent (eventIn gang code again) 0 ⟨code, 5, 0, 0x40008⟩ ∧ (getCore (eventIn gang code again) 0).resident = true
    ∧ (getCore (eventIn gang code again) 0).ctx.seg.phase = .running ∧ bitAt (getCore (eventIn gang code again) 0).ctx.seg.hdr 136 = gang
    ∧ (getCore (eventIn gang code again) 0).ctx.handler ≠ 0 ∧ (getCore (eventIn gang code again) 0).ctx.inShadow = false
    ∧ (getCore (eventIn gang code again) 0).ctx.seg.transAborted = again
    ∧ ∃ f ∈ (getCore (eventIn gang code again) 0).flights, loadFlight f = false
def drainedOk (gang : Bool) (code : Nat) : Prop :=
  Drained (drainedAbort gang code) 0 ∧ bitAt (getCore (drainedAbort gang code) 0).ctx.seg.hdr 136 = gang
    ∧ (getCore (drainedAbort gang code) 0).ctx.seg.gangT = 0 ∧ (getCore (drainedAbort gang code) 0).ctx.handler ≠ 0
    ∧ (getCore (drainedAbort gang code) 0).ctx.seg.ev.code = code ∧ bitAt (getCore (drainedAbort gang code) 0).ctx.seg.accs 0 = true
    ∧ bitAt (getCore (drainedAbort gang code) 0).ctx.seg.accs 3 = false

theorem wit_AbortsAndHolds : eventOk false 0x10 false ∧ eventOk false 0x0C false ∧ 0x0C ∈ soloAborts ∧ eventOk true 0x10 false
    ∧ eventOk true 0x10 true ∧ drainedOk false 0x0C ∧ drainedOk false 0x47 ∧ drainedOk true 0x10 ∧ drainedOk true 0x29 := by
  refine ⟨?_, ?_, by decide, ?_, ?_, ?_, ?_, ?_, ?_⟩ <;> (first | unfold eventOk OneEvent | unfold drainedOk Drained) <;> decide +kernel

/-- What those hypotheses lead to: where the handler starts, and whether the segment is released again (R24, R35, R358). -/
theorem test_aborts :
    runs .coreClockCycle (eventIn false 0x10 false) (fun t => (curCtx t).trapCause == 0x0000000500050110 && (curCore t).hold == .handler
      && (curCore t).flights.length == 2 && (curCore t).ctime == 8) = true
    ∧ runs .coreClockCycle (eventIn false 0x0C false) (fun t => (curCtx t).seg.phase == .aborting && (curCore t).flights.length == 1) = true
    ∧ runs .coreClockCycle (drainedAbort false 0x0C) (fun t => (curCtx t).trapCause == 0x5020C && (curCtx t).trapPc == 0x4003C
      && (curCtx t).main.pc == 0x4003C) = true
    ∧ runs .coreClockCycle (drainedAbort true 0x10) (fun t => (curCtx t).trapCause == 0x50310 && (curCtx t).seg.phase == .waiting) = true := by
  decide +kernel

/-- A VADD record stamped at a cycle; a segment of 41 cycles before its release and after it. -/
def vaddLine (stamp : Nat) : Line := recLine 2 0 0x48 0x40 0x50 0 + fld 1 64 + fld stamp 32
def ofVadd (stamp : Nat) : Applied :=
  applySlots (fun _ => true) (fun j => (curCtx base).main.read (slotReg (vaddLine stamp) j)) ⟨vaddLine stamp, 0, 0, 0⟩
def segIn (ph : Phase) : State := updSeg (fun g => { g with phase := ph, hdr := 41 + fld 0xFF 24 }) base

/-- A tape whose entry 5 is such a record, forwarded as its segment waits for its release. -/
def feeding : State :=
  updCore (fun c => { c with play := ⟨true, 5, 0, none⟩, tape := { c.tape with
    entries := List.replicate 5 ⟨0, 0, false⟩ ++ [⟨vaddLine 40, 0x1800000000000000, false⟩] } }) (segIn .pre)

theorem wit_RecordForwards :
    ((curCtx (segIn .pre)).inShadow = false ∧ (curCtx (segIn .pre)).seg.phase = .pre ∧ (curCtx (segIn .pre)).rec_ = false
      ∧ forwardCause (segIn .pre) (ofVadd 40) = none)
    ∧ ((curCtx (segIn .running)).seg.phase = .running ∧ (curCtx (segIn .running)).rec_ = false
      ∧ forwardCause (segIn .running) (ofVadd 4) = none ∧ forwardCause (segIn .running) (ofVadd 3) = some 0x26
      ∧ forwardCause (segIn .running) (ofVadd 41) = some 0x27)
    ∧ ((curCtx base).inShadow = false ∧ (curCtx base).seg.phase = .loose ∧ (curCtx base).handler ≠ 0)
    ∧ (feedDue feeding = true ∧ (curCtx feeding).seg.phase = .pre
      ∧ ∃ e, (curCore feeding).tape.entries[(curCore feeding).play.next]? = some e ∧ e.bad = false ∧ entryKind e = 1
        ∧ (curCore feeding).tape.entries[(curCore feeding).play.next + 1]? = none
        ∧ (∀ j, j < 4 → patchSlot e.annex j = none) ∧ forwardCause feeding ⟨e.payload, 0, 0, 0⟩ = none) := by
  refine ⟨by decide +kernel, by decide +kernel, by decide, by decide +kernel, by decide, ⟨vaddLine 40, 0x1800000000000000, false⟩, ?_⟩
  decide +kernel

/-- Issues: MARK that notifies, one nullified, and one on a column that has issued in this cycle. -/
def markIssue : Issue := { issueOf 3 0xF01 0 0 0 0 0 0 0 with raw := recLine 3 0xF01 0 0 0 0 + fld 1 1 }
def vaddIssue : Issue := issueOf 2 0 0x5F 0x40 0x50 0 0 0 0
def busyColumn : State := updCore (fun c => { c with lastIssue := [(2, 1)] }) seg
/-- The lanes of column SF are held. -/
def busyLanes : State := updCore (fun c => { c with mulUntil := [(4, 3)] }) seg

theorem wit_RecordIssues :
    (recordOf (.vadd { vaddIssue with nul := true }) = some { vaddIssue with nul := true }
      ∧ collides (curCore seg) 2 (spacingOf seg (.vadd { vaddIssue with nul := true })) = false)
    ∧ (recordOf (.vadd vaddIssue) = some vaddIssue ∧ collides (curCore busyColumn) 2 (spacingOf busyColumn (.vadd vaddIssue)) = true)
    ∧ (recordOf (.recordHintRegionIssue (issueOf 4 0xE00 0 0 0 0 0 0 0)) = some { issueOf 4 0xE00 0 0 0 0 0 0 0 with nul := true }
      ∧ collides (curCore seg) 4 (spacingOf seg (.recordHintRegionIssue (issueOf 4 0xE00 0 0 0 0 0 0 0))) = false
      ∧ collides (curCore busyLanes) 4 (spacingOf busyLanes (.recordHintRegionIssue (issueOf 4 0xE00 0 0 0 0 0 0 0))) = true)
    ∧ (Goes seg (.mark markIssue) markIssue ∧ markIssue.last = true ∧ recNT markIssue.raw = true
      ∧ (curCtx seg).notifyMask = 0 ∧ (let c := { curCtx seg with notifyMask := 8 }; (c.notify ||| BitVec.ofNat 8 (2 ^ markIssue.col)) &&& c.notifyMask = c.notifyMask)) := by
  unfold Goes; decide +kernel

/-- A plain tile of binary32 in scratchpad. -/
def spTile : Line := stream 0 0 64 1024 16 16 4

theorem wit_LaneResults : Goes seg (.vadd vaddIssue) vaddIssue ∧ (∃ r, laneResult seg (.vadd vaddIssue) = some r) ∧ (curCore seg).vBad = [] :=
  ⟨by unfold Goes; decide +kernel, ⟨_, rfl⟩, by decide⟩

/-- A tile of 8-bit elements of precision 4 in blocks of 8 along a row. -/
def spBlock : Line := stream 0 0 64 1024 16 16 27 + fld 1 156

theorem wit_ConversionsAndSpecialInputs : Goes seg (.vqnt (issueOf 3 0x31 0x40 0x41 1 0 0 0 spBlock)) (issueOf 3 0x31 0x40 0x41 1 0 0 0 spBlock)
    ∧ stBlkAx spBlock = 1 ∧ (stFmt spBlock).isNarrow = true ∧ bitsAt spBlock 158 2 ≠ 3
    ∧ (Goes seg (.vcvt (issueOf 3 0x30 0x40 0x41 1 0 0 0 spTile)) (issueOf 3 0x30 0x40 0x41 1 0 0 0 spTile) ∧ stBlkAx spTile = 0)
    ∧ (curCore seg).vBad = [] ∧ f32 0xFFC00001 = .nan ∧ f32 0x43000000 = .fin 128 ∧ (-151 : Rat) < -150 ∧ f32 0xC3170000 = .fin (-151) := by
  unfold Goes; decide +kernel

/-- Issues of the matrix column whose operands are zero registers or tiles of zeros. -/
def mxIssue (op d a b mod : Nat) : Issue := issueOf 1 op d a b mod spTile spTile spTile

theorem wit_MatrixIssues :
    (Goes seg (.mpass (mxIssue 1 0x60 0x40 0x41 0)) (mxIssue 1 0x60 0x40 0x41 0) ∧ passFaults true (mxIssue 1 0x60 0x40 0x41 0) seg = [])
    ∧ (Goes seg (.mma (mxIssue 0 0x60 1 2 0)) (mxIssue 0 0x60 1 2 0) ∧ passFaults false (mxIssue 0 0x60 1 2 0) seg = [])
    ∧ Goes seg (.mzero (mxIssue 2 0x63 0 0 0)) (mxIssue 2 0x63 0 0 0)
    ∧ (Goes seg (.mstore (mxIssue 5 1 0x60 0 0)) (mxIssue 5 1 0x60 0 0) ∧ mstoreFaults (mxIssue 5 1 0x60 0 0) = [])
    ∧ (Goes seg (.mload (mxIssue 3 0x60 1 0 0)) (mxIssue 3 0x60 1 0 0) ∧ mloadFaults (mxIssue 3 0x60 1 0 0) seg = [])
    ∧ (Goes seg (.mload (mxIssue 3 0x60 0x41 0 0)) (mxIssue 3 0x60 0x41 0 0) ∧ mloadFaults (mxIssue 3 0x60 0x41 0 0) seg = []) := by
  unfold Goes; decide +kernel

/-- Scratchpad operations of column VA. -/
def vaIssue (op d a b mod : Nat) : Issue := issueOf 2 op d a b mod spTile spTile spTile

/-- The drain queue holds one entry. -/
def drained : State := updCore (fun c => { c with drain := [List.replicate 1024 7] }) seg

theorem wit_ScratchpadIssues :
    (Goes seg (.vld (vaIssue 0x50 0x40 1 0 0)) (vaIssue 0x50 0x40 1 0 0) ∧ loadFaults (vaIssue 0x50 0x40 1 0 0) seg = [])
    ∧ (Goes seg (.vst (vaIssue 0x51 1 0x40 0 0)) (vaIssue 0x51 1 0x40 0 0) ∧ storeFaults (vaIssue 0x51 1 0x40 0 0) seg = []
      ∧ vCv (vaIssue 0x51 1 0x40 0 0).raw = false)
    ∧ (Goes drained (.vpop (vaIssue 0x55 0x40 0 0 0)) (vaIssue 0x55 0x40 0 0 0) ∧ (curCore drained).drain = [List.replicate 1024 7]
      ∧ (curCore seg).drain = [])
    ∧ (Goes seg (.vgath (vaIssue 0x52 0x40 0x41 1 0)) (vaIssue 0x52 0x40 0x41 1 0) ∧ gatherFaults (vaIssue 0x52 0x40 0x41 1 0) seg = [])
    ∧ (Goes seg (.vlut (vaIssue 0x54 0x40 0x41 1 0)) (vaIssue 0x54 0x40 0x41 1 0) ∧ lutFaults (vaIssue 0x54 0x40 0x41 1 0) seg = [])
    ∧ (Goes seg (.vscat (vaIssue 0x53 1 0x41 0x42 0)) (vaIssue 0x53 1 0x41 0x42 0) ∧ scatterFaults (vaIssue 0x53 1 0x41 0x42 0) seg = []
      ∧ active (vecElem (curCtx seg) (vecB (vaIssue 0x53 1 0x41 0x42 0)) 1023) = true) := by
  unfold Goes; decide +kernel

/-- A VAMO on a tile of the given space, all its lanes at the tile's base. -/
def amoIssue (space : Nat) : Issue := issueOf 2 0x5A 1 0x40 0x42 0 (stream space 0x10000 64 1024 16 16 52) 0 0

/-- The first sector of the page is poisoned; two such VAMOs are in flight. -/
def marked : State := { seg with memBad := [0x800] }
def lanes (seq : Nat) : Flight := ⟨0, 2, 0, seq, .vamo (amoIssue 2) [5] [0]⟩
def twoAtomics : State := updCore (fun c => { c with flights := [lanes 9, lanes 4] }) seg

theorem wit_VectorAtomics :
    (Goes seg (.vamo (amoIssue 0)) (amoIssue 0) ∧ vamoFaults (amoIssue 0) seg = [] ∧ stSpace (amoIssue 0).sD = 0 ∧ seg.oracle = [])
    ∧ (Goes seg (.vamo (amoIssue 2)) (amoIssue 2) ∧ vamoFaults (amoIssue 2) seg = [] ∧ stSpace (amoIssue 2).sD = 2
      ∧ seg.oracle = []
      ∧ ∀ r ∈ vamoRanges (amoIssue 2) (vecAll (curCtx seg) (vecB (amoIssue 2))), missing seg r = [])
    ∧ (firstActive [3, 5] [0xFFFFFFFF, 0xFFFFFFFF] = none
      ∧ firstActive [3, 5, 9] [0xFFFFFFFF, 0, 7] = some (5, 0, [9], [7]))
    ∧ (stSpace (amoIssue 1).sD = 1 ∧ (flatAddr (amoIssue 1).sD (posD (amoIssue 1)) 0 % (2 ^ 64 : Nat)).toNat = 0x10000
      ∧ 0x10000 % 4 = 0 ∧ lsBadAt seg (curDie seg) (curCtx seg) 0x10000 = false)
    ∧ ((flatAddr (amoIssue 2).sD (posD (amoIssue 2)) 0 % (2 ^ 64 : Nat)).toNat = 0x10000
      ∧ 0x10000 % 4 = 0 ∧ (∀ wr, heldTr seg (curDie seg) (curCtx seg).asid 0x10000 wr = .ok ⟨false, 0x20000⟩ true) ∧ sectorBad seg ⟨false, 0x20000⟩ = false
      ∧ 0x20000 % 4 = 0)
    ∧ ((∀ wr, heldTr marked (curDie marked) (curCtx marked).asid 0x10000 wr = .ok ⟨false, 0x20000⟩ true)
      ∧ sectorBad marked ⟨false, 0x20000⟩ = true ∧ marked.oracle = [])
    ∧ Coherent seg
    ∧ (landingDue twoAtomics = some (lanes 4) ∧ lanes 9 ∈ (curCore twoAtomics).flights
      ∧ vClass (amoIssue 2).raw = vClass (amoIssue 2).raw) := by
  refine ⟨by unfold Goes; decide +kernel, by unfold Goes; decide +kernel, by decide +kernel, by decide +kernel, by decide +kernel,
    by decide +kernel, coherent_empty base_l2, by decide +kernel⟩

/-! ## Copies, optics, near banks -/

/-- A tile of 16 rows of 64 bytes in the page at 0x10000; commands of column CP. -/
def memTile : Line := stream 2 0x10000 64 1024 16 16 4
def cpIssue (op b mod : Nat) (sD sA : Line) : Issue := issueOf 5 op 1 2 b mod sD sA 0

/-- A gang of one in a segment; a package of a domain whose space 0 is bound to space 3 of package 9. -/
def gangSeg : State := updSeg (fun g => { g with phase := .running, hdr := fld 1 136 }) base
def peered : State := { seg with feat0 := 2, pkg := 5, peers := [(9, some 3)] }

theorem wit_CopyIssues :
    (Goes seg (.cpy (cpIssue 0 0 0 spTile memTile)) (cpIssue 0 0 0 spTile memTile) ∧ copyFaults seg (cpIssue 0 0 0 spTile memTile) = []
      ∧ seg.oracle = [] ∧ copyRanges seg (cpIssue 0 0 0 spTile memTile) ≠ []
      ∧ ∀ r ∈ copyRanges seg (cpIssue 0 0 0 spTile memTile), missing seg r = [])
    ∧ (let x := cpIssue 1 0 0 spTile memTile
      Goes seg (.cpyL x) x ∧ copyFaults seg x = [] ∧ opOf x.raw = 1 ∧ isLoose (copyPath seg x) = false ∧ ∀ r ∈ copyRanges seg x, missing seg r = [])
    ∧ (let x := cpIssue 4 0 (2 ^ 51 + 2 ^ 50) spTile spTile
      Goes gangSeg (.cpyXScratchpad x) x ∧ gangMember gangSeg (cpxIdx x.raw) = some 0 ∧ cpxScratchFaults gangSeg x 0 = [] ∧ cpxPull x.raw = true)
    ∧ (let x := cpIssue 4 0 (2 ^ 51) spTile spTile
      Goes gangSeg (.cpyXScratchpad x) x ∧ gangMember gangSeg (cpxIdx x.raw) = some 0 ∧ cpxScratchFaults gangSeg x 0 = [] ∧ cpxPull x.raw = false)
    ∧ (let x := cpIssue 4 0 9 memTile spTile
      Goes peered (.cpyXMemory x) x ∧ KMap.get none peered.peers ((curCtx peered).asid * 65536 + cpxPkg x.raw) = some 3
      ∧ inDomain peered (cpxPkg x.raw) = true ∧ cpxMemoryFaults peered x = [] ∧ cpxPull x.raw = false)
    ∧ (let x := cpIssue 4 0 (2 ^ 50 + 9) spTile memTile
      Goes peered (.cpyXMemory x) x ∧ cpxMemoryFaults peered x = [] ∧ cpxPull x.raw = true)
    ∧ (let x := cpIssue 6 0 0 memTile 0
      Goes seg (.cpyD x) x ∧ dropFaults seg x = [] ∧ ∀ r ∈ tileRanges x, missing seg r = [])
    ∧ (let x := cpIssue 7 0 0 memTile 0
      Goes seg (.cpyW x) x ∧ cleanFaults seg x = [] ∧ ∀ r ∈ tileRanges x, missing seg r = []) := by
  unfold Goes; decide +kernel

def opIssue (op mod : Nat) : Issue := issueOf 6 op 1 2 0 mod spTile spTile 0

/-- With no watch, no tag asked for and no poison, no read faults. -/
theorem readFaults_clean {c : Core} (hw : c.watches = []) (hb : c.spBad = []) (first : Bool) (bs : List Nat) :
    readFaults c none first bs = [] := by
  simp [readFaults, earlyRead, hw, hb]

theorem optical_clean : (curCore optical).watches = [] ∧ (curCore optical).spBad = [] := by decide

theorem wit_OpticalIssues_shot :
    Goes optical (.oxf (opIssue 0 0)) (opIssue 0 0) ∧ apertureOf optical (oxApt (opIssue 0 0).raw) = some 0
      ∧ (shotIssue (opIssue 0 0) 0 optical).1 = [] ∧ (shotIssue (opIssue 1 0) 0 optical).1 = []
      ∧ (∀ p ∈ windowPoints (windowAt (getAperture optical 0) (oxWin (opIssue 0 0).raw)), ∀ j, j < 8 →
          spByte optical ((cplxAddr (opIssue 0 0).sA (posA (opIssue 0 0)) (oxIstep (opIssue 0 0).raw) p.1 p.2).toNat + j) = 0) := by
  unfold Goes; decide +kernel

theorem wit_OpticalIssues_mask : Goes optical (.omask (opIssue 2 2)) (opIssue 2 2)
    ∧ apertureOf optical (oxApt (opIssue 2 2).raw) = some 0 ∧ (maskIssue (opIssue 2 2) 0 optical).1 = [] := by
  refine ⟨by unfold Goes; decide +kernel, by decide +kernel, ?_⟩
  simp only [maskIssue, readFaults_clean optical_clean.1 optical_clean.2, ite_self, List.append_nil]
  decide +kernel

/-- An image of zeros is a good calibration image. -/
theorem spRead_empty {c : Core} (h : c.sp = []) (off n : Nat) : spRead c off n = List.replicate n 0 :=
  List.eq_replicate_iff.2 ⟨by simp [spRead, KMap.getList], by simp [spRead, KMap.getList, h]⟩

theorem zero_image (off : Nat) : imageBad (spRead (curCore optical) off 41024) = false := by
  rw [spRead_empty (by decide)]; simp only [imageBad, List.drop_replicate, List.take_replicate]; decide +kernel

theorem wit_OpticalIssues_cal : Goes optical (.ocal (opIssue 3 0)) (opIssue 3 0)
    ∧ apertureOf optical (oxApt (opIssue 3 0).raw) = some 0 ∧ (calIssue (opIssue 3 0) 0 optical).1 = [] := by
  refine ⟨by unfold Goes; decide +kernel, by decide +kernel, ?_⟩
  simp only [calIssue, readFaults_clean optical_clean.1 optical_clean.2, ite_self, List.append_nil, zero_image, Bool.and_false]
  decide +kernel

theorem wit_OpticalIssues_rest : (Goes optical (.owin (opIssue 4 0)) (opIssue 4 0) ∧ apertureOf optical (oxApt (opIssue 4 0).raw) = some 0)
    ∧ (Goes optical (.oref (opIssue 5 0)) (opIssue 5 0) ∧ apertureOf optical (oxApt (opIssue 5 0).raw) = some 0
      ∧ (refIssue (opIssue 5 0) 0 optical).1 = [])
    ∧ (Goes seg (.oxf (opIssue 0 0)) (opIssue 0 0) ∧ apertureOf seg (oxApt (opIssue 0 0).raw) = none) := by
  unfold Goes; decide +kernel

/-- A die-pinned page of 2 MiB at 0x400000; a scoring layout of BF16 keys in it, one query row, one block. -/
def pinnedSeg : State := updDie 0 (fun d => { d with tlb := [⟨0, 0x400000, 0x200000, 0x400009, 0⟩] }) seg
def layout : Line := stream 2 0x400000 64 16384 16 32 20
def nbIssue (op : Nat) (sD sA sB : Line) : Issue := issueOf 7 op 1 2 3 0 sD sA sB

theorem wit_NearBankIssues :
    (let x := nbIssue 0 (stream 0 0x2000 64 1024 16 16 52) (stream 0 0 64 64 1 32 20) layout;
      Goes pinnedSeg (.nbScore x) x ∧ scoreFaults pinnedSeg x = [] ∧ pinnedSeg.oracle = [] ∧ ∀ r ∈ scoreRanges x, missing pinnedSeg r = [])
    ∧ (let x := nbIssue 1 (stream 0 0x2000 64 1024 16 32 20) (stream 0 0 64 64 1 32 20) layout
      Goes pinnedSeg (.nbSel x) x ∧ selFaults pinnedSeg x = [] ∧ selReads (curCore pinnedSeg) x = []
      ∧ ∀ r ∈ selRanges (curCore pinnedSeg) x, missing pinnedSeg r = [])
    ∧ (let x := nbIssue 2 layout (stream 0 0x2000 64 1024 16 32 20) 0
      Goes pinnedSeg (.nbPut x) x ∧ putFaults pinnedSeg x = [] ∧ ∀ r ∈ putRanges x, missing pinnedSeg r = [])
    ∧ Goes pinnedSeg (.nbStat (issueOf 7 3 0x48 0 0 0 0 0 0)) (issueOf 7 3 0x48 0 0 0 0 0 0) := by
  unfold Goes; decide +kernel

/-! ## Landings -/

/-- The same matrix issue opening or closing a chain; an open chain under half-width hops, with a pass waiting or not. -/
def chainIssue (op bit : Nat) : Issue := { mxIssue op 0x60 0x40 0x41 0 with raw := recLine 1 op 0x60 0x40 0x41 0 + fld 1 bit }
def chained (w : List Elem) : State :=
  updCore (fun c => { c with fold := 0x1F }) (updSeg (fun g => { g with chains := [(0, ⟨true, w, List.replicate 4096 0⟩)] }) seg)

theorem wit_MatrixLandings :
    (chainMisuse (curCtx seg) (mxIssue 0 0x60 1 2 0) = false ∧ ((mxIssue 0 0x60 1 2 0).first && recCB (mxIssue 0 0x60 1 2 0).raw) = false
      ∧ ((mxIssue 0 0x60 1 2 0).last && recCE (mxIssue 0 0x60 1 2 0).raw) = false ∧ (List.replicate 4096 (0 : Elem)).length = 4096
      ∧ landBad (curCore seg) (mxIssue 0 0x60 1 2 0) = [] ∧ (chainOf (curCtx seg) 0).isOpen = false)
    ∧ (chainMisuse (curCtx (chained [])) (mxIssue 1 0x60 0x40 0x41 0) = false ∧ accD (mxIssue 1 0x60 0x40 0x41 0) = 0
      ∧ (chainOf (curCtx (chained [])) 0).isOpen = true ∧ halfOf (curCore (chained [])).fold ≠ 0 ∧ (chainOf (curCtx (chained [])) 0).waiting = []
      ∧ landBad (curCore (chained [])) (mxIssue 1 0x60 0x40 0x41 0) = [])
    ∧ ((chainOf (curCtx (chained (List.replicate 4096 0))) 0).waiting.length = 4096
      ∧ (chainOf (curCtx (chained (List.replicate 4096 0))) 0).before.length = 4096)
    ∧ (∀ op ∈ [2, 3, 4, 5, 6], opOf (mxIssue op 0x60 0x60 0 0).raw = op ∧ chainMisuse (curCtx seg) (mxIssue op 0x60 0x60 0 0) = false
      ∧ landBad (curCore seg) (mxIssue op 0x60 0x60 0 0) = [])
    ∧ (opOf (chainIssue 16 3).raw = 16 ∧ chainMisuse (curCtx (chained [])) (chainIssue 16 3) = true)
    ∧ (chainMisuse (curCtx seg) (chainIssue 16 3) = false ∧ (chainIssue 16 3).first = true ∧ recCB (chainIssue 16 3).raw = true
      ∧ ((chainIssue 16 3).last && recCE (chainIssue 16 3).raw) = false)
    ∧ (chainMisuse (curCtx (chained [])) (chainIssue 16 2) = false ∧ opOf (chainIssue 16 2).raw = 16
      ∧ ((chainIssue 16 2).first && recCB (chainIssue 16 2).raw) = false ∧ (chainIssue 16 2).last = true
      ∧ recCE (chainIssue 16 2).raw = true)
    ∧ ((curCore seg).drain.length < 8 ∧ 8 ≤ (curCore (updCore (fun c => { c with drain := List.replicate 8 [] }) seg)).drain.length) := by
  decide +kernel

/-- A result of each kind in flight. -/
theorem wit_ColumnLandings :
    (flightOf (.vec 31 [1] noCount)).kind = .vec 31 [1] noCount ∧ (flightOf (.optical [(0x1FFFFF, 1)] noCount)).kind = .optical [(0x1FFFFF, 1)] noCount
    ∧ (flightOf (.sp [(0, 1), (0, 2)] noCount)).kind = .sp [(0, 1), (0, 2)] noCount ∧ (flightOf (.vecRow 31 15 [1])).kind = .vecRow 31 15 [1]
    ∧ (flightOf (.win 15 3 0)).kind = .win 15 3 0 ∧ (flightOf (.nbList Issue.zero [] [])).kind = .nbList Issue.zero [] [] :=
  ⟨rfl, rfl, rfl, rfl, rfl, rfl⟩

theorem base_watches (k : Nat) : (getCore base k).watches = [] := by
  simp only [getCore, base, KMap.get]; split <;> rfl

/-- Runs for the scratchpads of two cores that meet, and for memory; a poisoned run. -/
def spRuns : List (Dest × List Byte) := [(.sp 0 0x1FFFC0, [1, 2]), (.sp 127 0, [3]), (.sp 0 0x1FFFC1, [4])]
def memRuns : List (Dest × List Byte) := [(.va 0x1FFFF, [1]), (.va 0x10000, [2, 3])]
def copyBad : Copy := { copyTo .dram [(Dest.va 0x10000, [1])] 0 with poison := [true], through := true }

theorem wit_CopyLandings :
    ((∀ r ∈ spRuns, ∃ k off, r.1 = Dest.sp k off ∧ k < 128)
      ∧ ({ copyTo .ss spRuns 5 with poison := [false, true, false] } : Copy).poison.length = spRuns.length ∧ (copyTo .ss spRuns 5).through = false)
    ∧ (Coherent base ∧ ({ copyTo .dram memRuns 0 with poison := [false, false] } : Copy).poison.length = memRuns.length
      ∧ ∀ r ∈ memRuns, ∃ va p, r.1 = Dest.va va ∧ 0 < r.2.length ∧ va % 64 + r.2.length ≤ 64
        ∧ translate base (curDie base) (curCtx base).asid va true = .ok p true ∧ p.pa % 64 = va % 64)
    ∧ (copyBad.runs = [(Dest.va 0x10000, [1])] ∧ copyBad.poison = [true] ∧ copyBad.through = true
      ∧ translate base (curDie base) (curCtx base).asid 0x10000 true = .ok ⟨false, 0x20000⟩ true)
    ∧ ((copyTo .ls [(Dest.ls 0x3E, [1, 2])] 0).runs = [(Dest.ls 0x3E, [1, 2])] ∧ 0x3E % 64 + [(1 : Byte), 2].length ≤ 64)
    ∧ (flightOf (.clean [(0x10000, 64)] 0)).kind = .clean [(0x10000, 64)] 0
    ∧ ((flightOf (.drop [(0x10000, 64)] 0)).kind = .drop [(0x10000, 64)] 0
      ∧ ∀ q ∈ [(0x10000, 64)], ∀ v, q.1 ≤ v → v < q.1 + q.2 → (findTlb base (curDie base) (curCtx base).asid v).isSome = true) := by
  refine ⟨⟨fun r h => ?_, rfl, rfl⟩, ⟨base_coherent, rfl, fun r h => ?_⟩, by decide, by decide, rfl, rfl, fun q h v h1 h2 => ?_⟩
  · fin_cases h
    · exact ⟨0, 0x1FFFC0, rfl, by decide⟩
    · exact ⟨127, 0, rfl, by decide⟩
    · exact ⟨0, 0x1FFFC1, rfl, by decide⟩
  · fin_cases h
    · exact ⟨0x1FFFF, ⟨false, 0x2FFFF⟩, rfl, by decide, by decide, by decide, by decide⟩
    · exact ⟨0x10000, ⟨false, 0x20000⟩, rfl, by decide, by decide, by decide, by decide⟩
  · simp only [List.mem_singleton] at h
    subst h
    obtain ⟨k, rfl⟩ : ∃ k, v = 0x10000 + k := ⟨v - 0x10000, by omega⟩
    have hk : k < 64 := by omega
    clear h1 h2
    revert k; decide +kernel

/-! ## The whole machine -/

theorem wit_DecodeAgrees : ((Instr.bLt 7 31 30 1).wf = true ∧ encode (.bLt 7 31 30 1) ≠ []) ∧ (Instr.liw 31 0x80000000).wf = true
    ∧ (recordOf (.vadd vaddIssue) = some vaddIssue ∧ (∀ y, Instr.vadd vaddIssue ≠ .recordHintRegionIssue y) ∧ (Instr.vadd vaddIssue).wf = true)
    ∧ (recordInstr vaddIssue = some (.vadd vaddIssue) ∧ bitsAt vaddIssue.raw 25 7 = 0x7F ∧ colOf vaddIssue.raw = vaddIssue.col
      ∧ vaddIssue.i0 < tripOf vaddIssue.raw 0 ∧ vaddIssue.i1 < tripOf vaddIssue.raw 1 ∧ vaddIssue.i2 < tripOf vaddIssue.raw 2
      ∧ vaddIssue.i3 < tripOf vaddIssue.raw 3) :=
  ⟨by decide, by decide, ⟨rfl, fun y h => (nomatch h), by decide +kernel⟩, by decide +kernel⟩

/-- A word at the program counter after reset; the same with the program counter elsewhere in the code object. -/
def wordAtPc (w : Nat) : State := State.reset.withFetchWord 32 w
def wordAtEnd (w : Nat) (pc : Word) : State :=
  updCore (fun c => { c with istore := KMap.setList 0 [] 252 (tableBytes 32 w), ctx := { c.ctx with main := { c.ctx.main with pc := pc } } })
    (wordAtPc w)

theorem isNext_of {s : State} (h : (s.powered && (nextInput s).isNone && (nextFirmware s).isNone && (nextTimer s).isNone
      && ([holdEnds, storeNext, loadNext, overdueNext, releaseNext, commandNext, issueNext, waitNext, closeNext, feedNext, preemptNext].all
        fun f => (onCores f s).isNone)
      && (landingNext s).isNone
      && (activeCores s).find? (fun j => wordReady (focus j s)) == some 0) = true) : WordIsNext s 0 := by
  simp only [Bool.and_eq_true, Option.isNone_iff_eq_none, List.all_eq_true, beq_iff_eq] at h
  obtain ⟨⟨⟨⟨⟨⟨h1, h2⟩, h3⟩, h4⟩, h5⟩, h6⟩, h7⟩ := h
  exact ⟨h1, h2, h3, h4, h5, h6, h7⟩

theorem wit_StepRunsDecoded :
    (WordIsNext (wordAtPc 0x02210C00) 0 ∧ pcInStore (focus 0 (wordAtPc 0x02210C00)) = true
      ∧ ∃ i rest t, decode (fetchBytes (focus 0 (wordAtPc 0x02210C00))) = .ok (i, rest)
        ∧ exec i (foldSignature 4 (focus 0 (wordAtPc 0x02210C00))) = .next t)
    ∧ (WordIsNext (wordAtEnd 0x02210C00 0x100FC) 0 ∧ pcInStore (focus 0 (wordAtEnd 0x02210C00 0x100FC)) = true
      ∧ ∃ i rest, decode (fetchBytes (focus 0 (wordAtEnd 0x02210C00 0x100FC))) = .ok (i, rest))
    ∧ (WordIsNext (wordAtPc 0) 0 ∧ pcInStore (focus 0 (wordAtPc 0)) = true ∧ ∃ e, decode (fetchBytes (focus 0 (wordAtPc 0))) = .error e)
    ∧ (WordIsNext (wordAtEnd 0 0x10100) 0 ∧ pcInStore (focus 0 (wordAtEnd 0 0x10100)) = false) :=
  ⟨⟨isNext_of (by decide +kernel), by decide +kernel, _, _, _, by rfl, by rfl⟩,
    ⟨isNext_of (by decide +kernel), by decide +kernel, _, _, by rfl⟩,
    ⟨isNext_of (by decide +kernel), by decide +kernel, _, by rfl⟩,
    isNext_of (by decide +kernel), by decide +kernel⟩

/-- A package without power, and what reaches it. -/
def unpowered (inputs : List (Nat × Instr)) : State := { State.reset with powered := false, inputs := inputs }

theorem wit_NothingStops : State.reset.powered = true
    ∧ ((unpowered []).powered = false ∧ ∀ e ∈ (unpowered []).inputs, e.2 ≠ .packageReset)
    ∧ ((unpowered [(0, .packageReset)]).powered = false ∧ ∃ e ∈ (unpowered [(0, .packageReset)]).inputs, e.2 = .packageReset) := by decide

theorem wit_MemoryStaysCanonical : ∃ t, State.reset.memWf = true ∧ step State.reset = .next t := ⟨_, by decide, rfl⟩

theorem wit_CachesStayCoherent : (Coherent State.reset ∧ ∃ t, step State.reset = .next t)
    ∧ Coherent base ∧ 0x2FFFF % 64 + [(1 : Byte)].length ≤ 64 :=
  ⟨⟨coherent_empty fun d => by simp only [getDie, State.reset, KMap.get]; rfl, _, rfl⟩, base_coherent, by decide⟩

end Sys2Proof.Tests
end

section
/-! PROOFS of the statements about the package's own registers, power and reset (chapters 1 and 19). -/

/-! ## Folds over core and die numbers, and lists of bytes -/

namespace Sys2Proof

/-- A fold whose step at `k` changes the `k`-th entry alone, over keys that do not repeat, changes the entry of each
key once. -/
theorem foldl_pointwise {σ α : Type} (get : σ → Nat → α) {step : σ → Nat → σ} {f : Nat → α → α}
    (h : ∀ s k j, get (step s k) j = if j = k then f k (get s k) else get s j) {l : List Nat} (hl : l.Nodup)
    (s : σ) (j : Nat) : get (l.foldl step s) j = if j ∈ l then f j (get s j) else get s j := by
  induction l generalizing s with
  | nil => simp
  | cons k l ih =>
    obtain ⟨hk, hl⟩ := List.nodup_cons.mp hl
    rw [List.foldl_cons, ih hl, h]
    by_cases hj : j = k
    · subst hj; simp [hk]
    · simp [hj]

@[simp] theorem leBytes_length (n v : Nat) : (leBytes n v).length = n := by
  induction n generalizing v with
  | zero => rfl
  | succ n ih => simp [leBytes, ih]

theorem ofLeBytes_leBytes (n v : Nat) : ofLeBytes (leBytes n v) = v % 256 ^ n := by
  induction n generalizing v with
  | zero => simp [leBytes, ofLeBytes, Nat.mod_one]
  | succ n ih => rw [leBytes, ofLeBytes, ih, BitVec.toNat_ofNat, Nat.pow_succ' (m := 256), Nat.mod_mul]

/-- Bytes just written are read back. -/
theorem KMap.getList_setList_same {α : Type} [DecidableEq α] (d : α) (m : KMap α) (k : Nat) (vs : List α) :
    KMap.getList d (KMap.setList d m k vs) k vs.length = vs := by
  refine List.ext_getElem (by simp [KMap.getList]) fun i h _ => ?_
  have hi : i < vs.length := by simpa [KMap.getList] using h
  simp [KMap.getList, KMap.get_setList, hi]

/-- A write to other places leaves a range of bytes alone. -/
theorem KMap.getList_setList_disjoint {α : Type} [DecidableEq α] (d : α) (m : KMap α) (vs : List α) {a k n : Nat}
    (h : k + n ≤ a ∨ a + vs.length ≤ k) :
    KMap.getList d (KMap.setList d m a vs) k n = KMap.getList d m k n := by
  refine List.map_congr_left fun i hi => ?_
  have hi := List.mem_range.mp hi
  rw [KMap.get_setList, if_neg (by omega)]

end Sys2Proof

namespace Sys2Proof.Machine

/-! ## Request slots (R398, R399) -/

/-- Results written into a slot elsewhere leave a field of it alone. -/
theorem getList_results_disjoint (slot off n : Nat) (outs : List (Nat × List Byte)) (m : KMap Byte)
    (h : ∀ o ∈ outs, off + n ≤ o.1 ∨ o.1 + o.2.length ≤ off) :
    KMap.getList 0 (outs.foldl (fun m o => KMap.setList 0 m (64 * slot + o.1) o.2) m) (64 * slot + off) n
      = KMap.getList 0 m (64 * slot + off) n := by
  induction outs generalizing m with
  | nil => rfl
  | cons o outs ih =>
    have ho := h o (by simp)
    rw [List.foldl_cons, ih _ fun o ho => h o (by simp [ho]), KMap.getList_setList_disjoint _ _ _ (by omega)]

theorem slotStatus_answer (slot : Nat) (req : Line) (status : Nat) (outs : List (Nat × List Byte)) (s : State) :
    slotStatus (answer slot req status outs s) slot = status % 256 ^ 4 := by
  rw [← ofLeBytes_leBytes]
  exact congrArg ofLeBytes (KMap.getList_setList_same 0 _ (64 * slot + 4) (leBytes 4 status))

/-- The number written at `off` stands in the answered slot when neither STATUS nor a later result covers it. -/
theorem slotField_answer (slot : Nat) (req : Line) (status : Nat) {off n v : Nat} (pre post : List (Nat × List Byte))
    (s : State) (hv : v < 256 ^ n) (hstatus : 8 ≤ off) (hpost : ∀ o ∈ post, off + n ≤ o.1 ∨ o.1 + o.2.length ≤ off) :
    slotField (answer slot req status (pre ++ (off, leBytes n v) :: post) s) slot off n = v := by
  have hsame := KMap.getList_setList_same 0
    (pre.foldl (fun m o => KMap.setList 0 m (64 * slot + o.1) o.2)
      (KMap.setList 0 s.host.slots (64 * slot) (leBytes 64 req.toNat))) (64 * slot + off) (leBytes n v)
  rw [leBytes_length] at hsame
  unfold slotField answer
  rw [KMap.getList_setList_disjoint _ _ _ (by simp; omega), List.foldl_append, List.foldl_cons,
    getList_results_disjoint _ _ _ _ _ hpost, hsame, ofLeBytes_leBytes, Nat.mod_eq_of_lt hv]

theorem WellAddressed.not_malformed {code : Nat} {req : Line} (h : WellAddressed code req) :
    ¬ (reqCode req ≠ code ∨ (reqReserved code).any (fun f => reqField req f.1 f.2 != 0)) := by
  obtain ⟨hcode, hres⟩ := h
  simpa [hcode] using hres

/-- What a request of its CODE with zero reserved bytes comes to is its answer. -/
theorem request_ok {code : Nat} {req : Line} (h : WellAddressed code req) (slot : Nat) (s t : State) :
    request code slot req s (.ok t) = .next t := by
  unfold request; rw [if_neg h.not_malformed]

/-- What a request of its CODE with zero reserved bytes is refused for is the reason told. -/
theorem request_error {code : Nat} {req : Line} (h : WellAddressed code req) (slot : Nat) (s : State) (reason : Nat) :
    request code slot req s (.error reason) = .next (refuse slot req reason s) := by
  unfold request; rw [if_neg h.not_malformed]

/-! An answer changes the host's side of the link alone. -/

section
variable (slot : Nat) (req : Line) (status : Nat) (outs : List (Nat × List Byte)) (s : State)

@[simp] theorem answer_cores : (answer slot req status outs s).cores = s.cores := by unfold answer; rfl
@[simp] theorem answer_dies : (answer slot req status outs s).dies = s.dies := by unfold answer; rfl
@[simp] theorem answer_tasks : (answer slot req status outs s).tasks = s.tasks := by unfold answer; rfl
@[simp] theorem answer_rings : (answer slot req status outs s).rings = s.rings := by unfold answer; rfl
@[simp] theorem answer_spaces : (answer slot req status outs s).spaces = s.spaces := by unfold answer; rfl
@[simp] theorem answer_pkg : (answer slot req status outs s).pkg = s.pkg := by unfold answer; rfl
@[simp] theorem answer_domain : (answer slot req status outs s).domain = s.domain := by unfold answer; rfl
@[simp] theorem answer_feat0 : (answer slot req status outs s).feat0 = s.feat0 := by unfold answer; rfl
@[simp] theorem answer_feat1 : (answer slot req status outs s).feat1 = s.feat1 := by unfold answer; rfl
@[simp] theorem answer_fw : (answer slot req status outs s).fw = s.fw := by unfold answer; rfl

end

theorem answered_answer (slot : Nat) (req : Line) (outs : List (Nat × List Byte)) (s : State) :
    Answered s (answer slot req 0 outs s) slot := ⟨slotStatus_answer .., rfl⟩

theorem refused_refuse (slot : Nat) (req : Line) {reason : Nat} (s : State) (h : reason < 256 ^ 4) :
    Refused s (refuse slot req reason s) slot reason :=
  ⟨slotStatus_answer .., slotField_answer slot req 1 [] [] s h (by decide) (by simp), rfl⟩

/-! ## NEGOTIATE and CONFIG (R18, R384, R402, R410) -/

/-- The results of NEGOTIATE, by their places in the slot (R399). -/
def negotiateResults (req : Line) : List (Nat × List Byte) :=
  [(24, leBytes 8 (BitVec.ofNat 64 (reqField req 8 8) &&& offered).toNat), (32, leBytes 8 0),
    (40, leBytes 8 offered.toNat), (48, leBytes 8 0)]

theorem exec_negotiate (slot : Nat) (req : Line) (s : State) :
    exec (.negotiate slot req) s = execNegotiate slot req s := by rfl
theorem exec_config (slot : Nat) (req : Line) (s : State) :
    exec (.config slot req) s = execConfig slot req s := by rfl

section
variable {s : State} {req : Line} (slot : Nat)

/-- With nothing resident NEGOTIATE sets the features and answers. -/
theorem exec_negotiate_idle (h : WellAddressed 1 req) (hidle : anyResident s = false) :
    exec (.negotiate slot req) s = .next (answer slot req 0 (negotiateResults req) { s with
      feat0 := BitVec.ofNat 64 (reqField req 8 8) &&& offered, feat1 := 0
      fw := { s.fw with bringUp := if s.fw.bringUp = .negotiate then .config else s.fw.bringUp } }) := by
  rw [exec_negotiate, execNegotiate, hidle]
  exact request_ok h ..

theorem exec_negotiate_resident (h : WellAddressed 1 req) (hres : anyResident s = true) :
    exec (.negotiate slot req) s = .next (refuse slot req 4 s) := by
  rw [exec_negotiate, execNegotiate, hres]
  exact request_error h ..

/-- FEAT0 and the offered features, as the slot then shows them. -/
theorem slotField_negotiateResults (s : State) :
    slotField (answer slot req 0 (negotiateResults req) s) slot 24 8
      = (BitVec.ofNat 64 (reqField req 8 8) &&& offered).toNat
    ∧ slotField (answer slot req 0 (negotiateResults req) s) slot 40 8 = offered.toNat :=
  ⟨slotField_answer slot req 0 [] (negotiateResults req).tail s (BitVec.isLt _) (by decide)
      (by simp [negotiateResults]),
    slotField_answer slot req 0 ((negotiateResults req).take 2) [(48, leBytes 8 0)] s (BitVec.isLt _) (by decide)
      (by simp)⟩

/-- The limits after a CONFIG: those given, in cycles, and else the old ones. -/
theorem get_newLimits (req : Line) (old : KMap Nat) {p : Nat} (hp : p < 4) :
    KMap.get 150000000 (newLimits req old) p =
      if reqField req (16 + 4 * p) 4 = 0 then KMap.get 150000000 old p else reqField req (16 + 4 * p) 4 * 1500 := by
  refine (foldl_pointwise (KMap.get 150000000)
    (f := fun p x => if reqField req (16 + 4 * p) 4 = 0 then x else reqField req (16 + 4 * p) 4 * 1500)
    (fun m k j => ?_) List.nodup_range old p).trans (if_pos (List.mem_range.mpr hp))
  dsimp only
  split
  · split <;> simp_all
  · rw [KMap.get_set]

/-- With nothing resident and every field in its range CONFIG sets what it gives. -/
theorem exec_config_idle (h : WellAddressed 2 req) (hup : s.fw.bringUp ≠ .negotiate) (hidle : anyResident s = false)
    (hcap : reqField req 12 2 = 0 ∨ (1200 ≤ reqField req 12 2 ∧ reqField req 12 2 ≤ 2400))
    (hlims : ∀ p, p < 4 → reqField req (16 + 4 * p) 4 = 0 ∨
      (1000 ≤ reqField req (16 + 4 * p) 4 ∧ reqField req (16 + 4 * p) 4 ≤ 10000000)) :
    exec (.config slot req) s = .next (answer slot req 0 [] { s with
      pkg := BitVec.ofNat 16 (reqField req 8 2), domain := BitVec.ofNat 16 (reqField req 10 2)
      fw := { s.fw with
        bringUp := .ready, cap := if reqField req 12 2 = 0 then s.fw.cap else reqField req 12 2
        limits := newLimits req s.fw.limits } }) := by
  have hany : (((List.range 4).map fun p => reqField req (16 + 4 * p) 4).any
      fun v => v != 0 && (decide (v < 1000) || decide (10000000 < v))) = false := by
    simp only [List.any_eq_false, List.mem_map, List.mem_range]
    rintro _ ⟨p, hp, rfl⟩
    have := hlims p hp
    simp only [Bool.and_eq_true, Bool.or_eq_true, bne_iff_ne, decide_eq_true_eq]
    omega
  rw [exec_config, execConfig]
  simp only [hany, hidle]
  rw [if_neg hup, if_neg (by decide), if_neg (by simp; omega)]
  exact request_ok h ..

theorem exec_config_resident (h : WellAddressed 2 req) (hup : s.fw.bringUp ≠ .negotiate) (hres : anyResident s = true) :
    exec (.config slot req) s = .next (refuse slot req 4 s) := by
  rw [exec_config, execConfig, if_neg hup, if_pos hres]
  exact request_error h ..

end

/-- Settles O30: each request, well formed, is either served or refused with its reason, and the slot tells which. -/
theorem negotiateAndConfig : Obligations.NegotiateAndConfig := by
  unfold Obligations.NegotiateAndConfig
  refine ⟨fun s slot req h => ⟨fun hidle => ?_, fun hres => ?_⟩, fun s slot req h hup hidle hcap hlims => ?_,
    fun s slot req h hup hres => ?_⟩
  · obtain ⟨hfeat, hoffered⟩ := slotField_negotiateResults (req := req) slot { s with
      feat0 := BitVec.ofNat 64 (reqField req 8 8) &&& offered, feat1 := 0
      fw := { s.fw with bringUp := if s.fw.bringUp = .negotiate then .config else s.fw.bringUp } }
    exact ⟨_, exec_negotiate_idle slot h hidle, answered_answer .., rfl, rfl, hfeat, hoffered, rfl⟩
  · exact ⟨_, exec_negotiate_resident slot h hres, refused_refuse slot req s (by decide), answer_feat0 ..,
      answer_feat1 ..⟩
  · exact ⟨_, exec_config_idle slot h hup hidle hcap hlims, answered_answer .., rfl, rfl, rfl,
      fun p hp => get_newLimits req s.fw.limits hp, rfl⟩
  · exact ⟨_, exec_config_resident slot h hup hres, refused_refuse slot req s (by decide), answer_pkg ..,
      answer_domain .., answer_fw .., answer_cores ..⟩

/-! ## The state right after reset (R18, R22, R23, R212, R412) -/

@[simp] theorem getCore_reset (k : Nat) : getCore State.reset k = Core.reset := rfl
@[simp] theorem getDie_reset (d : Nat) : getDie State.reset d = Die.reset := rfl

/-- With no line in any slice the caches agree with DRAM. -/
theorem coherent_reset : Coherent State.reset := fun d => by
  have hl2 : Die.reset.l2 = [] := rfl
  constructor <;> simp [hl2]

/-- A byte that no slice holds and no memory lists is zero (log entry 2). -/
theorem physByte_reset (p : Phys) : physByte State.reset p = 0 := by
  unfold physByte; split
  · rfl
  · rw [homeByte_uncached _ (by rfl)]; rfl

/-- Settles O59: the reset state is given field by field, and its empty maps read as their defaults everywhere. -/
theorem resetState : Obligations.ResetState := by
  unfold Obligations.ResetState
  refine ⟨rfl, rfl, rfl, rfl, rfl, rfl, rfl, rfl, rfl, rfl, rfl, rfl, fun k => ?_, fun d => ?_, reset_memWf,
    coherent_reset, physByte_reset, fun k a => ?_⟩
  · rw [getCore_reset]; exact ⟨rfl, rfl, rfl⟩
  · rw [getDie_reset]; exact ⟨rfl, rfl, rfl⟩
  · rw [getCore_reset]; rfl

/-! ## Calibration by the firmware (R309) -/

theorem getAperture_updAperture_same (a : Nat) (f : Aperture → Aperture) (s : State) :
    getAperture (updAperture a f s) a = f (getAperture s a) := by
  unfold getAperture updAperture updDie
  rw [getDie_setDie_same]
  split <;> rfl

@[simp] theorem getAperture_drawOracle (a : Nat) (s : State) : getAperture (drawOracle s).2 a = getAperture s a := by
  unfold drawOracle; split <;> rfl
@[simp] theorem getCore_drawOracle (k : Nat) (s : State) : getCore (drawOracle s).2 k = getCore s k := by
  unfold drawOracle; split <;> rfl

theorem getCore_updCoreAt (k j : Nat) (f : Core → Core) (s : State) :
    getCore (updCoreAt k f s) j = if j = k then f (getCore s k) else getCore s j := getCore_setCore ..

/-- A change of a core that keeps its context keeps every context. -/
theorem ctx_updCoreAt {f : Core → Core} (h : ∀ c, (f c).ctx = c.ctx) (k j : Nat) (s : State) :
    (getCore (updCoreAt k f s) j).ctx = (getCore s j).ctx := by
  rw [getCore_updCoreAt]; split
  · rename_i hj; rw [h, hj]
  · rfl

/-- An aperture with a new calibration of the firmware's in force. -/
def recalibrated (y : Aperture) : Aperture :=
  { y with own := y.own + 1, lent := none, tref := y.temp, epoch := y.epoch + 1, granted := 0, recal := false }

theorem exec_firmwareRecalibration (a : Nat) (s : State) :
    exec (.firmwareRecalibration a) s = execFirmwareRecalibration a s := by rfl

/-- A recalibration that may begin now puts a new calibration in force; besides, it makes the holder wait, which leaves
its context as it was. -/
theorem exec_firmwareRecalibration_allowed {s : State} {a : Nat} (h : recalAllowed s a = true) :
    ∃ u, exec (.firmwareRecalibration a) s = .next (updAperture a recalibrated u)
      ∧ getAperture u a = getAperture s a ∧ ∀ k, (getCore u k).ctx = (getCore s k).ctx := by
  rw [exec_firmwareRecalibration, execFirmwareRecalibration, h]
  refine ⟨_, rfl, ?_⟩
  split
  · refine ⟨getAperture_drawOracle a s, fun k =>
      (ctx_updCoreAt ?keeps ..).trans (congrArg Core.ctx (getCore_drawOracle k s))⟩
    case keeps => exact fun _ => rfl
  · exact ⟨getAperture_drawOracle a s, fun k => congrArg Core.ctx (getCore_drawOracle k s)⟩

/-- One that may not begin waits, unless the aperture is held by a calibration of its own. -/
theorem exec_firmwareRecalibration_waits {s : State} {a : Nat} (h : recalAllowed s a = false) :
    exec (.firmwareRecalibration a) s = .next (updAperture a (fun y => { y with recal := y.cal.isNone }) s) := by
  rw [exec_firmwareRecalibration, execFirmwareRecalibration, h]; rfl

/-! ## Fold maps and hot plies (R14, R17, R125, R411) -/

/-- What a fold map of class `cls` does to a core, of which the plies `live` pass (R14, R17, R125). -/
def refolded (live : Nat) (cls : BitVec 8) (c : Core) : Core :=
  if c.resident then c
  else if live = 0 then { c with inService := false, hotPlies := 0 }
  else { c with fold := foldClassOf live (halfOf cls), inService := true, hotPlies := 0 }

theorem exec_foldMapChange (k : Nat) (cls : BitVec 8) (s : State) :
    exec (.foldMapChange k cls) s =
      .next (updCoreAt k (refolded (liveOf (cls &&& (getDie s (k / 16)).plymask.setWidth 8)) cls) s) := by rfl

theorem refolded_resident {live : Nat} {cls : BitVec 8} {c : Core} (h : c.resident = true) :
    refolded live cls c = c := if_pos h
theorem refolded_live {live : Nat} {cls : BitVec 8} {c : Core} (h : c.resident = false) (hl : live ≠ 0) :
    refolded live cls c = { c with fold := foldClassOf live (halfOf cls), inService := true, hotPlies := 0 } := by
  simp [refolded, h, hl]
theorem refolded_dead {cls : BitVec 8} {c : Core} (h : c.resident = false) :
    refolded 0 cls c = { c with inService := false, hotPlies := 0 } := by simp [refolded, h]

/-- A core on which one more ply counts as throttled. -/
def withHotPly (ply : Nat) (c : Core) : Core := { c with hotPlies := c.hotPlies ||| BitVec.ofNat 4 (2 ^ ply) }

theorem exec_logicPlyJunctionLimit (d ply : Nat) (s : State) :
    exec (.logicPlyJunctionLimit d ply) s =
      .next ((coresOf d).foldl (fun s k => updCoreAt k (withHotPly ply) s) s) := by rfl

theorem mem_coresOf {d k : Nat} : k ∈ coresOf d ↔ ∃ i, i < 16 ∧ 16 * d + i = k := by simp [coresOf]

theorem coresOf_nodup (d : Nat) : (coresOf d).Nodup :=
  List.nodup_range.map fun i j h => by simpa using h

/-- A change of each of some cores changes those cores alone, once each. -/
theorem getCore_foldl_updCoreAt (f : Core → Core) {l : List Nat} (hl : l.Nodup) (s : State) (j : Nat) :
    getCore (l.foldl (fun s k => updCoreAt k f s) s) j = if j ∈ l then f (getCore s j) else getCore s j :=
  foldl_pointwise getCore (f := fun _ => f) (fun s k j => getCore_updCoreAt k j f s) hl s j

/-! ## The power cap (R410) -/

/-- Cores may have been asked to leave and lost plies; neither what is resident on them nor the hub has
changed. -/
structure OnlyAsked (s t : State) : Prop where
  resident : ∀ j, (getCore t j).resident = (getCore s j).resident
  ctx : ∀ j, (getCore t j).ctx = (getCore s j).ctx
  preempt : ∀ j, (getCore s j).preempt = true → (getCore t j).preempt = true
  fw : t.fw = s.fw

theorem OnlyAsked.refl (s : State) : OnlyAsked s s := ⟨fun _ => rfl, fun _ => rfl, fun _ => id, rfl⟩

theorem OnlyAsked.trans {s t u : State} (h : OnlyAsked s t) (h' : OnlyAsked t u) : OnlyAsked s u :=
  ⟨fun j => (h'.resident j).trans (h.resident j), fun j => (h'.ctx j).trans (h.ctx j),
    fun j hj => h'.preempt j (h.preempt j hj), h'.fw.trans h.fw⟩

theorem onlyAsked_updCoreAt {f : Core → Core} (hr : ∀ c, (f c).resident = c.resident) (hc : ∀ c, (f c).ctx = c.ctx)
    (hp : ∀ c, c.preempt = true → (f c).preempt = true) (k : Nat) (s : State) : OnlyAsked s (updCoreAt k f s) := by
  refine ⟨fun j => ?_, fun j => ctx_updCoreAt hc k j s, fun j hj => ?_, rfl⟩ <;> rw [getCore_updCoreAt] <;> split
  · rename_i hj; rw [hr, hj]
  · rfl
  · rename_i h; exact hp _ (h ▸ hj)
  · exact hj

theorem onlyAsked_foldl {step : State → Nat → State} (h : ∀ s k, OnlyAsked s (step s k)) (l : List Nat) (s : State) :
    OnlyAsked s (l.foldl step s) := by
  induction l generalizing s with
  | nil => exact .refl s
  | cons k l ih => exact (h s k).trans (ih _)

/-- Where each step only asks, a core that its own step asks has been asked at the end. -/
theorem preempt_foldl {step : State → Nat → State} (h : ∀ s k, OnlyAsked s (step s k)) {l : List Nat} {k : Nat}
    (hk : k ∈ l) (s : State) (hstep : ∀ u, OnlyAsked s u → (getCore (step u k) k).preempt = true) :
    (getCore (l.foldl step s) k).preempt = true := by
  obtain ⟨before, after, rfl⟩ := List.append_of_mem hk
  rw [List.foldl_append, List.foldl_cons]
  exact (onlyAsked_foldl h after _).preempt k (hstep _ (onlyAsked_foldl h before s))

/-- The request that reaches one core (R383). -/
def asked (c : Core) : Core := if c.resident then { c with preempt := true } else c

theorem asked_eq (c : Core) : asked c = { c with preempt := if c.resident then true else c.preempt } := by
  unfold asked; split <;> rfl

theorem onlyAsked_asked (k : Nat) (s : State) : OnlyAsked s (updCoreAt k asked s) :=
  onlyAsked_updCoreAt (fun c => by rw [asked_eq]) (fun c => by rw [asked_eq]) (fun c h => by simp [asked_eq, h]) k s

theorem requestPreempt_eq (k : Nat) (s : State) :
    requestPreempt k s = (leavingWith s k).foldl (fun s j => updCoreAt j asked s) s := rfl

theorem onlyAsked_requestPreempt (k : Nat) (s : State) : OnlyAsked s (requestPreempt k s) :=
  onlyAsked_foldl (fun s j => onlyAsked_asked j s) _ s

/-- A request for a resident context reaches its own core. -/
theorem preempt_requestPreempt {k : Nat} {s : State} (h : (getCore s k).resident = true) :
    (getCore (requestPreempt k s) k).preempt = true := by
  rw [requestPreempt_eq]
  refine preempt_foldl (fun s j => onlyAsked_asked j s) (by simp [leavingWith]) s fun u hu => ?_
  rw [getCore_updCoreAt, if_pos rfl, asked, if_pos ((hu.resident k).trans h)]

/-- A core on which the highest ply is marked to go, where another stays live (R410). -/
def dropPly (c : Core) : Core := { c with hotPlies := c.hotPlies ||| plyToDrop c }

theorem onlyAsked_dropPly (k : Nat) (s : State) : OnlyAsked s (updCoreAt k dropPly s) :=
  onlyAsked_updCoreAt (f := dropPly) (fun _ => rfl) (fun _ => rfl) (fun _ h => h) k s

/-- A core of priority `p` loses a ply and is asked to leave (R410). -/
def lowerCore (p : Nat) (s : State) (k : Nat) : State :=
  let c := getCore s k
  if c.resident && c.ctx.prio.toNat == p then
    requestPreempt k (updCoreAt k dropPly s)
  else s

theorem onlyAsked_lowerCore (p : Nat) (s : State) (k : Nat) : OnlyAsked s (lowerCore p s k) := by
  unfold lowerCore; dsimp only; split
  · exact (onlyAsked_dropPly k s).trans (onlyAsked_requestPreempt k _)
  · exact .refl s

theorem preempt_lowerCore {p k : Nat} {s : State} (hr : (getCore s k).resident = true)
    (hp : (getCore s k).ctx.prio.toNat = p) : (getCore (lowerCore p s k) k).preempt = true := by
  unfold lowerCore; dsimp only
  rw [if_pos (by simp [hr, hp])]
  exact preempt_requestPreempt (((onlyAsked_dropPly k s).resident k).trans hr)

section
variable {s : State} {mw : Nat}

theorem exec_powerCapExceeded (mw : Nat) (s : State) :
    exec (.powerCapExceeded mw) s = execPowerCapExceeded mw s := by rfl

theorem exec_powerCapExceeded_below (h : mw ≤ s.fw.cap * 1000) :
    exec (.powerCapExceeded mw) s = .next { s with fw := { s.fw with overMs := 0 } } := by
  rw [exec_powerCapExceeded, execPowerCapExceeded, if_neg (Nat.not_lt.mpr h)]; rfl

theorem exec_powerCapExceeded_counts (h : s.fw.cap * 1000 < mw) (hn : s.fw.overMs < 9) :
    exec (.powerCapExceeded mw) s = .next { s with fw := { s.fw with overMs := s.fw.overMs + 1 } } := by
  rw [exec_powerCapExceeded, execPowerCapExceeded, if_pos h]
  exact if_pos (by omega)

theorem exec_powerCapExceeded_tenth (h : s.fw.cap * 1000 < mw) (hn : 9 ≤ s.fw.overMs) :
    exec (.powerCapExceeded mw) s = .next
      ((List.range 128).foldl (lowerCore (lowestPriority s)) { s with fw := { s.fw with overMs := 0 } }) := by
  rw [exec_powerCapExceeded, execPowerCapExceeded, if_pos h]
  exact if_neg (by omega)

end

/-! ## Thermal trip and package reset (R389, R411, R412) -/

/-- The thermal trip takes the power away, and the host link with it (R411). -/
theorem exec_thermalTrip (s : State) :
    exec .thermalTrip s = .next { s with powered := false, host := { s.host with up := false } } := by rfl

theorem exec_packageReset (s : State) : exec .packageReset s = execPackageReset s := by rfl

theorem get_resetDies (s : State) {d : Nat} (hd : d < 8) :
    KMap.get Die.reset (resetDies s) d = { Die.reset with plymask := (getDie s d).plymask } :=
  (foldl_pointwise (KMap.get Die.reset) (f := fun d _ => { Die.reset with plymask := (getDie s d).plymask })
    (fun m k j => KMap.get_set _ m k j _) List.nodup_range _ d).trans (if_pos (List.mem_range.mpr hd))

/-- A core after a reset: the plies that passed their test are live (R17). -/
def bootedCore (plymask : BitVec 4) : Core :=
  { Core.reset with fold := foldClassOf plymask.toNat 0, inService := plymask.toNat != 0 }

theorem get_resetCores (s : State) {k : Nat} (hk : k < 128) :
    KMap.get Core.reset (resetCores s) k = { Core.reset with
      fold := foldClassOf (getDie s (k / 16)).plymask.toNat 0
      inService := decide ((getDie s (k / 16)).plymask ≠ 0) } := by
  have hlive : ((getDie s (k / 16)).plymask.toNat != 0) = decide ((getDie s (k / 16)).plymask ≠ 0) := by
    rw [Bool.eq_iff_iff]; simp [BitVec.toNat_eq]
  rw [← hlive]
  exact (foldl_pointwise (KMap.get Core.reset) (f := fun k _ => bootedCore (getDie s (dieOf k)).plymask)
    (fun m k j => KMap.get_set _ m k j _) List.nodup_range _ k).trans (if_pos (List.mem_range.mpr hk))

/-! ## What each of these events leaves (R125, R309, R410, R411) -/

section
variable {s : State}

theorem recalibration_effect {a : Nat} (h : recalAllowed s a = true) :
    ∃ t, exec (.firmwareRecalibration a) s = .next t
      ∧ (getAperture t a).epoch = (getAperture s a).epoch + 1 ∧ (getAperture t a).granted = 0
      ∧ (getAperture t a).recal = false ∧ (getAperture t a).tref = (getAperture s a).temp
      ∧ (getAperture t a).own = (getAperture s a).own + 1 ∧ (getAperture t a).lent = none
      ∧ ∀ k, (getCore t k).ctx = (getCore s k).ctx := by
  obtain ⟨u, hexec, hap, hctx⟩ := exec_firmwareRecalibration_allowed h
  refine ⟨_, hexec, ?_⟩
  rw [getAperture_updAperture_same, hap]
  exact ⟨rfl, rfl, rfl, rfl, rfl, rfl, hctx⟩

theorem recalibration_waits {a : Nat} (h : recalAllowed s a = false) (hcal : (getAperture s a).cal = none) :
    ∃ t, exec (.firmwareRecalibration a) s = .next t ∧ (getAperture t a).recal = true
      ∧ (getAperture t a).epoch = (getAperture s a).epoch ∧ t.cores = s.cores := by
  refine ⟨_, exec_firmwareRecalibration_waits h, ?_⟩
  rw [getAperture_updAperture_same, hcal]
  exact ⟨rfl, rfl, rfl⟩

theorem foldMapChange_live {k live : Nat} {cls : BitVec 8} (hres : (getCore s k).resident = false)
    (hlive : live = liveOf (cls &&& (getDie s (k / 16)).plymask.setWidth 8)) (hl : live ≠ 0) :
    ∃ t, exec (.foldMapChange k cls) s = .next t ∧ (getCore t k).inService = true
      ∧ (getCore t k).fold = foldClassOf live (halfOf cls) ∧ ∀ j, j ≠ k → getCore t j = getCore s j := by
  refine ⟨_, exec_foldMapChange k cls s, ?_⟩
  rw [← hlive, getCore_updCoreAt, if_pos rfl, refolded_live hres hl]
  exact ⟨rfl, rfl, fun j hj => by rw [getCore_updCoreAt, if_neg hj]⟩

theorem foldMapChange_dead {k : Nat} {cls : BitVec 8} (hres : (getCore s k).resident = false)
    (hlive : liveOf (cls &&& (getDie s (k / 16)).plymask.setWidth 8) = 0) :
    ∃ t, exec (.foldMapChange k cls) s = .next t ∧ (getCore t k).inService = false
      ∧ (getCore t k).fold = (getCore s k).fold := by
  refine ⟨_, exec_foldMapChange k cls s, ?_⟩
  rw [hlive, getCore_updCoreAt, if_pos rfl, refolded_dead hres]
  exact ⟨rfl, rfl⟩

theorem foldMapChange_resident {k : Nat} {cls : BitVec 8} (hres : (getCore s k).resident = true) :
    ∃ t, exec (.foldMapChange k cls) s = .next t ∧ ∀ j, getCore t j = getCore s j := by
  refine ⟨_, exec_foldMapChange k cls s, fun j => ?_⟩
  rw [getCore_updCoreAt, refolded_resident hres]
  split
  · rename_i hj; rw [hj]
  · rfl

theorem junctionLimit_effect (s : State) (d ply : Nat) :
    ∃ t, exec (.logicPlyJunctionLimit d ply) s = .next t
      ∧ (∀ i, i < 16 →
        (getCore t (16 * d + i)).hotPlies = (getCore s (16 * d + i)).hotPlies ||| BitVec.ofNat 4 (2 ^ ply)
        ∧ (getCore t (16 * d + i)).fold = (getCore s (16 * d + i)).fold)
      ∧ ∀ k, (∀ i, i < 16 → k ≠ 16 * d + i) → getCore t k = getCore s k := by
  have hcore := getCore_foldl_updCoreAt (withHotPly ply) (coresOf_nodup d) s
  refine ⟨_, exec_logicPlyJunctionLimit d ply s, fun i hi => ?_, fun k hk => ?_⟩
  · rw [hcore, if_pos (mem_coresOf.mpr ⟨i, hi, rfl⟩)]
    exact ⟨rfl, rfl⟩
  · rw [hcore, if_neg fun hmem => ?_]
    obtain ⟨i, hi, rfl⟩ := mem_coresOf.mp hmem
    exact hk i hi rfl

/-- The tenth millisecond above the cap asks every context of the lowest priority to leave. -/
theorem powerCap_tenth {mw : Nat} (h : s.fw.cap * 1000 < mw) (hn : 9 ≤ s.fw.overMs) :
    ∃ t, exec (.powerCapExceeded mw) s = .next t ∧ t.fw.overMs = 0
      ∧ ∀ k, k < 128 → (getCore s k).resident = true → (getCore s k).ctx.prio.toNat = lowestPriority s →
        (getCore t k).preempt = true := by
  refine ⟨_, exec_powerCapExceeded_tenth h hn, ?_, fun k hk hres hprio => ?_⟩
  · rw [(onlyAsked_foldl (onlyAsked_lowerCore _) _ _).fw]
  · refine preempt_foldl (onlyAsked_lowerCore _) (List.mem_range.mpr hk) _ fun u hu => ?_
    exact preempt_lowerCore ((hu.resident k).trans hres) ((congrArg (·.prio.toNat) (hu.ctx k)).trans hprio)

end

/-- Settles O35: what each event of the package's firmware, of its hub and of its reset does, one lemma for each. -/
theorem powerAndReset : Obligations.PowerAndReset := by
  unfold Obligations.PowerAndReset
  refine ⟨fun s a h => recalibration_effect h, fun s a h hcal => recalibration_waits h hcal,
    fun s k cls live hres hlive => ⟨foldMapChange_live hres hlive, fun hl => foldMapChange_dead hres (hlive ▸ hl)⟩,
    fun s k cls hres => foldMapChange_resident hres, fun s d ply _ => junctionLimit_effect s d ply,
    fun s mw => ⟨fun h hn => ?_, fun h => ?_, fun h hn => powerCap_tenth h hn⟩, fun s => ?_, fun s => ?_⟩
  · exact ⟨_, exec_powerCapExceeded_counts h hn, rfl, rfl⟩
  · exact ⟨_, exec_powerCapExceeded_below h, rfl, rfl⟩
  · exact ⟨_, exec_thermalTrip s, rfl, rfl, rfl⟩
  · exact ⟨_, exec_packageReset s, rfl, fun k hk => get_resetCores s hk, fun d hd => get_resetDies s hd, rfl, rfl, rfl,
      rfl, rfl, rfl, rfl, rfl, rfl, rfl, rfl, rfl, rfl, rfl, rfl, rfl, rfl, rfl, rfl, rfl, rfl⟩

end Sys2Proof.Machine
end

section
/-! PROOFS of the statements about code lines and encodings (chapter 3): the fields of a word and what the decoder
refuses. -/

namespace Sys2Proof

/-! ## Fields of bit vectors and bytes in their order (R4, R7) -/

theorem bitsAt_eq {n : Nat} (x : BitVec n) (lo w : Nat) : bitsAt x lo w = x.toNat / 2 ^ lo % 2 ^ w := by
  rw [bitsAt, BitVec.extractLsb'_toNat, Nat.shiftRight_eq_div_pow]

/-- The low field of a bit vector replaced. -/
theorem toNat_putBits_zero {n w : Nat} (h : w ≤ n) (x : BitVec n) (v : Nat) :
    (putBits x 0 w v).toNat = x.toNat / 2 ^ w * 2 ^ w + v % 2 ^ w := by
  have hhigh : x &&& ~~~BitVec.ofNat n (2 ^ w - 1) = (x >>> w) <<< w := by
    refine BitVec.eq_of_getLsbD_eq fun i hi => ?_
    simp only [BitVec.getLsbD_and, BitVec.getLsbD_not, BitVec.getLsbD_ofNat, BitVec.getLsbD_shiftLeft,
      BitVec.getLsbD_ushiftRight, Nat.testBit_two_pow_sub_one]
    by_cases hw : i < w
    · simp [hw, hi]
    · simp [hw, hi, Nat.add_sub_of_le (Nat.le_of_not_lt hw)]
  have hle : x.toNat / 2 ^ w * 2 ^ w < 2 ^ n := (Nat.div_mul_le_self _ _).trans_lt x.isLt
  have hlow : v % 2 ^ w < 2 ^ n := (Nat.mod_lt _ (Nat.two_pow_pos w)).trans_le (Nat.pow_le_pow_right Nat.two_pos h)
  unfold putBits
  rw [Nat.pow_zero, Nat.mul_one, Nat.mul_one, BitVec.toNat_or, hhigh, BitVec.toNat_shiftLeft,
    BitVec.toNat_ushiftRight, BitVec.toNat_ofNat, Nat.shiftRight_eq_div_pow, Nat.shiftLeft_eq, Nat.mod_eq_of_lt hle,
    Nat.mod_eq_of_lt hlow, Nat.mul_comm, Nat.two_pow_add_eq_or_of_lt (Nat.mod_lt _ (Nat.two_pow_pos w))]

theorem toNat_mod_two_pow {n m : Nat} (h : n ≤ m) (x : BitVec n) : x.toNat % 2 ^ m = x.toNat :=
  Nat.mod_eq_of_lt (x.isLt.trans_le (Nat.pow_le_pow_right Nat.two_pos h))

theorem leBytes_take {m n : Nat} (h : m ≤ n) (v : Nat) : (leBytes n v).take m = leBytes m v := by
  induction m generalizing n v with
  | zero => rfl
  | succ m ih =>
    obtain ⟨n, rfl⟩ : ∃ k, n = k + 1 := ⟨n - 1, by omega⟩
    rw [leBytes, List.take_succ_cons, ih (by omega), leBytes]

theorem leBytes_drop {m n : Nat} (h : m ≤ n) (v : Nat) : (leBytes n v).drop m = leBytes (n - m) (v / 256 ^ m) := by
  induction m generalizing n v with
  | zero => simp
  | succ m ih =>
    obtain ⟨n, rfl⟩ : ∃ k, n = k + 1 := ⟨n - 1, by omega⟩
    rw [leBytes, List.drop_succ_cons, ih (by omega), Nat.add_sub_add_right, Nat.div_div_eq_div_mul, Nat.pow_succ']

/-- Enough bytes of a bit vector give its value back. -/
theorem ofLeBytes_leBytes_toNat {n k : Nat} (h : n ≤ 8 * k) (x : BitVec n) :
    ofLeBytes (leBytes k x.toNat) = x.toNat := by
  rw [ofLeBytes_leBytes, show (256 : Nat) = 2 ^ 8 from rfl, ← pow_mul, toNat_mod_two_pow h]

/-- The word at the head of little-endian bytes is the low 32 bits of their value. -/
theorem wordOf_leBytes {n : Nat} (h : 4 ≤ n) (v : Nat) : wordOf (leBytes n v) = BitVec.ofNat 32 v := by
  rw [wordOf, leBytes_take h, ofLeBytes_leBytes]
  exact BitVec.eq_of_toNat_eq (by simp)

/-! ## The fields that name an operation (R48) -/

section
variable (w : IWord)

theorem opcF_eq : opcF w = w.toNat / 2 ^ 25 := by
  have h := bitsAt_eq w 25 7
  have := w.isLt
  exact h.trans (Nat.mod_eq_of_lt (by omega))
theorem fnF_eq : fnF w = w.toNat / 2 ^ 4 % 2 ^ 6 := bitsAt_eq w 4 6
theorem condF_eq : condF w = w.toNat / 2 ^ 21 % 2 ^ 4 := bitsAt_eq w 21 4
theorem amoF_eq : amoF w = w.toNat / 2 ^ 5 % 2 ^ 3 := bitsAt_eq w 5 3

end

/-! ## What the decoder reads from a word, a pair and a line (R45, R46) -/

section
variable {w lit : IWord}

/-- A word that starts neither a line nor a pair is decoded by itself. -/
theorem decodeTableWord_word (hm : isRecordMark w = false) (hl : isFormL w = false) :
    decodeTableWord 32 w.toNat = (decodeWord w 0).toOption := by
  have hw : wordOf (tableBytes 32 w.toNat) = w := by
    rw [tableBytes, wordOf_leBytes (by decide), toNat_mod_two_pow (le_refl 32), BitVec.ofNat_toNat, BitVec.setWidth_eq]
  have hlen : ¬ (tableBytes 32 w.toNat).length < 4 := by simp [tableBytes]
  unfold decodeTableWord decode
  simp only [hlen, hw, hm, hl, if_false, Bool.false_eq_true]
  cases decodeWord w 0 <;> rfl

/-- The first word of a pair is decoded with the second. -/
theorem decodeTableWord_pair (hm : isRecordMark w = false) (hl : isFormL w = true) :
    decodeTableWord 64 (lit ++ w).toNat = (decodeWord w lit).toOption := by
  have hv : (lit ++ w).toNat % 2 ^ 64 = lit.toNat * 2 ^ 32 + w.toNat := by
    rw [toNat_mod_two_pow (le_refl 64), BitVec.toNat_append, Nat.shiftLeft_eq, Nat.mul_comm,
      Nat.two_pow_add_eq_or_of_lt w.isLt]
  have hw : wordOf (tableBytes 64 (lit ++ w).toNat) = w := by
    rw [tableBytes, wordOf_leBytes (by decide), hv]
    exact BitVec.eq_of_toNat_eq (by simp only [BitVec.toNat_ofNat]; omega)
  have hlit : wordOf ((tableBytes 64 (lit ++ w).toNat).drop 4) = lit := by
    rw [tableBytes, leBytes_drop (by decide), wordOf_leBytes (by decide), hv]
    exact BitVec.eq_of_toNat_eq (by simp only [BitVec.toNat_ofNat]; omega)
  have hlen : (tableBytes 64 (lit ++ w).toNat).length = 64 := by simp [tableBytes]
  unfold decodeTableWord decode
  simp only [hlen, hw, hlit, hm, hl, if_false, if_true, Bool.false_eq_true, Nat.reduceLT]
  cases decodeWord w lit <;> rfl

/-- A line whose word 0 is the record mark is a record. -/
theorem decodeTableWord_line {n : Nat} (hn : n ≤ 512) {x : BitVec n}
    (hm : isRecordMark (BitVec.ofNat 32 x.toNat) = true) :
    decodeTableWord 512 x.toNat = some (.recordForward (BitVec.ofNat 512 x.toNat)) := by
  have hb : tableBytes 512 x.toNat = leBytes 64 x.toNat := by rw [tableBytes, toNat_mod_two_pow hn]
  unfold decodeTableWord decode
  simp only [hb, leBytes_length, leBytes_take (le_refl 64), wordOf_leBytes (show 4 ≤ 64 by decide), hm,
    ofLeBytes_leBytes_toNat (k := 64) hn, if_true, if_false, Nat.reduceLT]

/-! ## The groups of the decoder (R50 to R54) -/

theorem decodeWord_int (h : opcF w = 0x01) : decodeWord w lit = decodeInt w := by simp only [decodeWord, h]
theorem decodeWord_amo (h : opcF w = 0x28) : decodeWord w lit = decodeAmo w := by simp only [decodeWord, h]
theorem decodeWord_b (h : opcF w = 0x31) : decodeWord w lit = decodeB w := by simp only [decodeWord, h]
theorem decodeWord_fence (h : opcF w = 0x45) : decodeWord w lit = decodeFence lit := by simp only [decodeWord, h]
theorem decodeWord_tape (h : opcF w = 0x48) : decodeWord w lit = decodeTape w := by simp only [decodeWord, h]

/-! ## Words that the decoder refuses, each by its reason (R50 to R54, R56) -/

/-- Every major that has a row of its own in the decoder is one that R50 assigns. -/
theorem decodeWord_unassigned (h : Machine.majorAssigned (opcF w) = false) :
    decodeWord w lit = .error .unassignedMajor := by
  unfold decodeWord
  split
  case h_78 => rfl
  all_goals
    rename_i hm
    exact absurd (hm ▸ h) (by decide)

theorem decodeWord_int_unassigned (h : opcF w = 0x01) (hf : 0x19 ≤ fnF w) :
    decodeWord w lit = .error .unassignedFn := by
  rw [decodeWord_int h, decodeInt]
  split <;> simp_all

/-- The group of LEA, MADD and SEL. -/
theorem decodeWord_lea_unassigned (h : opcF w = 0x02) (hf : 6 ≤ fnF w) : decodeWord w lit = .error .unassignedFn := by
  simp only [decodeWord, h]
  split <;> simp_all

/-- The literal pairs LIW and LIH. -/
theorem decodeWord_literal_unassigned (h : opcF w = 0x10) (hf : 2 ≤ fnF w) :
    decodeWord w lit = .error .unassignedFn := by
  simp only [decodeWord, h]
  split <;> simp_all

theorem decodeWord_amo_illegal (h : opcF w = 0x28) (ho : amoF w = 7) : decodeWord w lit = .error .illegalOperation := by
  simp only [decodeWord_amo h, decodeAmo, ho]

theorem decodeWord_cas_illegal (h : opcF w = 0x29) (ho : amoF w ≠ 0) : decodeWord w lit = .error .illegalOperation := by
  simp only [decodeWord, h, if_neg ho]

theorem decodeWord_b_illegal (h : opcF w = 0x31) (hc : 9 ≤ condF w) : decodeWord w lit = .error .illegalCondition := by
  rw [decodeWord_b h, decodeB]
  split <;> simp_all

theorem decodeWord_fence_illegal (h : opcF w = 0x45) (hk : bitsAt lit 18 2 = 3) :
    decodeWord w lit = .error .fenceKind := by
  simp only [decodeWord_fence h, decodeFence, hk]

theorem decodeWord_tape_unassigned (h : opcF w = 0x48) (hf : 6 ≤ fnF w) : decodeWord w lit = .error .unassignedFn := by
  rw [decodeWord_tape h, decodeTape]
  split <;> simp_all

/-! ## What is refused decodes to nothing -/

section
variable {e : Reject}

theorem decodeTableWord_word_none (hm : opcF w ≠ 0x7F) (hl : opcF w ≠ 0x10 ∧ opcF w ≠ 0x45)
    (h : decodeWord w 0 = .error e) : decodeTableWord 32 w.toNat = none := by
  rw [decodeTableWord_word (by simpa [isRecordMark]) (by simpa [isFormL]), h]
  rfl

theorem decodeTableWord_pair_none (hl : opcF w = 0x10 ∨ opcF w = 0x45) (h : decodeWord w lit = .error e) :
    decodeTableWord 64 (lit ++ w).toNat = none := by
  rw [decodeTableWord_pair (by rcases hl with hl | hl <;> simp [isRecordMark, hl]) (by simpa [isFormL]), h]
  rfl

end
end

/-- Settles O54: the words written out decode by computation; of the others, each is refused by the group that its
major names, and each unassigned major by the decoder itself. -/
theorem Machine.decodeWords : Obligations.DecodeWords := by
  unfold Obligations.DecodeWords
  simp only [← opcF_eq, ← fnF_eq, ← condF_eq, ← amoF_eq]
  refine ⟨by decide, by decide, by decide, by decide, by decide, by decide, by decide, by decide, by decide, ?line,
    fun w h => ?major, fun w hm hf => ?int, fun w hm hf => ?leaOrTape, fun w lit hm hf => ?literal,
    fun w hm hc => ?cond, fun w hm ho => ?amo, fun w hm ho => ?cas, fun w lit hm hk => ?fence⟩
  case line => exact decodeTableWord_line (x := 0x7F#7 ++ 5#25) (by decide) (by decide)
  case major =>
    have hne (m : Nat) (hm : majorAssigned m = true) : opcF w ≠ m := fun he => by rw [he, hm] at h; cases h
    exact decodeTableWord_word_none (hne _ (by decide)) ⟨hne _ (by decide), hne _ (by decide)⟩
      (decodeWord_unassigned h)
  case int => exact decodeTableWord_word_none (by simp [hm]) (by simp [hm]) (decodeWord_int_unassigned hm hf)
  case leaOrTape =>
    rcases hm with hm | hm
    · exact decodeTableWord_word_none (by simp [hm]) (by simp [hm]) (decodeWord_lea_unassigned hm hf)
    · exact decodeTableWord_word_none (by simp [hm]) (by simp [hm]) (decodeWord_tape_unassigned hm hf)
  case literal => exact decodeTableWord_pair_none (.inl hm) (decodeWord_literal_unassigned hm hf)
  case cond => exact decodeTableWord_word_none (by simp [hm]) (by simp [hm]) (decodeWord_b_illegal hm hc)
  case amo => exact decodeTableWord_word_none (by simp [hm]) (by simp [hm]) (decodeWord_amo_illegal hm ho)
  case cas => exact decodeTableWord_word_none (by simp [hm]) (by simp [hm]) (decodeWord_cas_illegal hm ho)
  case fence =>
    exact decodeTableWord_pair_none (.inr hm) (decodeWord_fence_illegal hm ((bitsAt_eq lit 18 2).trans hk))

end Sys2Proof
end

section
/-! PROOFS of the statements about code lines and encodings (chapter 3): the step that a fetched word is. -/

namespace Sys2Proof.Machine

/-! ## The signature takes bytes alone (R40) -/

/-- Folding bytes into the signature changes the segment's CRC and nothing else of the context. -/
theorem curCtx_foldSignature (n : Nat) (s : State) :
    ∃ crc, curCtx (foldSignature n s) = { curCtx s with seg := { (curCtx s).seg with crc := crc } } := by
  unfold foldSignature
  dsimp only
  split
  · exact ⟨(curCtx s).seg.crc, rfl⟩
  · exact ⟨_, curCtx_updSeg _ _⟩

section
variable (n : Nat) (s : State)

@[simp] theorem foldSignature_inShadow : (curCtx (foldSignature n s)).inShadow = (curCtx s).inShadow := by
  obtain ⟨crc, h⟩ := curCtx_foldSignature n s
  rw [h]

@[simp] theorem pcOf_foldSignature : pcOf (foldSignature n s) = pcOf s := by
  obtain ⟨crc, h⟩ := curCtx_foldSignature n s
  unfold pcOf; rw [h]; rfl

@[simp] theorem inStore_foldSignature (pc : Word) : inStore (curCtx (foldSignature n s)) pc = inStore (curCtx s) pc := by
  obtain ⟨crc, h⟩ := curCtx_foldSignature n s
  rw [h]; rfl

end

/-! ## The fetch (R45, R46, R56) -/

section
variable {s : State}

theorem fetch_word {i : Instr} {rest : List Byte} (hpc : pcInStore s = true)
    (hd : decode (fetchBytes s) = .ok (i, rest)) :
    fetch s = .word i ((fetchBytes s).length - rest.length)
      (foldSignature ((fetchBytes s).length - rest.length) s) := by
  unfold fetch; simp [hpc, hd]

theorem fetch_illegal {e : Reject} (hpc : pcInStore s = true) (hd : decode (fetchBytes s) = .error e) :
    fetch s = .illegal 0x00 s := by
  unfold fetch; simp [hpc, hd]

theorem fetch_outside (hpc : pcInStore s = false) : fetch s = .illegal 0x02 s := by
  unfold fetch; simp [hpc]

/-! ## The step is what the fetch brings (R23, R366) -/

/-- With nothing before it in the cycle, the word at the program counter is the next step. -/
theorem WordIsNext.step {k : Nat} (h : WordIsNext s k) : step s = perform (fetch (focus k s)) := by
  have hword : coreWord s = some (fetch (focus k s)) := by unfold coreWord; rw [h.word]
  have hcore : nextCore s = some (fetch (focus k s)) := by
    have hev := h.events
    simp only [List.forall_mem_cons] at hev
    unfold nextCore firstOf
    simp [hev, h.landings, hword]
  have hnext : nextAction s = fetch (focus k s) := by
    unfold nextAction firstOf
    simp [h.outside, h.firmware, h.timers, hcore]
  unfold Machine.step
  rw [h.powered, if_pos rfl, hnext]

/-- Where a word has gone on, its own fall-through off the instruction store raises fetch-bounds instead (R46). -/
theorem perform_word {i : Instr} {n : Nat} {t : State} (ht : exec i (foldSignature n s) = .next t) :
    perform (.word i n (foldSignature n s)) =
      if (curCtx t).inShadow = (curCtx s).inShadow ∧ (curCore t).resident = true
          ∧ inStore (curCtx s) (pcOf s + BitVec.ofNat 64 n) = false
          ∧ (pcOf t = pcOf s + BitVec.ofNat 64 n ∨ (pcOf t = pcOf s ∧ (curCtx t).wait ≠ .none))
        then raise 0x02 0 (foldSignature n s) else .next t := by
  simp only [perform, ht, afterWord, pcOf_foldSignature, foldSignature_inShadow, inStore_foldSignature,
    Bool.not_eq_true']

end

/-- Settles O55: the step performs the fetch, which brings the decoded word, or the cause of what is none. -/
theorem stepRunsDecoded : Obligations.StepRunsDecoded := by
  unfold Obligations.StepRunsDecoded
  intro s k hnext
  refine ⟨fun i rest n after t hpc hd hn hafter ht => ?_, fun e hpc hd => ?_, fun hpc => ?_⟩
  · subst hafter
    rw [hnext.step, fetch_word hpc hd, ← hn, perform_word ht]
  · rw [hnext.step, fetch_illegal hpc hd]; rfl
  · rw [hnext.step, fetch_outside hpc]; rfl

end Sys2Proof.Machine
end

section
/-! PROOFS of the statements about code lines and encodings (chapter 3): LOOPW, LEAVE and the words that do nothing. -/

namespace Sys2Proof.Machine

/-! ## Words under way: of the package only the running registers and the control core's timing change -/

theorem OnlyFocus.symm {s t : State} (h : OnlyFocus s t) : OnlyFocus t s := by
  refine ⟨?_, fun k hk => (h.2 k (h.cur ▸ hk)).symm⟩
  conv_rhs => rw [h.1]

/-- A word has changed nothing but the running register set and the control core's own timing. -/
structure Touched (s u : State) : Prop where
  focus : OnlyFocus s u
  core : OnlyControl (curCore s) (curCore u)
  ctx : OnlyRegs (curCtx s) (curCtx u)

theorem Touched.refl (s : State) : Touched s s := ⟨.refl s, .refl _, .refl _⟩

section
variable {s u v : State}

theorem Touched.trans (h : Touched s u) (h' : Touched u v) : Touched s v :=
  ⟨h.focus.trans h'.focus, h.core.trans h'.core, h.ctx.trans h'.ctx⟩

theorem Touched.clk (h : Touched s u) : clk u = clk s := by
  have htempo : u.tempo = s.tempo := (congrArg State.tempo h.focus.1).trans rfl
  have hctime : (curCore u).ctime = (curCore s).ctime := (congrArg Core.ctime h.core).trans rfl
  unfold Machine.clk now tempoNow
  rw [h.ctx.inShadow, htempo, hctime]

/-- A word that has also moved on, and set the cycle of the next, has retired. -/
theorem Retired.of_touched {next : Word} {cyc : Nat} (h : Touched s u) (hpc : pcOf u = next)
    (hissue : nextIssue u = Machine.clk s + cyc) : Retired s u next cyc :=
  ⟨h.focus, h.core, h.ctx, rfl, hpc, hissue, .of_focus h.focus ((congrArg Core.sp h.core).trans rfl)⟩

end

section
variable (s : State)

theorem touched_updRegs (f : Regs → Regs) : Touched s (updCtx (updRegs f) s) :=
  ⟨onlyFocus_updCtx _ s, by rw [curCore_updCtx]; rfl, by rw [curCtx_updCtx]; exact onlyRegs_updRegs f _⟩

theorem touched_writeP (p : BitVec 16) : Touched s (writeP p s) := touched_updRegs s _
theorem touched_setPc (pc : Word) : Touched s (setPc pc s) := touched_updRegs s _

theorem touched_setBusy (k lat : Nat) : Touched s (setBusy k lat s) :=
  ⟨onlyFocus_setBusy k lat s, by rw [curCore_setBusy]; rfl, by rw [curCtx_setBusy]; exact .refl _⟩

theorem touched_writeG (d : BitVec 5) (v : Word) : Touched s (writeG d v s) := by
  refine ⟨onlyFocus_writeG d v s, by rw [curCore_writeG]; rfl, ?_⟩
  rw [curCtx_writeG]; split
  · exact .refl _
  · exact (onlyRegs_updRegs _ _).trans (onlyRegs_noteWrite _ _)

theorem touched_setReady (cyc : Nat) : Touched s (setReady cyc s) := by
  refine ⟨onlyFocus_updCore _ s, ?_, by rw [curCtx_setReady]; exact .refl _⟩
  unfold setReady; rw [curCore_updCore]; split <;> rfl

theorem touched_retire (size cyc : Nat) : Touched s (retire size cyc s) :=
  (touched_updRegs s _).trans (touched_setReady _ cyc)

theorem nextIssue_setReady (cyc : Nat) : nextIssue (setReady cyc s) = clk s + cyc := by
  unfold nextIssue
  rw [curCtx_setReady]
  unfold setReady
  rw [curCore_updCore]
  by_cases h : (curCtx s).inShadow = true <;> simp [h, show (curCore s).ctx = curCtx s from rfl]

theorem nextIssue_updRegs (f : Regs → Regs) : nextIssue (updCtx (updRegs f) s) = nextIssue s := by
  unfold nextIssue; rw [curCtx_updCtx, curCore_updCtx, updRegs_inShadow]

theorem nextIssue_retire (size cyc : Nat) : nextIssue (retire size cyc s) = clk s + cyc := by
  unfold retire; rw [nextIssue_setReady, clk_updCtx_regs]

/-- The registers after a branch to `pc`. -/
theorem regs_branched (pc : Word) (cyc : Nat) :
    regs (curCtx (setPc pc (setReady cyc s))) = { regs (curCtx s) with pc := pc } := by
  unfold setPc; rw [curCtx_updCtx, regs_updRegs, curCtx_setReady]

theorem regs_retire (size cyc : Nat) :
    regs (curCtx (retire size cyc s)) = { regs (curCtx s) with pc := pcOf s + BitVec.ofNat 64 size } := by
  rw [curCtx_retire, regs_updRegs]; rfl

theorem regs_writeP (p : BitVec 16) : regs (curCtx (writeP p s)) = { regs (curCtx s) with p := p } := by
  unfold writeP; rw [curCtx_updCtx, regs_updRegs]

end

/-- Where the registers are those of another state but for the pc, so is what is read of them. -/
theorem reads_of_regs {u t : State} {pc : Word} (h : regs (curCtx t) = { regs (curCtx u) with pc := pc }) :
    pcOf t = pc ∧ readP t = readP u ∧ (∀ n, readG t n = readG u n) ∧ ∀ b, readBt t b = readBt u b := by
  unfold pcOf readP readG readBt
  rw [h]
  exact ⟨rfl, rfl, fun _ => rfl, fun _ => rfl⟩

/-! ## The window and the counter of LOOPW (R89) -/

section
variable (p : BitVec 16) (a : Word)

/-- A bit shifted into the window, cut to its stages, by plain arithmetic. -/
theorem shiftIn_eq_mod (x : Nat) {b k : Nat} (hb : b < 2) (hk : k < 16) :
    (x * 2 % 65536 ||| b) &&& (2 ^ (k + 1) - 1) % 65536 = (2 * x + b) % 2 ^ (k + 1) := by
  have hpow : 2 ^ (k + 1) ∣ 65536 := Nat.pow_dvd_pow 2 (show k + 1 ≤ 16 by omega)
  have hle := Nat.le_of_dvd (by decide) hpow
  have hor : (2 * x % 65536 ||| b) = 2 * x % 65536 + b := by
    rw [show 65536 = 2 * 32768 from rfl, Nat.mul_mod_mul_left]
    exact (Nat.two_pow_add_eq_or_of_lt (i := 1) hb _).symm
  rw [Nat.mod_eq_of_lt (a := 2 ^ (k + 1) - 1) (by omega), Nat.and_two_pow_sub_one_eq_mod, Nat.mul_comm, hor,
    Nat.add_mod, Nat.mod_mod_of_dvd _ hpow, ← Nat.add_mod]

theorem toNat_loopWindow : (loopWindow p a).1.toNat = loopWindowNat p a := by
  have hbit : (if 0 < a.toNat % 2 ^ 32 then 1#16 else 0#16).toNat = if a.toNat % 2 ^ 32 = 0 then 0 else 1 := by
    split
    · rw [if_neg (by omega)]; rfl
    · rw [if_pos (by omega)]; rfl
  unfold loopWindow loopWindowNat
  simp only [bitsAt_eq, BitVec.toNat_and, BitVec.toNat_or, BitVec.toNat_shiftLeft, BitVec.toNat_ofNat,
    Nat.shiftLeft_eq, Nat.pow_zero, Nat.div_one, hbit]
  exact shiftIn_eq_mod p.toNat (by split <;> decide) (Nat.mod_lt _ (by decide))

/-- The counter steps down to 0 and stays there. -/
theorem loopWindow_counter : (loopWindow p a).2 = if a.toNat % 2 ^ 32 = 0 then a else a - 1 := by
  unfold loopWindow
  simp only [bitsAt_eq, Nat.pow_zero, Nat.div_one]
  by_cases h : a.toNat % 2 ^ 32 = 0
  · rw [if_pos h, if_neg (by omega)]
  · rw [if_neg h, if_pos (by omega)]
    refine BitVec.eq_of_toNat_eq ?_
    rw [toNat_putBits_zero (by decide), BitVec.toNat_sub]
    simp only [BitVec.ofNat_eq_ofNat, BitVec.toNat_ofNat]
    omega

/-- A window that has run empty has taken no more from the counter. -/
theorem counter_of_loopWindowNat_zero {p : BitVec 16} {a : Word} (h : loopWindowNat p a = 0) :
    a.toNat % 2 ^ 32 = 0 := by
  by_contra hn
  unfold loopWindowNat at h
  rw [if_neg hn, Nat.pow_succ'] at h
  have hodd := congrArg (· % 2) h
  simp only [Nat.mod_mul_right_mod] at hodd
  omega

end

/-- The counter of a loop written back, where it has changed (R89). -/
def setCounter (a : BitVec 5) (v : Word) (s : State) : State :=
  if v = readG s a then s else setBusy a.toNat 1 (writeG a v s)

section
variable (s : State) (a : BitVec 5) (v : Word)

theorem touched_setCounter : Touched s (setCounter a v s) := by
  unfold setCounter; split
  · exact .refl s
  · exact (touched_writeG s a v).trans (touched_setBusy _ _ _)

theorem regs_setCounter : regs (curCtx (setCounter a v s)) =
    if v = readG s a then regs (curCtx s) else Regs.write a.toNat v (regs (curCtx s)) := by
  unfold setCounter; split
  · rfl
  · rw [curCtx_setBusy, regs_writeG]

theorem bt_setCounter : (regs (curCtx (setCounter a v s))).bt = (regs (curCtx s)).bt := by
  rw [regs_setCounter]; split
  · rfl
  · rw [Regs.write_bt]

theorem pcOf_setCounter : pcOf (setCounter a v s) = pcOf s := by
  unfold pcOf; rw [regs_setCounter]; split
  · rfl
  · rw [Regs.write_pc]

/-- The counter reads as written; g0, which holds 0, is never written but as it stands. -/
theorem readG_setCounter (h0 : a = 0 → v = 0) (n : BitVec 5) :
    readG (setCounter a v s) n = if n = a then v else readG s n := by
  by_cases hv : v = readG s a
  · have hu : setCounter a v s = s := if_pos hv
    rw [hu, hv]; split
    · rename_i hn; rw [hn]
    · rfl
  · have ha : a ≠ 0 := fun ha => hv (by rw [h0 ha, ha]; rfl)
    have hu : setCounter a v s = setBusy a.toNat 1 (writeG a v s) := if_neg hv
    rw [hu, readG, curCtx_setBusy, ← readG, readG_writeG, if_congr (and_iff_left ha) rfl rfl]

end

/-! ## Passes of a loop (R89) -/

/-- The pass counter and the kill horizon changed. -/
def withPasses (g : BitVec 32 → BitVec 32) (h : Option (BitVec 32) → Option (BitVec 32)) (c : Ctx) : Ctx :=
  { c with lpass := g c.lpass, hz := h c.hz }

section
variable {g : BitVec 32 → BitVec 32} {h : Option (BitVec 32) → Option (BitVec 32)} {s u : State}

theorem curCtx_passes (f : Ctx → Ctx) (s : State) :
    curCtx (passes f s) = if (curCtx s).inShadow then curCtx s else f (curCtx s) := curCtx_updCtx _ _

theorem curCore_passes (f : Ctx → Ctx) (s : State) :
    curCore (passes f s) = { curCore s with ctx := if (curCtx s).inShadow then curCtx s else f (curCtx s) } :=
  curCore_updCtx _ _

@[simp] theorem passes_inShadow : (curCtx (passes (withPasses g h) s)).inShadow = (curCtx s).inShadow := by
  rw [curCtx_passes]; split <;> rfl

@[simp] theorem regs_passes : regs (curCtx (passes (withPasses g h) s)) = regs (curCtx s) := by
  rw [curCtx_passes]; split <;> rfl

@[simp] theorem clk_passes : clk (passes (withPasses g h) s) = clk s := by
  unfold clk now; rw [passes_inShadow, curCore_passes]; rfl

theorem OnlyRegs.withPasses {c e : Ctx} (hr : OnlyRegs c e) : OnlyRegs (withPasses g h c) (withPasses g h e) := by
  obtain ⟨heq, hset⟩ := hr
  exact ⟨congrArg (Machine.withPasses g h) heq, hset⟩

/-- The passes counted on both sides, a word under way is so still. -/
theorem Touched.passes (ht : Touched s u) : Touched (passes (withPasses g h) s) (passes (withPasses g h) u) := by
  refine ⟨(onlyFocus_updCtx _ s).symm.trans (ht.focus.trans (onlyFocus_updCtx _ u)), ?_, ?_⟩
  · have hcore := ht.core
    unfold OnlyControl at hcore ⊢
    rw [curCore_passes, curCore_passes, hcore]
  · rw [curCtx_passes, curCtx_passes, ht.ctx.inShadow]; split
    · exact ht.ctx
    · exact ht.ctx.withPasses

end

/-! ## LOOPW, LEAVE and the words that do nothing (R56, R89, R90) -/

/-- The window and the counter of LOOPW, written (R89). -/
def loopWritten (p : BitVec 16) (a : BitVec 5) (s : State) : State :=
  writeP p (setCounter a (loopWindow (readP s) (readG s a)).2 s)

section
variable {s : State} {a : BitVec 5} {b : BitVec 3}

theorem touched_loopWritten (p : BitVec 16) (a : BitVec 5) (s : State) : Touched s (loopWritten p a s) :=
  (touched_setCounter s a _).trans (touched_writeP _ p)

theorem exec_loopw_again (hp : loopWindowNat (readP s) (readG s a) ≠ 0) (ht : Enterable s (readBt s b)) :
    exec (.loopw b a) s = .next (setPc (readBt s b) (setReady 3 (passes (withPasses (· + 1) id)
      (loopWritten (loopWindow (readP s) (readG s a)).1 a s)))) := by
  have hne : (loopWindow (readP s) (readG s a)).1 ≠ 0 := fun h0 => hp (by rw [← toNat_loopWindow, h0]; rfl)
  have hexec : exec (.loopw b a) s = execLoopw b a s := rfl
  rw [hexec, execLoopw]
  dsimp only
  rw [if_pos hne, goTo, ht]
  rfl

theorem exec_loopw_over (hp : loopWindowNat (readP s) (readG s a) = 0) :
    exec (.loopw b a) s = .next (retire 4 3 (passes (withPasses (fun _ => 0) (fun _ => none)) (loopWritten 1 a s))) := by
  have heq : (loopWindow (readP s) (readG s a)).1 = 0 := BitVec.eq_of_toNat_eq (by rw [toNat_loopWindow, hp]; rfl)
  have hexec : exec (.loopw b a) s = execLoopw b a s := rfl
  rw [hexec, execLoopw]
  dsimp only
  rw [if_neg (by simp [heq])]
  rfl

/-- LOOPW leaves every register but the window and the counter. -/
theorem loopWritten_registers (p : BitVec 16) (a : BitVec 5) (s : State) :
    readP (loopWritten p a s) = p
    ∧ readG (loopWritten p a s) a = (if (readG s a).toNat % 2 ^ 32 = 0 then readG s a else readG s a - 1)
    ∧ (∀ n, n ≠ a → readG (loopWritten p a s) n = readG s n)
    ∧ (∀ c, readBt (loopWritten p a s) c = readBt s c) := by
  have h0 : a = 0 → (loopWindow (readP s) (readG s a)).2 = 0 := fun ha => by
    rw [loopWindow_counter, ha]; rfl
  have hread (n : BitVec 5) : readG (loopWritten p a s) n
      = if n = a then (loopWindow (readP s) (readG s a)).2 else readG s n := by
    rw [← readG_setCounter s a _ h0, readG, loopWritten, regs_writeP]; rfl
  refine ⟨?_, ?_, fun n hn => ?_, fun c => ?_⟩
  · unfold readP loopWritten; rw [regs_writeP]
  · rw [hread, if_pos rfl, loopWindow_counter]
  · rw [hread, if_neg hn]
  · unfold readBt loopWritten; rw [regs_writeP, bt_setCounter]

/-- While the window is not empty a pass is counted, and the loop goes on at its target. -/
theorem loopw_again (hp : loopWindowNat (readP s) (readG s a) ≠ 0) (ht : Enterable s (readBt s b)) :
    ∃ t, exec (.loopw b a) s = .next t
      ∧ Retired (passes (withPasses (· + 1) id) s) t (readBt s b) 3
      ∧ readP t = BitVec.ofNat 16 (loopWindowNat (readP s) (readG s a))
      ∧ readG t a = (if (readG s a).toNat % 2 ^ 32 = 0 then readG s a else readG s a - 1)
      ∧ (∀ n, n ≠ a → readG t n = readG s n) ∧ (∀ c, readBt t c = readBt s c) := by
  obtain ⟨hP, ha, hg, hbt⟩ := loopWritten_registers (loopWindow (readP s) (readG s a)).1 a s
  have hregs := regs_branched (passes (withPasses (· + 1) id) (loopWritten (loopWindow (readP s) (readG s a)).1 a s))
    (readBt s b) 3
  rw [regs_passes] at hregs
  obtain ⟨hpc, hPt, hgt, hbtt⟩ := reads_of_regs hregs
  refine ⟨_, exec_loopw_again hp ht, .of_touched ?touched hpc ?issue, ?_, (hgt a).trans ha,
    fun n hn => (hgt n).trans (hg n hn), fun c => (hbtt c).trans (hbt c)⟩
  case touched =>
    exact (touched_loopWritten _ a s).passes.trans ((touched_setReady _ 3).trans (touched_setPc _ _))
  case issue =>
    rw [setPc, nextIssue_updRegs, nextIssue_setReady, clk_passes, clk_passes, (touched_loopWritten _ a s).clk]
  · rw [hPt, hP, ← toNat_loopWindow, BitVec.ofNat_toNat, BitVec.setWidth_eq]

/-- The window empty, the loop is over: P is 1 again, and the counter, which stood at 0, is left as it was. -/
theorem loopw_over (hp : loopWindowNat (readP s) (readG s a) = 0) :
    ∃ t, exec (.loopw b a) s = .next t
      ∧ Retired (passes (withPasses (fun _ => 0) (fun _ => none)) s) t (pcOf s + 4) 3
      ∧ readP t = 1 ∧ (∀ n, readG t n = readG s n) ∧ (∀ c, readBt t c = readBt s c) := by
  obtain ⟨hP, ha, hg, hbt⟩ := loopWritten_registers 1 a s
  rw [if_pos (counter_of_loopWindowNat_zero hp)] at ha
  have hregs := regs_retire (passes (withPasses (fun _ => 0) (fun _ => none)) (loopWritten 1 a s)) 4 3
  have hpc : pcOf (passes (withPasses (fun _ => 0) (fun _ => none)) (loopWritten 1 a s)) = pcOf s := by
    unfold pcOf; rw [regs_passes, loopWritten, regs_writeP]; exact pcOf_setCounter s a _
  rw [regs_passes, hpc] at hregs
  obtain ⟨hpct, hPt, hgt, hbtt⟩ := reads_of_regs hregs
  refine ⟨_, exec_loopw_over hp, .of_touched ?touched hpct ?issue, hPt.trans hP, fun n => ?_,
    fun c => (hbtt c).trans (hbt c)⟩
  case touched => exact (touched_loopWritten 1 a s).passes.trans (touched_retire _ 4 3)
  case issue => rw [nextIssue_retire, clk_passes, clk_passes, (touched_loopWritten 1 a s).clk]
  · rw [hgt]
    by_cases hn : n = a
    · rw [hn]; exact ha
    · exact hg n hn

end

/-- The current pass made the kill horizon (R90). -/
def withHorizon (c : Ctx) : Ctx := { c with hz := some c.lpass }

theorem exec_leave (s : State) :
    exec .leave s = .next (retire 4 1 (if inSegment s then updCtx withHorizon s else s)) := rfl

/-- A word that only retires leaves alone what is written again as it stood. -/
theorem retire_done_rewritten (size cyc : Nat) (s : State) :
    WordDone (updCtx (fun c => c) s) (retire size cyc s) (pcOf s + BitVec.ofNat 64 size) cyc 0 := by
  have hctx : curCtx (updCtx (fun c => c) s) = curCtx s := curCtx_updCtx s _
  have hcore : curCore (updCtx (fun c => c) s) = curCore s := curCore_updCtx s _
  have hclk : clk s = clk (updCtx (fun c => c) s) := by unfold clk now; rw [hctx, hcore]; rfl
  have hdone := retire_after (s := updCtx (fun c => c) s) (u := s) size cyc 0 (onlyFocus_updCtx _ s).symm
    (by rw [hcore]; rfl) (by rw [hctx]; exact .refl _) (fun n _ => by unfold readG; rw [hctx]) (by rw [hctx])
    (by rw [hctx]) (by rw [hctx]) hclk
  rwa [pcOf, hctx] at hdone

/-- LEAVE makes the current pass the kill horizon inside a segment, and only retires elsewhere. -/
theorem leave_done (s : State) : ∃ t, exec .leave s = .next t ∧
    WordDone (updCtx (fun c => if inSegment s then withHorizon c else c) s) t (pcOf s + 4) 1 0 := by
  rw [exec_leave]
  cases inSegment s with
  | false => exact ⟨_, rfl, retire_done_rewritten 4 1 s⟩
  | true =>
    have hpc : pcOf (updCtx withHorizon s) = pcOf s := by unfold pcOf; rw [curCtx_updCtx]; rfl
    rw [← hpc]
    exact ⟨_, rfl, retire_done 4 1 (updCtx withHorizon s)⟩

/-- Settles O9: LOOPW by its two ways, LEAVE by its place; NOP and the hint region only retire. -/
theorem loopAndLeave : Obligations.LoopAndLeave := by
  unfold Obligations.LoopAndLeave
  exact ⟨fun s b a => ⟨loopw_again, loopw_over⟩, leave_done, fun s => ⟨_, rfl, retire_done 4 1 s⟩,
    fun s w => ⟨_, rfl, retire_done 4 1 s⟩⟩

end Sys2Proof.Machine
end

section
/-! PROOFS of the statements about code lines and encodings (chapter 3): records enter their column queue. -/

namespace Sys2Proof.Machine

/-! ## Registers that stay (R49) -/

theorem regsKept_of_regs {s t : State} {next : Word} (h : regs (curCtx t) = { regs (curCtx s) with pc := next }) :
    RegsKept s t next := by
  obtain ⟨hpc, hp, hg, hbt⟩ := reads_of_regs h
  exact ⟨hg, hbt, hp, hpc⟩

/-! ## A record entering its queue (R37, R116) -/

/-- A record has entered its column's queue: beside the queue only the core's numbering, the expected tags and the
segment's own account have changed. -/
structure Entered (s u : State) (a : Applied) (nul : Bool) (q : QRec) : Prop where
  focus : OnlyFocus s u
  core : curCore u = { curCore s with
    nextId := (curCore u).nextId, queue := (curCore s).queue ++ [q], ctx := curCtx u }
  ctx : curCtx u = { curCtx s with xt := (curCtx u).xt, seg := (curCtx u).seg }
  queued : Queued s a nul q

/-- The record as it enters. -/
def newRecord (s : State) (a : Applied) (nul : Bool) : QRec :=
  { x :=
      { Issue.zero with
        col := colOf a.raw, raw := a.raw, offD := a.offD, offA := a.offA, offB := a.offB
        sD := snapOf (curCtx s) (nameD a.raw), sA := snapOf (curCtx s) (nameA a.raw)
        sB := snapOf (curCtx s) (nameB a.raw), seq := (curCore s).nextId, nul := nul }
    start := (if (curCtx s).seg.phase = .running then (curCtx s).seg.start else 0) + recStamp a.raw
    ii := recII a.raw, total := recIssues a.raw, next := 0, pc := pcOf s }

theorem queued_newRecord (s : State) (a : Applied) (nul : Bool) : Queued s a nul (newRecord s a nul) :=
  ⟨rfl, rfl, ⟨rfl, rfl, rfl⟩, ⟨rfl, rfl, rfl⟩, rfl, rfl, rfl, rfl, rfl, rfl⟩

theorem entered_enterQueue (a : Applied) (nul : Bool) (s : State) :
    Entered s (enterQueue a nul (pcOf s) s) a nul (newRecord s a nul) := by
  unfold enterQueue newId
  dsimp only
  refine ⟨(onlyFocus_updCore _ s).trans (onlyFocus_updCore _ _), ?core, ?ctx, queued_newRecord s a nul⟩
  case core => rw [curCore_updCore, curCtx_updCore, curCore_updCore]; rfl
  case ctx => rw [curCtx_updCore, curCore_updCore]; rfl

section
variable {s u : State} {a : Applied} {nul : Bool} {q : QRec}

theorem Entered.regs (h : Entered s u a nul q) : regs (curCtx u) = regs (curCtx s) := by
  rw [h.ctx]; rfl

theorem Entered.clk (h : Entered s u a nul q) : clk u = clk s := by
  have htempo : u.tempo = s.tempo := (congrArg State.tempo h.focus.1).trans rfl
  unfold Machine.clk now tempoNow
  rw [h.core, h.ctx, htempo]

theorem Entered.sp (h : Entered s u a nul q) : (curCore u).sp = (curCore s).sp :=
  (congrArg Core.sp h.core).trans rfl

theorem Entered.queue (h : Entered s u a nul q) : (curCore u).queue = (curCore s).queue ++ [q] :=
  (congrArg Core.queue h.core).trans rfl

end

/-! ## A record line (R60, R65) -/

/-- The record of a line with its slots applied from the task's registers (R60). -/
def appliedRecord (s : State) (raw : Line) : Applied :=
  applySlots (fun _ => true) (fun j => (curCtx s).main.read (slotReg raw j)) ⟨raw, 0, 0, 0⟩

section
variable {s : State} {raw : Line}

theorem exec_recordForward (raw : Line) (s : State) : exec (.recordForward raw) s = execRecordForward raw s := rfl

/-- Before and after its release a segment takes records (R37). -/
theorem takes_records (hmain : (curCtx s).inShadow = false)
    (hseg : (curCtx s).seg.phase = .pre ∨ (curCtx s).seg.phase = .running) :
    ¬ ((curCtx s).inShadow = true ∨ (curCtx s).seg.phase ≠ .pre ∧ (curCtx s).seg.phase ≠ .running) := by
  rw [hmain]; tauto

/-- Outside a segment a record line is illegal (R47). -/
theorem exec_recordForward_loose (h : (curCtx s).seg.phase = .loose) :
    exec (.recordForward raw) s = raise 0x01 0 s := by
  rw [exec_recordForward, execRecordForward]
  exact if_pos (.inr (by rw [h]; decide))

/-- A record that passes its checks, with no recording under way, enters its queue and retires its line. -/
theorem exec_recordForward_accepted (hmain : (curCtx s).inShadow = false)
    (hseg : (curCtx s).seg.phase = .pre ∨ (curCtx s).seg.phase = .running)
    (hcause : forwardCause s (appliedRecord s raw) = none) (hrec : (curCtx s).rec_ = false) :
    exec (.recordForward raw) s = .next (retire 64 1 (enterQueue (appliedRecord s raw)
      (nullified (curCtx s) (appliedRecord s raw).raw) (pcOf s) s)) := by
  have htape (nul : Bool) : recordToTape raw nul s = s := by unfold recordToTape; simp [hrec]
  rw [exec_recordForward, execRecordForward]
  dsimp only
  rw [if_neg (takes_records hmain hseg), ← appliedRecord, hcause]
  simp only [htape]

/-- A record that fails a check raises its cause (R65, R366). -/
theorem exec_recordForward_refused (hmain : (curCtx s).inShadow = false)
    (hseg : (curCtx s).seg.phase = .pre ∨ (curCtx s).seg.phase = .running) {code : Nat}
    (hcause : forwardCause s (appliedRecord s raw) = some code) :
    exec (.recordForward raw) s =
      .next (pushWordEvent code (if code = 0x44 then 0 else colOf raw) 0 (pcOf s) s) := by
  rw [exec_recordForward, execRecordForward]
  dsimp only
  rw [if_neg (takes_records hmain hseg), ← appliedRecord, hcause]

end

/-- A faulting word keeps its registers and its queue, and adds its event. -/
theorem pushWordEvent_effect (code col : Nat) (info pc : Word) (s : State) :
    OnlyFocus s (pushWordEvent code col info pc s) ∧ RegsKept s (pushWordEvent code col info pc s) (pcOf s)
      ∧ SameBytes s (pushWordEvent code col info pc s)
      ∧ (curCore (pushWordEvent code col info pc s)).queue = (curCore s).queue
      ∧ (curCore (pushWordEvent code col info pc s)).events = (curCore s).events ++ [⟨code, col, info, pc⟩] := by
  have hcore : curCore (pushWordEvent code col info pc s) = { curCore s with
      ready := max (curCore s).ready ((curCore s).ctime.toNat + 1)
      events := (curCore s).events ++ [⟨code, col, info, pc⟩] } := by
    unfold pushWordEvent pushEvent; rw [curCore_updCore, curCore_updCore]
  have hfocus : OnlyFocus s (pushWordEvent code col info pc s) :=
    (onlyFocus_updCore _ s).trans (onlyFocus_updCore _ _)
  have hctx : curCtx (pushWordEvent code col info pc s) = curCtx s := (congrArg Core.ctx hcore).trans rfl
  exact ⟨hfocus, regsKept_of_regs (by rw [hctx]; rfl), .of_focus hfocus (by rw [hcore]), by rw [hcore],
    by rw [hcore]⟩

/-- A record line that enters takes its line and one cycle. -/
theorem Entered.retire {s u : State} {a : Applied} {nul : Bool} {q : QRec} (h : Entered s u a nul q) :
    OnlyFocus s (retire 64 1 u) ∧ RegsKept s (retire 64 1 u) (pcOf s + 64) ∧ SameBytes s (retire 64 1 u)
      ∧ nextIssue (retire 64 1 u) = Machine.clk s + 1
      ∧ (curCore (retire 64 1 u)).queue = (curCore s).queue ++ [q] := by
  have hfocus := h.focus.trans (onlyFocus_retire 64 1 u)
  refine ⟨hfocus, regsKept_of_regs ?regs, .of_focus hfocus ?sp, ?issue, ?queue⟩
  case regs => rw [regs_retire, h.regs, pcOf, h.regs]; rfl
  case sp => rw [curCore_retire]; exact h.sp
  case issue => rw [nextIssue_retire, h.clk]
  case queue => rw [curCore_retire]; exact h.queue

/-! ## A played record (R342) -/

/-- What the feed of a record's entry does to the core before the record is checked (R342). -/
def fed (c : Core) : Core :=
  { c with ready := max c.ready (c.ctime.toNat + 1), play := { c.play with next := c.play.next + 1 } }

section
variable (s : State)

theorem getCore_fed_ctx (k : Nat) : (getCore (updCore fed s) k).ctx = (getCore s k).ctx := by
  rw [getCore_updCore]; split
  · rename_i hk; rw [hk]; rfl
  · rfl

theorem getCore_fed_resident (k : Nat) : (getCore (updCore fed s) k).resident = (getCore s k).resident := by
  rw [getCore_updCore]; split
  · rename_i hk; rw [hk]; rfl
  · rfl

theorem apertureOf_fed (apt : Nat) : apertureOf (updCore fed s) apt = apertureOf s apt := by
  have hctx : curCtx (updCore fed s) = curCtx s := curCtx_updCore s fed
  have hhas (i : Nat) : gangHas (updCore fed s) i = gangHas s i := by
    unfold gangHas
    simp only [getCore_fed_ctx, getCore_fed_resident, hctx]
    rfl
  unfold apertureOf namedApertures segGang
  simp only [hctx, hhas]
  rfl

/-- The checks of a record do not see the feed (R65). -/
theorem forwardCause_fed (a : Applied) : forwardCause (updCore fed s) a = forwardCause s a := by
  have hcore : curCore (updCore fed s) = fed (curCore s) := curCore_updCore s fed
  have hctx : curCtx (updCore fed s) = curCtx s := curCtx_updCore s fed
  have hlegal : recordLegal (updCore fed s) a = recordLegal s a := by
    unfold recordLegal operationOk segGang
    rw [hcore, hctx]
    rfl
  unfold forwardCause
  simp only [hlegal, apertureOf_fed, hcore]
  rfl

end

/-- The state in which a played record has entered. -/
def playedInto (a : Applied) (nul : Bool) (s : State) : State :=
  enterQueue a nul (pcOf (updCore fed s)) (updCore fed s)

/-- Slots of which none is used leave a record as it is. -/
theorem applySlots_unused {use : Nat → Bool} (h : ∀ j, j < 4 → use j = false) (v : Nat → Word) (a : Applied) :
    applySlots use v a = a := by
  simp [applySlots, List.range_succ, h]

/-- With no slot patched no offset is (R113). -/
theorem patchLeavesSpace_unpatched {patched : Nat → Bool} (h : ∀ j, j < 4 → patched j = false) (c : Ctx)
    (a : Applied) : patchLeavesSpace c a patched = false := by
  have hany (code : Nat) : ((List.range 4).any fun j => patched j && slotCode a.raw j == code) = false :=
    List.any_eq_false.mpr fun j hj => by simp [h j (List.mem_range.mp hj)]
  unfold patchLeavesSpace
  simp only [hany, Bool.and_false, Bool.false_and, Bool.or_false]

/-- An unpatched record entry, with no offsets after it, that passes its checks enters as it stands. -/
theorem playRecord_unpatched {s : State} {e : TapeEntry}
    (hoff : ∀ o, (curCore s).tape.entries[(curCore s).play.next + 1]? = some o → entryKind o ≠ 6)
    (hslots : ∀ j, j < 4 → patchSlot e.annex j = none) (hcause : forwardCause s ⟨e.payload, 0, 0, 0⟩ = none) :
    playRecord e s = playedInto ⟨e.payload, 0, 0, 0⟩ (bitAt e.annex 58) s := by
  have hunused : ∀ j, j < 4 → (patchSlot e.annex j).isSome = false := fun j hj => by rw [hslots j hj]; rfl
  unfold playRecord
  extract_lets c off s1 total slot value a
  have hnone : off = none := by
    simp only [off, c]
    split
    · exact if_neg (hoff _ ‹_›)
    · rfl
  have hs1 : s1 = updCore fed s := by simp only [s1, hnone]; rfl
  have ha : a = ⟨e.payload, 0, 0, 0⟩ := by simp only [a, slot, total, hnone, applySlots_unused hunused]
  have hcauseFed : forwardCause s1 a = none := by rw [hs1, ha, forwardCause_fed, hcause]
  rw [if_neg (by simp [hnone]), if_neg ?filled, if_neg ?fits, hcauseFed, hs1, ha, playedInto]
  case filled =>
    rw [Bool.not_eq_true, List.any_eq_false]
    exact fun j hj => by simp [slot, hslots j (List.mem_range.mp hj)]
  case fits => rw [patchLeavesSpace_unpatched hunused]; decide

/-- The entry of an unpatched record, when its feed is due in a segment, is played (R342). -/
theorem exec_playedForward_record {s : State} {e : TapeEntry} (hdue : feedDue s = true)
    (hseg : (curCtx s).seg.phase = .pre ∨ (curCtx s).seg.phase = .running)
    (hentry : (curCore s).tape.entries[(curCore s).play.next]? = some e) (hgood : e.bad = false)
    (hkind : entryKind e = 1) : exec .playedForward s = .next (playRecord e s) := by
  have hexec : exec .playedForward s = execPlayedForward s := rfl
  have hphase : (curCtx s).seg.phase ≠ .loose := by rcases hseg with h | h <;> simp [h]
  rw [hexec, execPlayedForward, hdue]
  dsimp only
  rw [if_neg (by decide), hentry]
  dsimp only
  rw [if_neg (show (curCore s).ctx.seg.phase ≠ .loose from hphase), if_neg (by simp [hgood]), if_pos hkind]

/-- A played record enters as it would have before the feed, which moves play on by its entry. -/
theorem playedInto_effect (a : Applied) (nul : Bool) (s : State) :
    OnlyFocus s (playedInto a nul s) ∧ RegsKept s (playedInto a nul s) (pcOf s) ∧ SameBytes s (playedInto a nul s)
      ∧ (curCore (playedInto a nul s)).queue = (curCore s).queue ++ [newRecord s a nul]
      ∧ Queued s a nul (newRecord s a nul)
      ∧ (curCore (playedInto a nul s)).play.next = (curCore s).play.next + 1 := by
  have hcore : curCore (updCore fed s) = fed (curCore s) := curCore_updCore s fed
  have hctx : curCtx (updCore fed s) = curCtx s := curCtx_updCore s fed
  have hent : Entered (updCore fed s) (playedInto a nul s) a nul (newRecord (updCore fed s) a nul) :=
    entered_enterQueue a nul (updCore fed s)
  have hfocus := (onlyFocus_updCore fed s).trans hent.focus
  have hq : newRecord (updCore fed s) a nul = newRecord s a nul := by
    unfold newRecord pcOf; rw [hctx, hcore]; rfl
  refine ⟨hfocus, regsKept_of_regs ?regs, .of_focus hfocus ?sp, ?queue, queued_newRecord s a nul, ?play⟩
  case regs => rw [hent.regs, hctx]; rfl
  case sp => rw [hent.sp, hcore]; rfl
  case queue => rw [hent.queue, hcore, hq]; rfl
  case play => rw [hent.core, hcore]; rfl

/-- Settles O40: a line's record is accepted, refused or illegal by the place and the checks; a played one is accepted
in the same way. -/
theorem recordForwards : Obligations.RecordForwards := by
  unfold Obligations.RecordForwards
  refine ⟨fun s raw a hmain hseg ha => ⟨fun hcause hrec => ?accepted, fun code hcause => ?refused⟩,
    fun s raw hloose hh => ?loose, fun s e hdue hseg hentry hgood hkind hoff hslots hcause => ?played⟩
  case accepted =>
    subst ha
    obtain ⟨hfocus, hregs, hbytes, hissue, hqueue⟩ :=
      (entered_enterQueue (appliedRecord s raw) (nullified (curCtx s) (appliedRecord s raw).raw) s).retire
    exact ⟨_, _, exec_recordForward_accepted hmain hseg hcause hrec, hfocus, hregs, hbytes, hissue, hqueue,
      queued_newRecord _ _ _⟩
  case refused =>
    subst ha
    obtain ⟨hfocus, hregs, hbytes, hqueue, hevents⟩ :=
      pushWordEvent_effect code (if code = 0x44 then 0 else colOf raw) 0 (pcOf s) s
    exact ⟨_, _, exec_recordForward_refused hmain hseg hcause, hfocus, hregs, hbytes, hqueue, hevents, rfl, rfl⟩
  case loose =>
    refine ⟨_, (exec_recordForward_loose hloose.loose).trans (raise_trap 0x01 0 hloose ?_ hh),
      trapped_enterHandler (by decide) 0 (pcOf s)⟩
    simp [handlingHere, handlingOf, hloose.loose]
  case played =>
    refine ⟨playedInto ⟨e.payload, 0, 0, 0⟩ (bitAt e.annex 58) s, _, ?_, playedInto_effect ..⟩
    rw [exec_playedForward_record hdue hseg hentry hgood hkind, playRecord_unpatched hoff hslots hcause]

end Sys2Proof.Machine
end
